-- ==== Sys2Proof/Word.lean ====
section
/-!
DEFINITION. Word types and the canonical sparse map every indexed piece of state is held in.
-/
namespace Sys2Proof

/-- A scalar register, an address, an instruction word (R27, R157). -/
abbrev Word := BitVec 64
/-- One lane of a vector register (R157). -/
abbrev Lane := BitVec 32
abbrev Byte := BitVec 8
/-- A lane mask: bit `l` is lane `l`; the widest width is 128 (R157, R242). -/
abbrev Mask := BitVec 128

/-- A total map from keys to values with a default, as plain data: the listed pairs, keys rising,
no listed value equal to the default. -/
abbrev Map (α : Type) := List (Nat × α)

variable {α : Type}

def Map.get (d : α) : Map α → Nat → α
  | [], _ => d
  | (k, v) :: m, k' => if k = k' then v else Map.get d m k'

def Map.erase (m : Map α) (k : Nat) : Map α := m.filter (fun p => p.1 != k)

def Map.insert : Map α → Nat → α → Map α
  | [], k, v => [(k, v)]
  | (k₀, v₀) :: m, k, v => if k < k₀ then (k, v) :: (k₀, v₀) :: m else (k₀, v₀) :: Map.insert m k v

/-- Writing the default removes the entry, so equal maps are equal lists. -/
def Map.set [DecidableEq α] (d : α) (m : Map α) (k : Nat) (v : α) : Map α :=
  if v = d then Map.erase m k else Map.insert (Map.erase m k) k v

/-- The canonical form: keys strictly rising, no entry holding the default. -/
def Map.wf [DecidableEq α] (d : α) : Map α → Bool
  | [] => true
  | [(_, v)] => v != d
  | (k, v) :: (k', v') :: m => decide (k < k') && v != d && Map.wf d ((k', v') :: m)

end Sys2Proof
end

