-- ==== Sys2Proof/Config.lean ====
section
/-!
DEFINITION. What an implementation fixes and the manual leaves open: constants without a value in Lean.
Each is named in a log entry; no proof can see what it is.
-/
namespace Sys2Proof.Config

/-- The free value of the `n`-th open choice (log entry 2). -/
opaque freeValue : Nat → Word
/-- Which result an approximate function delivers within its error bound, by function, format and operand
(R180, log entry 3). -/
opaque approx : Nat → Nat → Nat → Nat
/-- Extra cycles of the column clock a step takes (log entry 4). -/
opaque stall : Nat → Nat
/-- What a peer answers to a path 0x5 access: 0, or the code of the fault it found (log entry 6). -/
opaque peerFault : Nat → Nat → Nat → Nat
/-- Bytes of a pre-emption image in a checkpoint slot, by generation and number (log entry 7). -/
opaque imageBytes : Nat → Nat → List Byte
/-- The device's attestation key: its identifier, its secrets by leaf and chain, and each leaf's randomizer (R351, log
entry 8). -/
opaque attId : BitVec 128
opaque attSecret : Nat → Nat → BitVec 256
opaque attNonce : Nat → BitVec 256
/-- Hash of the firmware key the fuses hold, and the version floor (R346, R350; log entry 8). -/
opaque fusedKeyHash : BitVec 256
opaque fwFloor : BitVec 32
/-- The DRAM bank a 64-byte line lies in, and whether a directory lies in a bank (log entry 59). -/
opaque lineBank : Nat → Nat
opaque dirBank : Nat → Nat → Bool
/-- A transaction's message in the payload of flits, by its kind and the data bytes it carries; where a flit's header holds
its sequence number, type and acknowledgement; and the check over its bytes 0 to 247 (log entry 60). -/
opaque message : Nat → Nat → List Byte
opaque flitHeader : Nat → Nat → Nat → Nat
opaque flitCheck : List Byte → BitVec 64
/-- Which of the up links to a peer a line's transactions take: a number, by peer, line and links up (log entry 60). -/
opaque route : Nat → Nat → List Nat → Nat
/-- Spare erase units beyond the first, by flash stack (log entry 16). -/
opaque spareUnits : Nat → Nat

end Sys2Proof.Config
end

