-- ==== Sys2Proof/Machine/Mem.lean ====
section
/-!
DEFINITION. Byte memory and its wide accesses, the byte order decided once (R16).
-/
namespace Sys2Proof

/-- Byte memory: the listed (address, byte) cells; an unlisted address reads as zero
(log entry 1). -/
abbrev Memory := List Host.Cell

/-- The canonical form of a memory: addresses strictly rising, no listed zero. -/
def Memory.wf (m : Memory) : Bool := Map.wf 0#8 m

def Memory.rd (m : Memory) (a : Nat) : Byte := Map.get 0#8 m a
def Memory.wr (m : Memory) (a : Nat) (v : Byte) : Memory := Map.set 0#8 m a v

/-- `n` bytes from `a`, the byte at `a` least significant (R16). -/
def Memory.rdN (m : Memory) (a : Nat) : Nat → Nat
  | 0 => 0
  | n + 1 => (Memory.rd m a).toNat + 256 * Memory.rdN m (a + 1) n

def Memory.wrN (m : Memory) (a : Nat) : Nat → Nat → Memory
  | 0, _ => m
  | n + 1, v => Memory.wrN (Memory.wr m a (BitVec.ofNat 8 v)) (a + 1) n (v / 256)

end Sys2Proof
end

