-- ==== Sys2Proof/Machine/Parts.lean ====
section
/-!
DEFINITION. The parts of the state a team's image is made of, which a fabric message can carry to a peer: places,
faults, splits and groups, teams, engine commands, matrix operations and installs.
-/
namespace Sys2Proof

/-- Why a team is asked to stop (R291). -/
inductive Why where
  | bivouac
  | checkpoint
  | cancel
  | migration
  | command
  deriving DecidableEq, Repr

end Sys2Proof
namespace Sys2Proof.Machine

/-! ## Places -/

/-- A space of bytes an access ends in, after translation (R87). -/
inductive Sp where
  /-- Physical DRAM of the vaults and memory stacks; the page is indexed, durable (R95). -/
  | mem (ix dur : Bool)
  /-- Flash space (R95, F). -/
  | flash
  /-- The scratchpad of a Rope, by pooled offset (R89). -/
  | sram (rope : Nat)
  /-- An on-chip window: bits 59 to 0 of the address (R91). -/
  | win
  /-- A peer's generic address space (R94). -/
  | remote (peer : Nat)
  /-- Device control (R87). -/
  | ctl
  deriving DecidableEq, Repr

/-- A byte of a space. The bytes of one access are consecutive in it. -/
structure Loc where
  sp : Sp
  a : Nat
  deriving DecidableEq, Repr

/-- A run of consecutive bytes. -/
structure Run where
  loc : Loc
  n : Nat
  deriving DecidableEq, Repr

/-! ## Faults as the device reports them (R281 to R284) -/

structure Flt where
  code : Nat
  lane : Nat := 0xFFFF
  addr : Word := 0
  info32 : Nat := 0
  info64 : Word := 0
  deriving DecidableEq, Repr

/-- A fault record before its SEQ is known (R283). -/
structure FRec where
  ten : Nat
  launch : Nat
  team : Nat
  /-- The index of the stopped group, for the answer to find it; none for a device action. -/
  grp : Option Nat
  gslot : Nat
  gid : Nat
  col : Nat
  flags : Nat
  pc : Word
  gen : Nat
  flt : Flt
  deriving DecidableEq, Repr

/-! ## Splits and groups (R242 to R263) -/

/-- What a split waits at. -/
inductive Wait where
  | none
  /-- The JOIN's own J (R246). -/
  | join (j : Word)
  /-- Barrier, phase and next address (R257). -/
  | bar (b phase : Nat) (next : Word)
  | barw (b phase : Nat) (next : Word)
  /-- AWAIT's target, as it stood when it issued, and the next address (R141, R143). -/
  | await (n : Nat) (next : Word)
  /-- CWAITGE's address, target, scope and next address (R144). -/
  | cwait (a : Word) (target scope : Nat) (next : Word)
  | nap (till : Nat)
  /-- For the host's answer to a not-present report (R98), with the fault a Deliver answer raises;
  `defer` marks a guarded command on an open slot, whose fault waits for its guard (R131). -/
  | answer (ten page : Nat) (f : Flt) (defer : Bool)
  /-- The same for the fetch of its next word, which it has not issued (R88, R98). -/
  | fetching (ten page : Nat) (f : Flt)
  /-- Until every earlier access of the group is complete, before an instruction goes on (R105, R236). -/
  | drain
  /-- FENCE, until the group's accesses numbered below `upTo` are complete, or those of them that read (R195). -/
  | fence (upTo scope : Nat) (strong : Bool) (next : Word)
  /-- Until granules of the staging cache that the instruction reads are filled (R77). -/
  | fill (granules : List Nat)
  /-- An answered report: the instruction executes anew (R99, R280). -/
  | retry
  /-- TJOIN's push, until the queue has an entry (R269). -/
  | push
  /-- LCANCEL and CKPT, until peers have what they ask: destination, result, next address, and the cancels that peers still
  have to answer, by peer and launch (R273, R330). -/
  | peers (d v : Nat) (next : Word) (cancels : List (Nat × Nat))
  /-- Stopped at a yield check for pre-emption (R293). -/
  | yielded
  deriving DecidableEq, Repr

structure Split where
  live : Bool
  pc : Word
  m0 : Mask
  wait : Wait
  /-- Ready since this tick (R260). -/
  since : Nat
  /-- The pc of a faulting instruction the split stopped at, and the fault's code (R280). -/
  fault : Option (Word × Nat)
  /-- What the split's yield check named (R292): bitmap, slots, banks, ranges; none names everything. -/
  named : Option (Word × Bool × Bool × Word × Word)
  /-- The wait a pre-emption request ended (R146, R262). -/
  resume : Wait
  /-- The Deliver answer a guarded command on an open slot takes when it re-executes (R131). -/
  denied : Option Flt
  deriving DecidableEq, Repr

inductive Guard where
  | open
  | true
  | false
  deriving DecidableEq, Repr

/-- What a completed barrier phase orders behind it (R239): the accesses and matrix operations of group `grp` numbered
below `upTo` come before those of the group that waited, numbered from `after` on. -/
structure Sync where
  grp : Nat
  upTo : Nat
  after : Nat
  deriving DecidableEq, Repr

/-- A FENCE below the system's scope that has retired: split, scope, and the accesses of the group before it (R195, R229). -/
structure FenceMark where
  sp : Nat
  scope : Nat
  upTo : Nat
  deriving DecidableEq, Repr

structure Group where
  /-- The team, by its unique number in this run. -/
  team : Nat
  gid : Nat
  slot : Nat
  s0 : Split
  s1 : Split
  /-- Lanes that have not exited. -/
  lanes : Mask
  sregs : Map Word
  /-- Lane `l` of register `v` at key `128 * v + l`. -/
  vregs : Map Lane
  masks : Map Mask
  guards : Map Guard
  qnone : Bool
  cut : Bool
  split : Bool
  mqpart : Bool
  idemRetry : Nat
  regionOpen : Bool
  entry : Word
  emask : Mask
  /-- BATCHOPEN without its modulus (R140). -/
  batchOpen : Nat
  /-- Batches with a deferred 0x30 (R132). -/
  pend30 : List Nat
  unalloc : Bool
  stopped : Bool
  /-- Saved since the stop (R283). -/
  saved : Bool
  /-- The SEQ of the latest record of the stop, once posted (R286). -/
  seq : Option Nat
  /-- Suspect batches of a sub-array fence, first and last (R221). -/
  suspect : Option (Nat × Nat)
  syncs : List Sync
  fences : List FenceMark
  ended : Bool
  deriving DecidableEq, Repr

/-! ## Teams -/

inductive BarCond where
  | idle
  | active
  | invalid
  deriving DecidableEq, Repr

/-- A barrier (R254). `phase` counts its phases, for a split to know its own (R262). -/
structure Barrier where
  cond : BarCond
  gset : BitVec 16
  lmask : Mask
  arrived : Map Mask
  pending : BitVec 64
  arrPend : BitVec 16
  /-- Abandon pending, per group: the code, 0 for none. -/
  abandon : Map Nat
  phase : Nat
  /-- Each arrived group's next access number at its latest arrival: what it issued before, the completion releases (R239). -/
  tickets : Map Nat
  /-- What completed phases order before a group's wait that is still to come: the waiting group, a participant, and its ticket. -/
  covers : List (Nat × Nat × Nat)
  deriving DecidableEq, Repr

/-- A live entry of a team's handle table (R107): a bit string's directory or a tensor record. -/
inductive HKind where
  | bits (dir : Nat)
  | tensor (record : List Byte)
  deriving DecidableEq, Repr

structure Handle where
  idx : Nat
  tag : Nat
  kind : HKind
  deriving DecidableEq, Repr

structure Team where
  uid : Nat
  ten : Nat
  /-- LAUNCHID and TEAMID (R45). -/
  launch : Nat
  id : Nat
  col : Nat
  ngroups : Nat
  vregs : Nat
  frame : Word
  parent : Word
  prio : Nat
  pushTime : Nat
  scrBase : Nat
  heat : Nat
  /-- Its charge has risen on a column that is below the floor since (R73). -/
  risen : Bool
  /-- Resident since before this heat interval began (R71). -/
  whole : Bool
  handles : List Handle
  barriers : Map Barrier
  bins : Map (BitVec 32)
  requests : List Why
  /-- The die a privileged command moves it to (R277). -/
  dest : Option Nat
  /-- Some agent saved the team (R294); it holds no column. -/
  stopped : Bool
  ended : Bool
  deriving DecidableEq, Repr

/-! ## Engine jobs (R128 to R156) -/

/-- Where an element's value comes from. -/
inductive ESrc where
  | lit (v : Nat)
  /-- `w` bits from bit `bit` of the bytes at `locs`. -/
  | at (locs : List Loc) (bit w : Nat)
  /-- `n` accumulator bytes from `a` of column `col`, converted by a drain code (R209). -/
  | acc (col a n code : Nat) (sat : Bool)
  deriving DecidableEq, Repr

/-- One element a job writes: `w` bits from bit `bit` of the bytes at `dst`. -/
structure El where
  dst : List Loc
  bit : Nat
  w : Nat
  src : ESrc
  deriving DecidableEq, Repr

/-- Conversion of CPTILE: source and destination element codes, scale bits, .sat. -/
structure Conv where
  se : Nat
  de : Nat
  scale : Nat
  sat : Bool
  deriving DecidableEq, Repr

/-- One bit-field write of a landed piece, the 64-byte lines its data came from, by space number and line, and the lane or row of
the copy it belongs to. -/
structure BitWr where
  locs : List Loc
  bit : Nat
  w : Nat
  v : Nat
  src : List (Nat × Nat)
  row : Nat := 0
  deriving DecidableEq, Repr

/-- A piece: the writes into one line, the bytes it counts, and whether its counter has them already (R144). -/
structure Piece where
  wr : List BitWr
  count : Nat
  counted : Bool := false
  deriving DecidableEq, Repr

/-- A footprint region (R154): address space number, range, written. -/
structure Foot where
  space : Nat
  lo : Nat
  hi : Nat
  wr : Bool
  deriving DecidableEq, Repr

/-- A completion word brought to its effect (R130). -/
inductive Cw where
  | none
  | counter (scope : Nat) (l : Loc)
  | barrier (b : Nat)
  deriving DecidableEq, Repr

/-- One contiguous copy of a lane. -/
structure Move where
  lane : Nat
  src : Nat
  dst : Nat
  n : Nat
  align : Nat
  deriving DecidableEq, Repr

/-- What a command does, before any address check, and its completion word (R133, R134, R137, R139, R200, R211):
moves; MOD, tensor records and block; a range and pattern; slots, stride and source; or what a drain delivers, the
tile, rows, stride and destination. A patch changes it (R151). -/
inductive Recipe where
  | copy (ms : List Move) (cw : Word)
  | tile (mod : BitVec 10) (src dst : List Byte) (block : List Word) (scale cw : Word)
  | fill (dst : Word) (n : Nat) (pat cw : Word)
  | oload (slot n stride base : Nat) (cw : Word)
  | astore (un : Bool) (code : Nat) (sat : Bool) (tile row0 nrows stride dst : Nat) (cw : Word)
  deriving DecidableEq, Repr

inductive JobSt where
  | queued
  | held (idx tag : Nat) (patched : Bool)
  | landing (ps : List Piece)
  deriving DecidableEq, Repr

inductive JobKind where
  | copy
  | tile (c : Conv)
  | fill
  /-- OLOAD into slots `s` to `s + n - 1` of column `col`. -/
  | oload (col s n : Nat)
  /-- ASTORE of `n` tiles from `tile` of column `col`. -/
  | astore (col tile n : Nat)
  deriving DecidableEq, Repr

structure Job where
  id : Nat
  grp : Nat
  team : Nat
  batch : Nat
  kind : JobKind
  guard : Option Nat
  failed : Option Flt
  st : JobSt
  /-- What it was issued to do: a command that still waits is placed by it anew (R146, R295). -/
  recipe : Recipe
  /-- Peers are asked for source bytes (R338), and source lines that came with an uncorrectable error (R132). -/
  asked : Bool := false
  bad : List (Nat × Nat) := []
  /-- Its places are those of before a restore or a page edit: they are found anew before it goes on (R97, R295). -/
  stale : Bool := false
  els : List El
  cw : Cw
  foot : List Foot
  deriving DecidableEq, Repr

/-! ## Matrix operations and installs -/

/-- What a queued matrix operation does (R202, R206). -/
inductive MxKind where
  /-- A quarter operation; `scales` as read at issue, lane `l` of scale register `j` at key `128 * j + l`. -/
  | quarter (q fmt bs : Nat) (ov : Bool) (aslot bslot tile : Nat) (scales : Map Lane)
  /-- AZERO of `n` tiles. -/
  | zero (first n : Nat)
  /-- ADRAIN of `nrows` rows into vector registers from `dst`, by a code, for lanes at a width (R210). -/
  | drain (code : Nat) (sat : Bool) (tile row0 nrows dst width : Nat) (lanes : List Nat)
  /-- A claim's zeroing of slots or banks, and its status in a scalar register (R199). -/
  | claim (slots banks : List Nat) (dst : Option Nat)
  deriving DecidableEq, Repr

/-- A matrix operation issued and not yet applied (R198). -/
structure MxOp where
  id : Nat
  grp : Nat
  batch : Nat
  kind : MxKind
  deriving DecidableEq, Repr

/-- An install in flight (R80). -/
structure Install where
  id : Nat
  grp : Nat
  team : Nat
  batch : Nat
  ten : Nat
  region : Nat
  src : Nat
  /-- The record's place, and its address. -/
  record : Loc
  recordAt : Word
  /-- When it was issued (R329). -/
  issuedAt : Nat
  /-- The end code once known. -/
  code : Option Nat
  started : Bool
  committed : Bool
  /-- New units programmed so far, and units retired by errors on the way. -/
  news : List Nat
  bad : Nat
  tries : Nat
  /-- Bytes read so far, by offset from the source. -/
  data : Memory
  foot : List Foot
  deriving DecidableEq, Repr

/-! ## Directories -/

/-- The parts of a directory (R111), exact at every string write (R114). -/
structure DirParts where
  /-- Per superblock: the ones before it, hyperblocks before its own as sealed; and the ones in its blocks 0 to j. -/
  rank : List (Nat × List Nat)
  /-- The Fenwick tree of each hyperblock's net change in ones since the string was sealed. -/
  tree : List Int
  /-- Every 8,192nd one and every 8,192nd zero. -/
  ones : List Nat
  zeros : List Nat
  /-- Kind 1, per superblock: the blocks' minima, the superblock's minimum and maximum; and the levels of the tree
  above them, fan-out 16, of absolute minima and maxima. -/
  excess : List (List Int × Int × Int)
  levels : List (List (Int × Int))
  deriving DecidableEq, Repr

/-- A string's directory (R108, R111). -/
structure Dir where
  id : Nat
  ten : Nat
  base : Nat
  len : Nat
  kind : Nat
  labels : Nat
  values : Nat
  nodes : Nat
  stack : Nat
  /-- Physical address of each 4 KiB page of the string, in order. -/
  pages : List Nat
  built : Bool
  /-- Ones of each hyperblock when the string was sealed. -/
  sealedOnes : List Nat
  parts : DirParts
  deriving DecidableEq, Repr

/-! ## Images -/

/-- A team's image (R294): the team, its groups as saved, claimed slot and bank numbers with what is
live of them, row owners by group number plus one, live scratchpad, the commands, matrix operations and installs
that are held, guarded or behind a guard, and its records not yet posted. These name a group by its place in `groups`. -/
structure Image where
  team : Team
  groups : List Group
  slotNos : List Nat
  bankNos : List Nat
  slots : Memory
  accum : Memory
  /-- Those of its slots that count as FP6 slots (R59). -/
  fp6 : List Nat := []
  owners : Map Nat
  scratch : Memory
  jobs : List Job
  ops : List MxOp
  installs : List Install
  records : List FRec
  /-- Bytes its slots, banks and scratchpad take at the least (R294). -/
  size : Nat
  /-- Where its bytes stand in the tenant's image area. -/
  place : Option Nat := none
  /-- In a message to a peer, the directories its string handles name. -/
  dirs : List Dir := []
  deriving DecidableEq, Repr

end Sys2Proof.Machine
end

