-- ==== Sys2Proof/Syntax.lean ====
section
/-!
DEFINITION. The instructions and events of the part: one constructor per row of spec/opcode_table.json.
A full form carries its fields as R31 lays them out, each source already told apart by its kind (R33).
A pair word is the constructor of its first half H0, with the second half H1 as an argument (R39).
An event is a step of an agent that is no instruction word; its arguments say what the agent found.
-/
namespace Sys2Proof

/-- A source field (R33). For kind 00 the opcode fixes the class of the register (R36).
`litWord` is kind 11 with value 0x80: the 64-bit literal word that follows (R34). -/
inductive Src where
  | reg (n : BitVec 8)
  | sca (n : BitVec 8)
  | cst (k : BitVec 8)
  | lit (v : BitVec 8)
  | litWord (w : Word)
  deriving DecidableEq, Repr

/-- The operand fields of a full form (R31). OPC is the constructor, L follows from the sources (R34). -/
structure Fields where
  msk : BitVec 4
  dst : BitVec 8
  a : Src
  b : Src
  c : Src
  mod : BitVec 10
  deriving DecidableEq, Repr

/-- The operations of a pair half, in the order of their codes 0x00 to 0x29 (R40). -/
inductive PairOp where
  | nop
  | smov
  | sadd
  | ssub
  | sand
  | sor
  | sxor
  | sshl
  | sshr
  | ssar
  | smin
  | smax
  | vmov
  | vaddI32
  | vsubI32
  | vmulI32
  | vand
  | vor
  | vxor
  | vshl
  | vshr
  | vsar
  | vminI32
  | vminN32
  | vmaxI32
  | vmaxN32
  | vabsI32
  | faddF32
  | fsubF32
  | faddF16x2
  | fmulF32
  | fminF32
  | fmaxF32
  | faddBf16x2
  | fmulBf16x2
  | mand
  | mor
  | mxor
  | mandn
  | slea
  | vaddI16x2
  | vaddI8x4
  deriving DecidableEq, Repr

/-- One half of a pair word (R39). -/
structure Half where
  op : PairOp
  d : BitVec 8
  x : Src
  deriving DecidableEq, Repr

/-- Which memory a fill-pending line lies in (R101). -/
inductive FillSpace where
  | dram
  | sram
  deriving DecidableEq, Repr

/-- What goes with an item that moves to another module (R274): its level as raised, how often it was passed over and
raised, and how long ago it was pushed and queued. -/
structure Carried where
  prio : Nat
  passes : Nat
  aged : Nat
  age : Nat
  waited : Nat
  deriving DecidableEq, Repr

/-- What a peer asks of this module: bytes of a line, each by its offset from the address, to read or to write, or
one atomic (R338); a record or a suspended team's image of a spanning launch of its own, with the launch's descriptor
and constant bank (R276, R295); the end of its launch here by cancellation (R273), and the end of a record or team this
module sent there; a checkpoint of its job, what the peer that holds work of a job has saved for one (images and
records), the job's resumption there, and its discard by a rollback (R307, R312). -/
inductive RemoteOp where
  | read (offs : List Nat)
  | write (data : List (Nat × Byte))
  | atomic (op : Nat) (wide : Bool) (data cmp : Word)
  | work (launch desc : Nat) (bank : List Word) (team record : Nat) (carried : Carried)
  | image (launch desc : Nat) (bank : List Word) (team : Machine.Image) (carried : Carried)
  | cancel (launch : Nat)
  | ended (launch team : Nat) (completed : Bool)
  | checkpoint (job : Word)
  | cancelHome (launch : Nat)
  | cancelled (launch : Nat)
  | saved (job : Word) (resident suspended : List Machine.Image) (records : List (Nat × Nat × Nat × Carried))
  | resume (job : Word)
  | contain (job : Word)
  | contained (job : Word)
  deriving DecidableEq, Repr

/-- Whose command it is and for whom: the port it comes through, and the tenant. -/
structure PortTenant where
  port : Nat
  ten : Nat
  deriving DecidableEq, Repr

/-- A wavelength of a link, and whether the far end's window asks (R336). -/
structure WaveEnd where
  wave : Nat
  far : Bool
  deriving DecidableEq, Repr

/-- A flit (R335): the fields of its 8-byte header, 240 bytes of messages, and an 8-byte check. -/
structure Flit where
  seq : Nat
  typ : Nat
  ack : Nat
  payload : List Byte
  check : BitVec 64
  deriving DecidableEq, Repr

/-- A flit at its receiver, and the codewords corrected on its way, by wavelength (R335, R337, R340). -/
structure FlitCheck where
  flit : Flit
  fixed : List (Nat × Nat)
  deriving DecidableEq, Repr

/-- A device-control setting: the registers whose offset the manual gives, and the privileged
settings it names without one (R345). -/
inductive CtlReg where
  | offset (off : Nat)
  | refreshFloor
  | tenantWeight (ten : Nat)
  | agingThreshold
  | migrationDepth
  | entryBudget
  | proofInterval
  | directoryArea
  | yieldLimit
  | devId
  | linkFarEnd (link : Nat)
  | route (peer : Nat)
  | pairing (peer ten : Nat)
  | breakpoints (ten launch : Nat)
  | imageArea (ten : Nat)
  | stopTeam (team : Nat)
  | moveTeam (team die : Nat)
  deriving DecidableEq, Repr

inductive Instr where
  | nop (f : Fields)
  | smov (f : Fields)
  | sadd (f : Fields)
  | ssub (f : Fields)
  | smul (f : Fields)
  | smulh (f : Fields)
  | sdiv (f : Fields)
  | srem (f : Fields)
  | sand (f : Fields)
  | sor (f : Fields)
  | sxor (f : Fields)
  | sandn (f : Fields)
  | sshl (f : Fields)
  | sshr (f : Fields)
  | ssar (f : Fields)
  | smin (f : Fields)
  | smax (f : Fields)
  | scmp (f : Fields)
  | ssel (f : Fields)
  | spopc (f : Fields)
  | sclz (f : Fields)
  | sbfe (f : Fields)
  | sbfi (f : Fields)
  | slea (f : Fields)
  | srdl (f : Fields)
  | swrl (f : Fields)
  | sgets (f : Fields)
  | vmov (f : Fields)
  | vadd (f : Fields)
  | vsub (f : Fields)
  | vmul (f : Fields)
  | vmulh (f : Fields)
  | vmad (f : Fields)
  | vmin (f : Fields)
  | vmax (f : Fields)
  | vabs (f : Fields)
  | vand (f : Fields)
  | vor (f : Fields)
  | vxor (f : Fields)
  | vandn (f : Fields)
  | vshl (f : Fields)
  | vshr (f : Fields)
  | vsar (f : Fields)
  | vpopc (f : Fields)
  | vclz (f : Fields)
  | vbrev (f : Fields)
  | vbfe (f : Fields)
  | vbfi (f : Fields)
  | vsel (f : Fields)
  | vcmp (f : Fields)
  | vlid (f : Fields)
  | vshfl (f : Fields)
  | vbcast (f : Fields)
  | vred (f : Fields)
  | vscan (f : Fields)
  | vcomp (f : Fields)
  | vdiv (f : Fields)
  | vrem (f : Fields)
  | mmov (f : Fields)
  | mand (f : Fields)
  | mor (f : Fields)
  | mxor (f : Fields)
  | mandn (f : Fields)
  | mnot (f : Fields)
  | ballot (f : Fields)
  | mpopc (f : Fields)
  | mrank (f : Fields)
  | msets (f : Fields)
  | mfirst (f : Fields)
  | fadd (f : Fields)
  | fsub (f : Fields)
  | fmul (f : Fields)
  | ffma (f : Fields)
  | fmin (f : Fields)
  | fmax (f : Fields)
  | fcmp (f : Fields)
  | fclass (f : Fields)
  | frnd (f : Fields)
  | frcp (f : Fields)
  | frsq (f : Fields)
  | fsqrt (f : Fields)
  | fdiv (f : Fields)
  | fexp2 (f : Fields)
  | flog2 (f : Fields)
  | fsin (f : Fields)
  | fcos (f : Fields)
  | ftanh (f : Fields)
  | fdot2 (f : Fields)
  | fscale (f : Fields)
  | cvt (f : Fields)
  | pack (f : Fields)
  | unpack (f : Fields)
  | bscale (f : Fields)
  | ld (f : Fields)
  | st (f : Fields)
  | lds (f : Fields)
  | sts (f : Fields)
  | atom (f : Fields)
  | atoms (f : Fields)
  | stcomp (f : Fields)
  | ldexp (f : Fields)
  | pref (f : Fields)
  | fence (f : Fields)
  | cpl (f : Fields)
  | cpgather (f : Fields)
  | cpscatter (f : Fields)
  | cptile (f : Fields)
  | cpfill (f : Fields)
  | aclose (f : Fields)
  | await (f : Fields)
  | atest (f : Fields)
  | cwaitge (f : Fields)
  | gset (f : Fields)
  | bncount (f : Fields)
  | bnpatch (f : Fields)
  | bnrel (f : Fields)
  | bnreset (f : Fields)
  | oclaim (f : Fields)
  | orel (f : Fields)
  | oload (f : Fields)
  | aclaim (f : Fields)
  | arel (f : Fields)
  | azero (f : Fields)
  | mma (f : Fields)
  | adrain (f : Fields)
  | astore (f : Fields)
  | mstat (f : Fields)
  | aband (f : Fields)
  | winstall (f : Fields)
  | wstat (f : Fields)
  | pgmove (f : Fields)
  | sealStr (f : Fields)
  | unsealStr (f : Fields)
  | rank1 (f : Fields)
  | rank0 (f : Fields)
  | sel1 (f : Fields)
  | sel0 (f : Fields)
  | fclose (f : Fields)
  | fopen (f : Fields)
  | encl (f : Fields)
  | exmin (f : Fields)
  | tkmatch (f : Fields)
  | utfcut (f : Fields)
  | ixstat (f : Fields)
  | bra (f : Fields)
  | brc (f : Fields)
  | brm (f : Fields)
  | bspl (f : Fields)
  | join (f : Fields)
  | call (f : Fields)
  | ret (f : Fields)
  | jmpi (f : Fields)
  | exit (f : Fields)
  | bar (f : Fields)
  | bara (f : Fields)
  | barw (f : Fields)
  | barinit (f : Fields)
  | barinv (f : Fields)
  | barexp (f : Fields)
  | yld (f : Fields)
  | idem (f : Fields)
  | tspawn (f : Fields)
  | tjoin (f : Fields)
  | nap (f : Fields)
  | lspawn (f : Fields)
  | trap (f : Fields)
  | bkpt (f : Fields)
  | ssets (f : Fields)
  | ckpt (f : Fields)
  | rpread (f : Fields)
  | lcancel (f : Fields)
  | lcount (f : Fields)
  | pairNop (h1 : Half)
  | pairSmov (d : BitVec 8) (x : Src) (h1 : Half)
  | pairSadd (d : BitVec 8) (x : Src) (h1 : Half)
  | pairSsub (d : BitVec 8) (x : Src) (h1 : Half)
  | pairSand (d : BitVec 8) (x : Src) (h1 : Half)
  | pairSor (d : BitVec 8) (x : Src) (h1 : Half)
  | pairSxor (d : BitVec 8) (x : Src) (h1 : Half)
  | pairSshl (d : BitVec 8) (x : Src) (h1 : Half)
  | pairSshr (d : BitVec 8) (x : Src) (h1 : Half)
  | pairSsar (d : BitVec 8) (x : Src) (h1 : Half)
  | pairSmin (d : BitVec 8) (x : Src) (h1 : Half)
  | pairSmax (d : BitVec 8) (x : Src) (h1 : Half)
  | pairVmov (d : BitVec 8) (x : Src) (h1 : Half)
  | pairVaddI32 (d : BitVec 8) (x : Src) (h1 : Half)
  | pairVsubI32 (d : BitVec 8) (x : Src) (h1 : Half)
  | pairVmulI32 (d : BitVec 8) (x : Src) (h1 : Half)
  | pairVand (d : BitVec 8) (x : Src) (h1 : Half)
  | pairVor (d : BitVec 8) (x : Src) (h1 : Half)
  | pairVxor (d : BitVec 8) (x : Src) (h1 : Half)
  | pairVshl (d : BitVec 8) (x : Src) (h1 : Half)
  | pairVshr (d : BitVec 8) (x : Src) (h1 : Half)
  | pairVsar (d : BitVec 8) (x : Src) (h1 : Half)
  | pairVminI32 (d : BitVec 8) (x : Src) (h1 : Half)
  | pairVminN32 (d : BitVec 8) (x : Src) (h1 : Half)
  | pairVmaxI32 (d : BitVec 8) (x : Src) (h1 : Half)
  | pairVmaxN32 (d : BitVec 8) (x : Src) (h1 : Half)
  | pairVabsI32 (d : BitVec 8) (x : Src) (h1 : Half)
  | pairFaddF32 (d : BitVec 8) (x : Src) (h1 : Half)
  | pairFsubF32 (d : BitVec 8) (x : Src) (h1 : Half)
  | pairFaddF16x2 (d : BitVec 8) (x : Src) (h1 : Half)
  | pairFmulF32 (d : BitVec 8) (x : Src) (h1 : Half)
  | pairFminF32 (d : BitVec 8) (x : Src) (h1 : Half)
  | pairFmaxF32 (d : BitVec 8) (x : Src) (h1 : Half)
  | pairFaddBf16x2 (d : BitVec 8) (x : Src) (h1 : Half)
  | pairFmulBf16x2 (d : BitVec 8) (x : Src) (h1 : Half)
  | pairMand (d : BitVec 8) (x : Src) (h1 : Half)
  | pairMor (d : BitVec 8) (x : Src) (h1 : Half)
  | pairMxor (d : BitVec 8) (x : Src) (h1 : Half)
  | pairMandn (d : BitVec 8) (x : Src) (h1 : Half)
  | pairSlea (d : BitVec 8) (x : Src) (h1 : Half)
  | pairVaddI16x2 (d : BitVec 8) (x : Src) (h1 : Half)
  | pairVaddI8x4 (d : BitVec 8) (x : Src) (h1 : Half)
  | homeWrite (id : Nat)
  | stringWrite (id : Nat)
  | rcvReleaseApply (id : Nat)
  | loadResultReturn (id : Nat) (err : Bool)
  | queryRead (id k : Nat)
  | queryResultReturn (id : Nat) (err : Bool)
  | directoryBuildEnd (dir : Nat)
  | stagingFillComplete (granule : Nat) (err : Bool)
  | enginePieceLand (id k : Nat) (bad : List Nat)
  | engineJobStart (id : Nat)
  | mmaQuarterComplete (id : Nat)
  | proofProductStart (col sa : Nat)
  | proofProductCheck (col sa : Nat) (ok : Bool)
  | installStart (id : Nat)
  | installUnitProgrammed (id : Nat) (err : Bool)
  | installCommit (id : Nat)
  | installEnd (id : Nat)
  | napExpiry (g sp : Nat)
  | teamSave (team : Nat)
  | dispatch (die ten : Nat)
  | initialRecordWrite (launch : Nat)
  | parentJoinPush (k : Nat)
  | launchAccept (port : Nat)
  | faultRecordPost (k : Nat)
  | checkpointCommitWrite (ten job : Nat)
  | checkpointSeal (ten job : Nat)
  | rollbackRestore (ten job : Nat)
  | pageEditComplete (ten va : Nat)
  | flitReceive (link : Nat) (check : FlitCheck)
  | resendTimeout (k : Nat)
  | linkRetrainComplete (link : Nat)
  | activationAlert (bank : Nat)
  | pageWalkComplete (col ten va : Nat)
  | notPresentAnswerValid (c : PortTenant) (va : Nat)
  | notPresentAnswerDeliver (c : PortTenant) (va : Nat)
  | pageEdit (c : PortTenant) (va level : Nat) (entry : Word)
  | backgroundFillLine (sp : FillSpace) (line : Nat)
  | memoryReassign (sp : FillSpace) (base len : Nat)
  | tenantSetup (port ten root : Nat)
  | tenantTeardown (port ten : Nat)
  | supervisorDesignate (port ten : Nat)
  | vaultBandChange (col temp : Nat)
  | heatIntervalEnd (col : Nat) (powers : List (Nat × Nat))
  | pageMigrationStart (ten va target : Nat)
  | pageMigrationSwitch (ten va frame : Nat)
  | stagingCacheResize (port size : Nat)
  | stagingResizeApply
  | installRegionDefine (port n ten stack base units budget : Nat)
  | unfence (port col sa : Nat) (ok : Bool)
  | preemptionRequest (team : Nat) (why : Why)
  | itemAging (item : Nat)
  | workMigration (die ten dest : Nat)
  | subgo (port : Nat)
  | groupControlGo
  | checkpointAreaSet (port ten job base slotSize undo : Nat)
  | containmentCommand (c : PortTenant) (job : Nat)
  | shadowLatchReplay (col : Nat)
  | bivouacCommand (port : Nat)
  | pwrlow
  | bivouacEntryComplete
  | bivouacBudgetExpiry
  | bivouacWake (failed : BitVec 8) (imageOk : Bool)
  | berWindowEstimate (link w est : Nat)
  | wavelengthHandback (link : Nat) (e : WaveEnd)
  | wavelengthRejoin (link w : Nat)
  | remoteTransaction (peer ten addr : Nat) (op : RemoteOp)
  | hostBar2Read (port off n : Nat)
  | hostBar2Write (port off : Nat) (data : List Byte)
  | ctlsemClaim (port : Nat)
  | ctlsemRelease (port : Nat)
  | portLinkDown (port : Nat)
  | controlRegisterWrite (port : Nat) (reg : CtlReg) (v : Word)
  | powerOn
  | selfTestComplete (fail : BitVec 29)
  | firmwareWindowWrite (port off : Nat) (v : Byte)
  | fwgo (port : Nat) (len : Word)
  | firmwareVerifyDone
  | attgo (port : Nat)
  | attestationReportDone
  | deviceReset (held : Bool)
  | computeDieReset (die : Nat)
  | opticalBaseReset
  | activationThrottleEnd (bank : Nat)
  | portLinkTrained (port speed : Nat)
  deriving DecidableEq, Repr

end Sys2Proof
end

