-- ==== Sys2Proof/Machine/Forms.lean ====
section
/-!
DEFINITION. The form of each full instruction: which fields it uses, the register class of each,
the source kinds it accepts and the MOD codes it accepts (R32, R35 to R38 and each instruction's own table).
Decoding checks, well-formedness and the scoreboard all read this one table.
-/
namespace Sys2Proof

/-- Bits `lo` to `lo + n - 1` of MOD. -/
def bits (m : BitVec 10) (lo n : Nat) : Nat := (m.toNat >>> lo) % 2 ^ n
/-- Every MOD bit outside `mask` is zero (R32). -/
def only (m mask : BitVec 10) : Bool := m &&& ~~~mask == 0

/-- The class of a register number (R36). -/
inductive RCls where
  | vec | vec64 | vec128 | mask | barrier
  deriving DecidableEq, Repr

/-- What an instruction accepts in a source field (R33, R35, R36). -/
inductive SrcForm where
  | unused
  | src (reg : Option RCls) (sca cst lit : Bool)
  /-- A block base: kind 01, values 0 to `max`. -/
  | scaMax (max : Nat)
  /-- The even scalar register of ATOMS.cas (R191). -/
  | scaEven
  /-- Kind 11 only, value 0 to `max`. -/
  | litMax (max : Nat)
  /-- A YLD range: kinds 01, 10, or the inline literal 0 (R292). -/
  | range
  /-- YLD's bitmap: the literal word (R292). -/
  | litWord
  /-- `n` vector registers from the one named (R182). -/
  | vecRange (n : Nat)
  deriving DecidableEq, Repr

inductive DstForm where
  | none | vec | vec64 | vec128 | sca | mask | guard
  | scaMax (max : Nat)
  /-- UNPACK: `n` registers that must not hold source A (R182). -/
  | vecBlock (n : Nat) (a : Src)
  deriving DecidableEq, Repr

structure Form where
  modOk : Bool
  /-- MSK may be non-zero. -/
  mskOk : Bool
  dst : DstForm
  a : SrcForm
  b : SrcForm
  c : SrcForm
  /-- A limit on a code in MOD whose breach is an illegal operand (R49, R64). -/
  modLim : Bool
  deriving DecidableEq, Repr

def scalar : SrcForm := .src Option.none true true true
def anyK (c : RCls) : SrcForm := .src (some c) true true true
def regOnly (c : RCls) : SrcForm := .src (some c) false false false
def litOnly : SrcForm := .src Option.none false false true

/-- The value of an inline literal at 64 bits (R35). A source that takes kind 11 alone with a limit on its value limits
the field's value (R49), which the literal word's 0x80 exceeds. -/
def Src.litVal : Src → Option Nat
  | .lit v => some (v.signExtend 64).toNat
  | _ => Option.none

/-- Scalar types .i64 (00) and .n64 (11) are 64 bits wide (R37). -/
def sTy64 (m : BitVec 10) : Bool := bits m 0 2 == 0 || bits m 0 2 == 3
/-- Vector types .i64 (110) and .n64 (111) take register pairs (R37, R167). -/
def vTy64 (m : BitVec 10) : Bool := 6 ≤ bits m 0 3
def vTyW (m : BitVec 10) : Bool := bits m 0 3 < 2 || 6 ≤ bits m 0 3
def vTyB (m : BitVec 10) : Bool := bits m 0 3 == 0 || bits m 0 3 == 6
def vTyS (m : BitVec 10) : Bool := bits m 0 3 % 2 == 0
/-- VRED and VSCAN: operations 0 to 5, .sat with add only (R173). -/
def redOk (m : BitVec 10) : Bool := bits m 4 4 < 6 && (bits m 3 1 == 0 || bits m 4 4 == 0)
/-- .sx with a size below .b32 only (R185). -/
def extOk (m : BitVec 10) : Bool := bits m 3 1 == 0 || bits m 0 3 < 2
/-- Stores: .rlx or .rel, at .grp to .sys, and .rcv with .rel only (R186). -/
def stOrd (m : BitVec 10) : Bool :=
  (bits m 4 2 == 0 && bits m 6 3 < 6) || (bits m 4 2 == 2 && bits m 6 3 < 7)
/-- Atomics (R186, R191): operations 11 and 12 are 32-bit only. -/
def atomOk (m : BitVec 10) : Bool :=
  bits m 0 4 < 13 && bits m 4 2 < 3 && bits m 6 3 < 6 && (bits m 9 1 == 0 || bits m 0 4 < 11)
/-- GSLOT is zero when G is zero (R129). -/
def gOk (m : BitVec 10) : Bool := bits m 8 1 == 1 || bits m 5 3 == 0
/-- Drain codes 0 to 5, .sat with .bf16x2, .f16x2 and .f32.f64 only (R209). -/
def drainOk (m : BitVec 10) : Bool :=
  bits m 0 3 < 6 && (bits m 3 1 == 0 || bits m 0 3 == 2 || bits m 0 3 == 3 || bits m 0 3 == 5)
/-- The formats with E8M0 scales per 32 (R58). -/
def per32 (fmt : Nat) : Bool := (18 ≤ fmt && fmt ≤ 22) || fmt == 30

/-- Elements of a lane for an element code of PACK and UNPACK (R182). -/
def packN (code : Nat) : Nat :=
  match code with
  | 2 => 1
  | 3 | 4 => 2
  | 5 | 6 | 7 | 8 | 10 | 11 => 4
  | 9 | 12 | 13 => 8
  | 14 => 16
  | 15 => 32
  | _ => 1

/-- The vector class of a type, a size or a CVT type, as a source class; `toDst` gives the destination. -/
def RCls.toDst : RCls → DstForm
  | .vec => .vec
  | .vec64 => .vec64
  | .vec128 => .vec128
  | .mask => .mask
  | .barrier => .none

def vCls (m : BitVec 10) : RCls := if vTy64 m then .vec64 else .vec
def fCls (m : BitVec 10) : RCls := if bits m 0 2 == 1 then .vec64 else .vec
def cvtCls (t : Nat) : RCls := if t == 2 || t == 3 || t == 5 then .vec64 else .vec
def szCls (m : BitVec 10) : RCls :=
  if bits m 0 3 == 4 then .vec128 else if bits m 0 3 == 3 then .vec64 else .vec

/-- The fields each instruction takes (R30 to R40). Sources of vector instructions take every kind where nothing else is said
(R161); R35 names kind 00 alone for VBCAST, SRDL and SWRL. -/
def Instr.form : Instr → Form
  | .nop f => ⟨only f.mod 0, false, .none, .unused, .unused, .unused, true⟩
  | .smov f => ⟨only f.mod 0x003, false, .sca, scalar, .unused, .unused, true⟩
  | .sadd f => ⟨only f.mod 0x003, false, .sca, scalar, scalar, .unused, true⟩
  | .ssub f => ⟨only f.mod 0x003, false, .sca, scalar, scalar, .unused, true⟩
  | .smul f => ⟨only f.mod 0x003, false, .sca, scalar, scalar, .unused, true⟩
  | .smulh f => ⟨only f.mod 0x003, false, .sca, scalar, scalar, .unused, true⟩
  | .sdiv f => ⟨only f.mod 0x003, false, .sca, scalar, scalar, .unused, true⟩
  | .srem f => ⟨only f.mod 0x003, false, .sca, scalar, scalar, .unused, true⟩
  | .sand f => ⟨only f.mod 0x003, false, .sca, scalar, scalar, .unused, true⟩
  | .sor f => ⟨only f.mod 0x003, false, .sca, scalar, scalar, .unused, true⟩
  | .sxor f => ⟨only f.mod 0x003, false, .sca, scalar, scalar, .unused, true⟩
  | .sandn f => ⟨only f.mod 0x003, false, .sca, scalar, scalar, .unused, true⟩
  | .sshl f => ⟨only f.mod 0x003, false, .sca, scalar, scalar, .unused, true⟩
  | .sshr f => ⟨only f.mod 0x003, false, .sca, scalar, scalar, .unused, true⟩
  | .ssar f => ⟨only f.mod 0x003, false, .sca, scalar, scalar, .unused, true⟩
  | .smin f => ⟨only f.mod 0x003, false, .sca, scalar, scalar, .unused, true⟩
  | .smax f => ⟨only f.mod 0x003, false, .sca, scalar, scalar, .unused, true⟩
  | .scmp f => ⟨only f.mod 0x03F && bits f.mod 2 4 < 6, false, .sca, scalar, scalar, .unused, true⟩
  | .ssel f => ⟨only f.mod 0, false, .sca, scalar, scalar, scalar, true⟩
  | .spopc f => ⟨only f.mod 0x003, false, .sca, scalar, .unused, .unused, true⟩
  | .sclz f => ⟨only f.mod 0x003, false, .sca, scalar, .unused, .unused, true⟩
  | .sbfe f => ⟨only f.mod 0x003, false, .sca, scalar, scalar, .unused, true⟩
  | .sbfi f => ⟨only f.mod 0x003, false, .sca, scalar, scalar, .unused, true⟩
  | .slea f => ⟨only f.mod 0, false, .sca, scalar, scalar, scalar, true⟩
  | .srdl f => ⟨only f.mod 0x003, false, .sca, regOnly (if sTy64 f.mod then .vec64 else .vec), scalar, .unused, true⟩
  | .swrl f => ⟨only f.mod 0x003, false, if sTy64 f.mod then .vec64 else .vec, scalar, scalar, .unused, true⟩
  | .sgets f => ⟨only f.mod 0, false, .sca, scalar, .unused, .unused, true⟩
  | .vmov f => ⟨only f.mod 0x007 && vTyB f.mod, true, (vCls f.mod).toDst, anyK (vCls f.mod), .unused, .unused, true⟩
  | .vadd f => ⟨only f.mod 0x00F && true, true, (vCls f.mod).toDst, anyK (vCls f.mod), anyK (vCls f.mod), .unused, true⟩
  | .vsub f => ⟨only f.mod 0x00F && true, true, (vCls f.mod).toDst, anyK (vCls f.mod), anyK (vCls f.mod), .unused, true⟩
  | .vmul f => ⟨only f.mod 0x00F && true, true, (vCls f.mod).toDst, anyK (vCls f.mod), anyK (vCls f.mod), .unused, true⟩
  | .vmulh f => ⟨only f.mod 0x007 && vTyW f.mod, true, (vCls f.mod).toDst, anyK (vCls f.mod), anyK (vCls f.mod), .unused, true⟩
  | .vmad f => ⟨only f.mod 0x00F && vTyW f.mod, true, (vCls f.mod).toDst, anyK (vCls f.mod), anyK (vCls f.mod), anyK (vCls f.mod), true⟩
  | .vmin f => ⟨only f.mod 0x007 && true, true, (vCls f.mod).toDst, anyK (vCls f.mod), anyK (vCls f.mod), .unused, true⟩
  | .vmax f => ⟨only f.mod 0x007 && true, true, (vCls f.mod).toDst, anyK (vCls f.mod), anyK (vCls f.mod), .unused, true⟩
  | .vabs f => ⟨only f.mod 0x00F && vTyS f.mod, true, (vCls f.mod).toDst, anyK (vCls f.mod), .unused, .unused, true⟩
  | .vand f => ⟨only f.mod 0x007 && vTyB f.mod, true, (vCls f.mod).toDst, anyK (vCls f.mod), anyK (vCls f.mod), .unused, true⟩
  | .vor f => ⟨only f.mod 0x007 && vTyB f.mod, true, (vCls f.mod).toDst, anyK (vCls f.mod), anyK (vCls f.mod), .unused, true⟩
  | .vxor f => ⟨only f.mod 0x007 && vTyB f.mod, true, (vCls f.mod).toDst, anyK (vCls f.mod), anyK (vCls f.mod), .unused, true⟩
  | .vandn f => ⟨only f.mod 0x007 && vTyB f.mod, true, (vCls f.mod).toDst, anyK (vCls f.mod), anyK (vCls f.mod), .unused, true⟩
  | .vshl f => ⟨only f.mod 0x007 && vTyS f.mod, true, (vCls f.mod).toDst, anyK (vCls f.mod), anyK (vCls f.mod), .unused, true⟩
  | .vshr f => ⟨only f.mod 0x007 && vTyS f.mod, true, (vCls f.mod).toDst, anyK (vCls f.mod), anyK (vCls f.mod), .unused, true⟩
  | .vsar f => ⟨only f.mod 0x007 && vTyS f.mod, true, (vCls f.mod).toDst, anyK (vCls f.mod), anyK (vCls f.mod), .unused, true⟩
  | .vpopc f => ⟨only f.mod 0x007 && vTyB f.mod, true, (vCls f.mod).toDst, anyK (vCls f.mod), .unused, .unused, true⟩
  | .vclz f => ⟨only f.mod 0x007 && vTyB f.mod, true, (vCls f.mod).toDst, anyK (vCls f.mod), .unused, .unused, true⟩
  | .vbrev f => ⟨only f.mod 0x007 && vTyB f.mod, true, (vCls f.mod).toDst, anyK (vCls f.mod), .unused, .unused, true⟩
  | .vbfe f => ⟨only f.mod 0x007 && vTyW f.mod, true, (vCls f.mod).toDst, anyK (vCls f.mod), anyK (vCls f.mod), .unused, true⟩
  | .vbfi f => ⟨only f.mod 0x007 && vTyB f.mod, true, (vCls f.mod).toDst, anyK (vCls f.mod), anyK (vCls f.mod), .unused, true⟩
  | .vsel f => ⟨only f.mod 0x007 && vTyB f.mod, true, (vCls f.mod).toDst, anyK (vCls f.mod), anyK (vCls f.mod), regOnly .mask, true⟩
  | .vcmp f => ⟨only f.mod 0x0F7 && vTyW f.mod && bits f.mod 4 4 < 6, true, .mask, anyK (vCls f.mod), anyK (vCls f.mod), .unused, true⟩
  | .vlid f => ⟨only f.mod 0, true, .vec, .unused, .unused, .unused, true⟩
  | .vshfl f => ⟨only f.mod 0x037 && vTyB f.mod, true, (vCls f.mod).toDst, anyK (vCls f.mod), anyK .vec, .unused, true⟩
  | .vbcast f => ⟨only f.mod 0x007 && vTyB f.mod, true, (vCls f.mod).toDst, regOnly (vCls f.mod), anyK (vCls f.mod), .unused, true⟩
  | .vred f => ⟨only f.mod 0x0FF && vTyW f.mod && redOk f.mod, true, (vCls f.mod).toDst, anyK (vCls f.mod), .unused, .unused, true⟩
  | .vscan f => ⟨only f.mod 0x1FF && vTyW f.mod && redOk f.mod, true, (vCls f.mod).toDst, anyK (vCls f.mod), .unused, .unused, true⟩
  | .vcomp f => ⟨only f.mod 0x007 && vTyB f.mod, true, (vCls f.mod).toDst, anyK (vCls f.mod), .unused, .unused, true⟩
  | .vdiv f => ⟨only f.mod 0x007 && vTyW f.mod, true, (vCls f.mod).toDst, anyK (vCls f.mod), anyK (vCls f.mod), .unused, true⟩
  | .vrem f => ⟨only f.mod 0x007 && vTyW f.mod, true, (vCls f.mod).toDst, anyK (vCls f.mod), anyK (vCls f.mod), .unused, true⟩
  | .mmov f => ⟨only f.mod 0, false, .mask, regOnly .mask, .unused, .unused, true⟩
  | .mand f => ⟨only f.mod 0, false, .mask, regOnly .mask, regOnly .mask, .unused, true⟩
  | .mor f => ⟨only f.mod 0, false, .mask, regOnly .mask, regOnly .mask, .unused, true⟩
  | .mxor f => ⟨only f.mod 0, false, .mask, regOnly .mask, regOnly .mask, .unused, true⟩
  | .mandn f => ⟨only f.mod 0, false, .mask, regOnly .mask, regOnly .mask, .unused, true⟩
  | .mnot f => ⟨only f.mod 0, false, .mask, regOnly .mask, .unused, .unused, true⟩
  | .ballot f => ⟨only f.mod 0, true, .mask, anyK .vec, .unused, .unused, true⟩
  | .mpopc f => ⟨only f.mod 0, false, .sca, regOnly .mask, .unused, .unused, true⟩
  | .mrank f => ⟨only f.mod 0, true, .vec, regOnly .mask, .unused, .unused, true⟩
  | .msets f => ⟨only f.mod 0, false, .mask, scalar, scalar, .unused, true⟩
  | .mfirst f => ⟨only f.mod 0, false, .sca, regOnly .mask, .unused, .unused, true⟩
  | .fadd f => ⟨only f.mod 0x3DF, true, (fCls f.mod).toDst, anyK (fCls f.mod), anyK (fCls f.mod), .unused, true⟩
  | .fsub f => ⟨only f.mod 0x3DF, true, (fCls f.mod).toDst, anyK (fCls f.mod), anyK (fCls f.mod), .unused, true⟩
  | .fmul f => ⟨only f.mod 0x3DF, true, (fCls f.mod).toDst, anyK (fCls f.mod), anyK (fCls f.mod), .unused, true⟩
  | .ffma f => ⟨true, true, (fCls f.mod).toDst, anyK (fCls f.mod), anyK (fCls f.mod), anyK (fCls f.mod), true⟩
  | .fmin f => ⟨only f.mod 0x3C3, true, (fCls f.mod).toDst, anyK (fCls f.mod), anyK (fCls f.mod), .unused, true⟩
  | .fmax f => ⟨only f.mod 0x3C3, true, (fCls f.mod).toDst, anyK (fCls f.mod), anyK (fCls f.mod), .unused, true⟩
  | .fcmp f => ⟨bits f.mod 0 2 < 2 && bits f.mod 2 4 < 14, true, .mask, anyK (fCls f.mod), anyK (fCls f.mod), .unused, true⟩
  | .fclass f => ⟨only f.mod 0x003, true, .vec, anyK (fCls f.mod), .unused, .unused, true⟩
  | .frnd f => ⟨only f.mod 0x0CF, true, (fCls f.mod).toDst, anyK (fCls f.mod), .unused, .unused, true⟩
  | .frcp f => ⟨only f.mod 0x0C3, true, (fCls f.mod).toDst, anyK (fCls f.mod), .unused, .unused, true⟩
  | .frsq f => ⟨only f.mod 0x0C3, true, (fCls f.mod).toDst, anyK (fCls f.mod), .unused, .unused, true⟩
  | .fsqrt f => ⟨only f.mod 0x0CF, true, (fCls f.mod).toDst, anyK (fCls f.mod), .unused, .unused, true⟩
  | .fdiv f => ⟨only f.mod 0x3DF, true, (fCls f.mod).toDst, anyK (fCls f.mod), anyK (fCls f.mod), .unused, true⟩
  | .fexp2 f => ⟨only f.mod 0x0C3 && bits f.mod 0 2 != 1, true, .vec, anyK .vec, .unused, .unused, true⟩
  | .flog2 f => ⟨only f.mod 0x0C3 && bits f.mod 0 2 != 1, true, .vec, anyK .vec, .unused, .unused, true⟩
  | .fsin f => ⟨only f.mod 0x0C3 && bits f.mod 0 2 != 1, true, .vec, anyK .vec, .unused, .unused, true⟩
  | .fcos f => ⟨only f.mod 0x0C3 && bits f.mod 0 2 != 1, true, .vec, anyK .vec, .unused, .unused, true⟩
  | .ftanh f => ⟨only f.mod 0x0C3 && bits f.mod 0 2 != 1, true, .vec, anyK .vec, .unused, .unused, true⟩
  | .fdot2 f => ⟨only f.mod 0x3DF && 2 ≤ bits f.mod 0 2, true, .vec, anyK .vec, anyK .vec, anyK .vec, true⟩
  | .fscale f => ⟨only f.mod 0x0DF && bits f.mod 0 2 < 2, true, (fCls f.mod).toDst, anyK (fCls f.mod), anyK .vec, .unused, true⟩
  | .cvt f => ⟨only f.mod 0x3FE && bits f.mod 7 3 != bits f.mod 4 3, true, (cvtCls (bits f.mod 7 3)).toDst, anyK (cvtCls (bits f.mod 4 3)), .unused, .unused, true⟩
  | .pack f => ⟨only f.mod 0x07F && 2 ≤ bits f.mod 0 4, true, .vec, .vecRange (packN (bits f.mod 0 4)), anyK .vec, .unused, true⟩
  | .unpack f => ⟨only f.mod 0x00F && 2 ≤ bits f.mod 0 4, true, .vecBlock (packN (bits f.mod 0 4)) f.a, anyK .vec, anyK .vec, .unused, true⟩
  | .bscale f => ⟨only f.mod 0x01F && 5 ≤ bits f.mod 0 4 && bits f.mod 0 4 ≤ 13, true, .vec, anyK .vec, .unused, .unused, true⟩
  | .ld f => ⟨only f.mod 0x1FF && extOk f.mod && bits f.mod 4 2 < 2 && bits f.mod 6 3 < 6 && bits f.mod 0 3 ≤ 4, true, (szCls f.mod).toDst, anyK .vec64, anyK .vec, .unused, true⟩
  | .st f => ⟨only f.mod 0x1F7 && stOrd f.mod && bits f.mod 0 3 ≤ 4, true, .none, anyK .vec64, anyK .vec, if bits f.mod 0 3 = 4 then regOnly .vec128 else anyK (szCls f.mod), true⟩
  | .lds f => ⟨only f.mod 0x1FF && extOk f.mod && bits f.mod 4 2 < 2 && bits f.mod 6 3 < 6 && bits f.mod 0 3 ≤ 3, false, .sca, scalar, scalar, .unused, true⟩
  | .sts f => ⟨only f.mod 0x1F7 && stOrd f.mod && bits f.mod 0 3 ≤ 3, false, .none, scalar, scalar, scalar, true⟩
  | .atom f => ⟨atomOk f.mod, true, if bits f.mod 9 1 = 1 then .vec64 else .vec, anyK .vec64, anyK .vec, if bits f.mod 0 4 = 10 then regOnly (if bits f.mod 9 1 = 1 then .vec128 else .vec64) else anyK (if bits f.mod 9 1 = 1 then .vec64 else .vec), true⟩
  | .atoms f => ⟨atomOk f.mod, false, .sca, scalar, scalar, if bits f.mod 0 4 = 10 then .scaEven else scalar, true⟩
  | .stcomp f => ⟨only f.mod 0x1F7 && stOrd f.mod && bits f.mod 0 3 ≤ 3, true, .sca, scalar, scalar, regOnly (szCls f.mod), true⟩
  | .ldexp f => ⟨only f.mod 0x1FF && extOk f.mod && bits f.mod 4 2 < 2 && bits f.mod 6 3 < 6 && bits f.mod 0 3 ≤ 3, true, (szCls f.mod).toDst, scalar, scalar, .unused, true⟩
  | .pref f => ⟨only f.mod 0, true, .none, anyK .vec64, anyK .vec, .unused, true⟩
  | .fence f => ⟨only f.mod 0x3C0 && bits f.mod 6 3 < 7, false, .none, .unused, .unused, .unused, true⟩
  | .cpl f => ⟨only f.mod 0x1E3 && gOk f.mod && bits f.mod 0 2 < 3, true, .none, anyK .vec64, anyK .vec64, scalar, true⟩
  | .cpgather f => ⟨only f.mod 0x1E0 && gOk f.mod, true, .none, .scaMax 61, regOnly .vec, scalar, true⟩
  | .cpscatter f => ⟨only f.mod 0x1E0 && gOk f.mod, true, .none, .scaMax 61, regOnly .vec, scalar, true⟩
  | .cptile f => ⟨only f.mod 0x3F8 && gOk f.mod, false, if bits f.mod 9 1 = 1 then .sca else .none, .scaMax 58, scalar, scalar, true⟩
  | .cpfill f => ⟨only f.mod 0x3E0 && gOk f.mod, false, if bits f.mod 9 1 = 1 then .sca else .none, .scaMax 62, scalar, scalar, true⟩
  | .aclose f => ⟨only f.mod 0, false, .sca, .unused, .unused, .unused, true⟩
  | .await f => ⟨only f.mod 0, false, .none, scalar, .unused, .unused, true⟩
  | .atest f => ⟨only f.mod 0, false, .sca, scalar, .unused, .unused, true⟩
  | .cwaitge f => ⟨only f.mod 0x1C0 && bits f.mod 6 3 < 7, false, .none, scalar, scalar, .unused, true⟩
  | .gset f => ⟨only f.mod 0, false, .guard, scalar, .unused, .unused, true⟩
  | .bncount f => ⟨only f.mod 0, true, .vec, anyK .vec, .unused, .unused, true⟩
  | .bnpatch f => ⟨only f.mod 0, false, .none, scalar, scalar, scalar, true⟩
  | .bnrel f => ⟨only f.mod 0, false, .none, scalar, .unused, .unused, true⟩
  | .bnreset f => ⟨only f.mod 0, false, .none, .unused, .unused, .unused, true⟩
  | .oclaim f => ⟨only f.mod 0, false, .sca, scalar, scalar, .unused, true⟩
  | .orel f => ⟨only f.mod 0, false, .sca, scalar, scalar, .unused, true⟩
  | .oload f => ⟨only f.mod 0x1E0 && gOk f.mod, false, .none, scalar, scalar, scalar, true⟩
  | .aclaim f => ⟨only f.mod 0, false, .sca, scalar, scalar, .unused, true⟩
  | .arel f => ⟨only f.mod 0, false, .sca, scalar, scalar, .unused, true⟩
  | .azero f => ⟨only f.mod 0, false, .none, scalar, scalar, .unused, true⟩
  | .mma f => ⟨only f.mod 0x0FF, true, if bits f.mod 0 5 < 16 then .none else .vec, scalar, scalar, scalar, bits f.mod 5 2 = 0 || per32 (bits f.mod 0 5)⟩
  | .adrain f => ⟨only f.mod 0x00F && drainOk f.mod, true, if bits f.mod 0 3 = 1 then .vec64 else .vec, scalar, scalar, .unused, true⟩
  | .astore f => ⟨only f.mod 0x1EF && drainOk f.mod && gOk f.mod, false, .none, scalar, scalar, scalar, true⟩
  | .mstat f => ⟨only f.mod 0, false, .sca, .litMax 7, if f.a.litVal = some 6 then scalar else .unused, .unused, true⟩
  | .aband f => ⟨only f.mod 0x001, false, .none, scalar, scalar, .unused, true⟩
  | .winstall f => ⟨only f.mod 0, false, .none, scalar, scalar, scalar, true⟩
  | .wstat f => ⟨only f.mod 0, false, .sca, scalar, .litMax 1, .unused, true⟩
  | .pgmove f => ⟨only f.mod 0x001, false, .sca, scalar, scalar, .unused, true⟩
  | .sealStr f => ⟨only f.mod 0, false, .sca, scalar, .unused, .unused, true⟩
  | .unsealStr f => ⟨only f.mod 0, false, .sca, scalar, .unused, .unused, true⟩
  | .rank1 f => ⟨only f.mod 0x001, true, if bits f.mod 0 1 = 1 then .vec64 else .vec, scalar, anyK (if bits f.mod 0 1 = 1 then .vec64 else .vec), .unused, true⟩
  | .rank0 f => ⟨only f.mod 0x001, true, if bits f.mod 0 1 = 1 then .vec64 else .vec, scalar, anyK (if bits f.mod 0 1 = 1 then .vec64 else .vec), .unused, true⟩
  | .sel1 f => ⟨only f.mod 0x001, true, if bits f.mod 0 1 = 1 then .vec64 else .vec, scalar, anyK (if bits f.mod 0 1 = 1 then .vec64 else .vec), .unused, true⟩
  | .sel0 f => ⟨only f.mod 0x001, true, if bits f.mod 0 1 = 1 then .vec64 else .vec, scalar, anyK (if bits f.mod 0 1 = 1 then .vec64 else .vec), .unused, true⟩
  | .fclose f => ⟨only f.mod 0x001, true, if bits f.mod 0 1 = 1 then .vec64 else .vec, scalar, anyK (if bits f.mod 0 1 = 1 then .vec64 else .vec), .unused, true⟩
  | .fopen f => ⟨only f.mod 0x001, true, if bits f.mod 0 1 = 1 then .vec64 else .vec, scalar, anyK (if bits f.mod 0 1 = 1 then .vec64 else .vec), .unused, true⟩
  | .encl f => ⟨only f.mod 0x001, true, if bits f.mod 0 1 = 1 then .vec64 else .vec, scalar, anyK (if bits f.mod 0 1 = 1 then .vec64 else .vec), .unused, true⟩
  | .exmin f => ⟨only f.mod 0x001, true, if bits f.mod 0 1 = 1 then .vec64 else .vec, scalar, anyK (if bits f.mod 0 1 = 1 then .vec64 else .vec), anyK (if bits f.mod 0 1 = 1 then .vec64 else .vec), true⟩
  | .tkmatch f => ⟨only f.mod 0, true, .vec64, scalar, anyK .vec64, anyK .vec, true⟩
  | .utfcut f => ⟨only f.mod 0, true, .vec, anyK .vec64, anyK .vec, .unused, true⟩
  | .ixstat f => ⟨only f.mod 0, false, .sca, scalar, .unused, .unused, true⟩
  | .bra f => ⟨only f.mod 0, false, .none, litOnly, .unused, .unused, true⟩
  | .brc f => ⟨only f.mod 0x001, false, .none, .src none true true false, litOnly, .unused, true⟩
  | .brm f => ⟨only f.mod 0x003 && bits f.mod 0 2 < 3, true, .none, regOnly .mask, litOnly, .unused, true⟩
  | .bspl f => ⟨only f.mod 0, false, .scaMax 61, regOnly .mask, litOnly, litOnly, true⟩
  | .join f => ⟨only f.mod 0, false, .none, .scaMax 61, .unused, .unused, true⟩
  | .call f => ⟨only f.mod 0, false, .sca, litOnly, .unused, .unused, true⟩
  | .ret f => ⟨only f.mod 0, false, .none, .src none true false false, .unused, .unused, true⟩
  | .jmpi f => ⟨only f.mod 0x001, false, if bits f.mod 0 1 = 1 then .sca else .none, scalar, .unused, .unused, true⟩
  | .exit f => ⟨only f.mod 0, true, .none, .unused, .unused, .unused, true⟩
  | .bar f => ⟨only f.mod 0, false, .none, regOnly .barrier, scalar, regOnly .mask, true⟩
  | .bara f => ⟨only f.mod 0, false, .none, regOnly .barrier, scalar, regOnly .mask, true⟩
  | .barw f => ⟨only f.mod 0, false, .none, regOnly .barrier, scalar, regOnly .mask, true⟩
  | .barinit f => ⟨only f.mod 0, false, .none, regOnly .barrier, .unused, .unused, true⟩
  | .barinv f => ⟨only f.mod 0, false, .none, regOnly .barrier, .unused, .unused, true⟩
  | .barexp f => ⟨only f.mod 0, false, .none, regOnly .barrier, scalar, .unused, true⟩
  | .yld f => ⟨only f.mod 0x003, false, .none, .range, .range, .litWord, true⟩
  | .idem f => ⟨only f.mod 0x001, false, .none, .unused, .unused, .unused, true⟩
  | .tspawn f => ⟨only f.mod 0, false, .sca, scalar, .unused, .unused, true⟩
  | .tjoin f => ⟨only f.mod 0, false, .sca, scalar, .unused, .unused, true⟩
  | .nap f => ⟨only f.mod 0, false, .none, scalar, .unused, .unused, true⟩
  | .lspawn f => ⟨only f.mod 0, false, .sca, scalar, .unused, .unused, true⟩
  | .trap f => ⟨only f.mod 0, false, .none, scalar, .unused, .unused, true⟩
  | .bkpt f => ⟨only f.mod 0, false, .none, .litMax 127, .unused, .unused, true⟩
  | .ssets f => ⟨only f.mod 0, false, .none, .litMax 127, scalar, .unused, true⟩
  | .ckpt f => ⟨only f.mod 0, false, .sca, .unused, .unused, .unused, true⟩
  | .rpread f => ⟨only f.mod 0, false, .sca, .litMax 4, .unused, .unused, true⟩
  | .lcancel f => ⟨only f.mod 0x003, false, .sca, scalar, .unused, .unused, true⟩
  | .lcount f => ⟨only f.mod 0x003, false, .sca, scalar, .unused, .unused, true⟩
  | _ => ⟨true, true, .none, .unused, .unused, .unused, true⟩

/-- The region-closing full forms (R300); the pair words are class 0 to 2 work and close nothing. -/
def Instr.closes : Instr → Bool
  | .atom _ => true
  | .atoms _ => true
  | .fence _ => true
  | .cpl _ => true
  | .cpgather _ => true
  | .cpscatter _ => true
  | .cptile _ => true
  | .cpfill _ => true
  | .aclose _ => true
  | .await _ => true
  | .cwaitge _ => true
  | .gset _ => true
  | .bncount _ => true
  | .bnpatch _ => true
  | .bnrel _ => true
  | .bnreset _ => true
  | .oclaim _ => true
  | .orel _ => true
  | .oload _ => true
  | .aclaim _ => true
  | .arel _ => true
  | .azero _ => true
  | .mma _ => true
  | .adrain _ => true
  | .astore _ => true
  | .aband _ => true
  | .winstall _ => true
  | .pgmove _ => true
  | .sealStr _ => true
  | .unsealStr _ => true
  | .exit _ => true
  | .bar _ => true
  | .bara _ => true
  | .barw _ => true
  | .barinit _ => true
  | .barinv _ => true
  | .barexp _ => true
  | .idem _ => true
  | .tspawn _ => true
  | .tjoin _ => true
  | .lspawn _ => true
  | .trap _ => true
  | .bkpt _ => true
  | .ssets _ => true
  | .ckpt _ => true
  | .lcancel _ => true
  | .lcount _ => true
  | .ld f | .lds f | .ldexp f | .st f | .sts f | .stcomp f => bits f.mod 4 2 != 0
  | _ => false

/-! ## The decode checks of R49, each on the instruction with its fields told apart -/

def Src.isLitWord : Src → Bool
  | .litWord _ => true
  | _ => false

/-- The literal word the sources name, the first of them (R34). -/
def Fields.litWord? (f : Fields) : Option Word :=
  match f.a, f.b, f.c with
  | .litWord w, _, _ => some w
  | _, .litWord w, _ => some w
  | _, _, .litWord w => some w
  | _, _, _ => Option.none

/-- A source field holds what it can hold: 0x80 inline is the literal word (R33), and every
literal-word source reads the same word (R34). -/
def Src.fits (w : Option Word) : Src → Bool
  | .lit v => v != 0x80
  | .litWord x => some x == w
  | _ => true

def Fields.fits (f : Fields) : Bool :=
  f.a.fits f.litWord? && f.b.fits f.litWord? && f.c.fits f.litWord?

def Src.unusedOk (x : Src) : SrcForm → Bool
  | .unused => x == .reg 0
  | _ => true

/-- R32, R37, R38: MOD legal, unused fields zero. A true answer is 0x01. -/
def Form.illegal (g : Form) (f : Fields) : Bool :=
  !(g.modOk && (g.mskOk || f.msk == 0) && (g.dst != .none || f.dst == 0) &&
    f.a.unusedOk g.a && f.b.unusedOk g.b && f.c.unusedOk g.c)

def RCls.numOk (c : RCls) (n : BitVec 8) : Bool :=
  match c with
  | .vec => true
  | .vec64 => n.toNat % 2 == 0
  | .vec128 => n.toNat % 4 == 0
  | .mask => n.toNat < 16
  | .barrier => true

/-- R33, R35, R36: the kind is accepted and the number is in the range its class fixes. -/
def Src.ok (x : Src) : SrcForm → Bool
  | .unused => true
  | .src r sOk kOk lOk =>
    match x with
    | .reg n => r.any (RCls.numOk · n)
    | .sca n => sOk && n.toNat < 86
    | .cst _ => kOk
    | .lit _ => lOk
    | .litWord _ => lOk
  | .scaMax max => match x with | .sca n => n.toNat ≤ max | _ => false
  | .scaEven => match x with | .sca n => n.toNat < 63 && n.toNat % 2 == 0 | _ => false
  | .litMax max => match x.litVal with | some v => v ≤ max | Option.none => false
  | .range =>
    match x with
    | .sca n => n.toNat < 86
    | .cst _ => true
    | .lit v => v == 0
    | _ => false
  | .litWord => x.isLitWord
  | .vecRange _ => match x with | .reg _ => true | _ => false

def DstForm.ok (n : BitVec 8) : DstForm → Bool
  | .none => true
  | .vec => true
  | .vec64 => n.toNat % 2 == 0
  | .vec128 => n.toNat % 4 == 0
  | .sca => n.toNat < 64
  | .mask => 0 < n.toNat && n.toNat < 16
  | .guard => n.toNat < 8
  | .scaMax max => n.toNat ≤ max
  | .vecBlock k a =>
    match a with | .reg r => !(n.toNat ≤ r.toNat && r.toNat < n.toNat + k) | _ => true

/-- The first field that breaks a limit of R49's third check: 0 DST, 1 A, 2 B, 3 C, 4 MOD. -/
def Form.bad? (g : Form) (f : Fields) : Option Nat :=
  if !g.dst.ok f.dst then some 0
  else if !f.a.ok g.a then some 1
  else if !f.b.ok g.b then some 2
  else if !f.c.ok g.c then some 3
  else if !g.modLim then some 4
  else Option.none

/-! ## The registers a field names (R355) -/

/-- The vector registers of a class from a register number. -/
def RCls.regs : RCls → Nat → List Nat
  | .vec, n => [n]
  | .vec64, n => [n, n + 1]
  | .vec128, n => [n, n + 1, n + 2, n + 3]
  | _, _ => []

def SrcForm.vregs (g : SrcForm) (x : Src) : List Nat :=
  match g, x with
  | .src (some c) _ _ _, .reg n => c.regs n.toNat
  | .vecRange k, .reg n => (List.range k).map (n.toNat + ·)
  | _, _ => []

def DstForm.vregs (d : DstForm) (n : Nat) : List Nat :=
  match d with
  | .vec => [n]
  | .vec64 => [n, n + 1]
  | .vec128 => [n, n + 1, n + 2, n + 3]
  | .vecBlock k _ => (List.range k).map (n + ·)
  | _ => []

def SrcForm.barrier? (g : SrcForm) (x : Src) : Option Nat :=
  match g, x with
  | .src (some .barrier) _ _ _, .reg n => some n.toNat
  | _, _ => none

/-! ## Pair halves (R40, R41) -/

inductive HalfCls where
  | none | sca | vec | mask
  deriving DecidableEq, Repr

def PairOp.cls : PairOp → HalfCls
  | .nop => .none
  | .smov | .sadd | .ssub | .sand | .sor | .sxor | .sshl | .sshr | .ssar | .smin | .smax | .slea => .sca
  | .mand | .mor | .mxor | .mandn => .mask
  | _ => .vec

/-- A NOP half has every field zero; no half names the literal word (R40). -/
def Half.illegal (h : Half) : Bool :=
  (h.op == .nop && !(h.d == 0 && h.x == .reg 0)) ||
    match h.x with | .lit v => v == 0x80 | .litWord _ => true | _ => false

/-- The vector registers a half names (R41.1). -/
def Half.vregs (h : Half) : List Nat :=
  if h.op.cls = .vec then
    h.d.toNat :: match h.x with | .reg n => [n.toNat] | _ => []
  else []

def Half.writesV (h : Half) (n : Nat) : Bool := h.op.cls == .vec && h.d.toNat == n

def bankClash (h0 h1 : Half) : Bool :=
  h0.vregs.any fun a => h1.vregs.any fun b =>
    a % 4 == b % 4 && !(a == b && !h0.writesV a && !h1.writesV a)

def Half.isCst (h : Half) : Bool := match h.x with | .cst _ => true | _ => false

/-- R41: banks, destinations, constant bank. A true answer is 0x02. -/
def pairIllegal (h0 h1 : Half) : Bool :=
  bankClash h0 h1 || (h0.op.cls != .none && h0.op.cls == h1.op.cls && h0.d == h1.d) ||
    (h0.isCst && h1.isCst)

def PairOp.srcForm (o : PairOp) : SrcForm :=
  match o.cls with
  | .none => .unused
  | .sca => scalar
  | .vec => anyK .vec
  | .mask => regOnly .mask

def PairOp.dstForm (o : PairOp) : DstForm :=
  match o.cls with
  | .none => .none
  | .sca => .sca
  | .vec => .vec
  | .mask => .mask

/-- The first field of a half that breaks a limit: 0 DST, 1 its source (log entry 5). -/
def Half.bad? (h : Half) : Option Nat :=
  if !h.op.dstForm.ok h.d then some 0
  else if !h.x.ok h.op.srcForm then some 1
  else Option.none

def pairBad? (h0 h1 : Half) : Option Nat := h0.bad?.or h1.bad?

end Sys2Proof
end

