-- ==== Sys2Proof/Decode.lean ====
section
/-!
DEFINITION. Decoding instruction words, total on any two words, and the encoder (R27 to R41, R47, R49).
-/
namespace Sys2Proof

/-- Why a word is not an instruction (R49). The field of an illegal operand is numbered as R284 numbers it. -/
inductive DecodeFault where
  /-- 0x01 -/
  | illegalInstruction
  /-- 0x02 -/
  | illegalPairing
  /-- 0x03 -/
  | illegalOperand (field : Nat)
  deriving DecidableEq, Repr

/-- The full form of an opcode; none for an undefined one (R47). -/
def Instr.ofOpc (opc : Nat) (f : Fields) : Option Instr :=
  match opc with
  | 0x000 => some (.nop f)
  | 0x001 => some (.smov f)
  | 0x002 => some (.sadd f)
  | 0x003 => some (.ssub f)
  | 0x004 => some (.smul f)
  | 0x005 => some (.smulh f)
  | 0x006 => some (.sdiv f)
  | 0x007 => some (.srem f)
  | 0x008 => some (.sand f)
  | 0x009 => some (.sor f)
  | 0x00A => some (.sxor f)
  | 0x00B => some (.sandn f)
  | 0x00C => some (.sshl f)
  | 0x00D => some (.sshr f)
  | 0x00E => some (.ssar f)
  | 0x00F => some (.smin f)
  | 0x010 => some (.smax f)
  | 0x011 => some (.scmp f)
  | 0x012 => some (.ssel f)
  | 0x013 => some (.spopc f)
  | 0x014 => some (.sclz f)
  | 0x015 => some (.sbfe f)
  | 0x016 => some (.sbfi f)
  | 0x017 => some (.slea f)
  | 0x018 => some (.srdl f)
  | 0x019 => some (.swrl f)
  | 0x01A => some (.sgets f)
  | 0x080 => some (.vmov f)
  | 0x081 => some (.vadd f)
  | 0x082 => some (.vsub f)
  | 0x083 => some (.vmul f)
  | 0x084 => some (.vmulh f)
  | 0x085 => some (.vmad f)
  | 0x086 => some (.vmin f)
  | 0x087 => some (.vmax f)
  | 0x088 => some (.vabs f)
  | 0x089 => some (.vand f)
  | 0x08A => some (.vor f)
  | 0x08B => some (.vxor f)
  | 0x08C => some (.vandn f)
  | 0x08D => some (.vshl f)
  | 0x08E => some (.vshr f)
  | 0x08F => some (.vsar f)
  | 0x090 => some (.vpopc f)
  | 0x091 => some (.vclz f)
  | 0x092 => some (.vbrev f)
  | 0x093 => some (.vbfe f)
  | 0x094 => some (.vbfi f)
  | 0x095 => some (.vsel f)
  | 0x096 => some (.vcmp f)
  | 0x097 => some (.vlid f)
  | 0x098 => some (.vshfl f)
  | 0x099 => some (.vbcast f)
  | 0x09A => some (.vred f)
  | 0x09B => some (.vscan f)
  | 0x09C => some (.vcomp f)
  | 0x09D => some (.vdiv f)
  | 0x09E => some (.vrem f)
  | 0x0A0 => some (.mmov f)
  | 0x0A1 => some (.mand f)
  | 0x0A2 => some (.mor f)
  | 0x0A3 => some (.mxor f)
  | 0x0A4 => some (.mandn f)
  | 0x0A5 => some (.mnot f)
  | 0x0A6 => some (.ballot f)
  | 0x0A7 => some (.mpopc f)
  | 0x0A8 => some (.mrank f)
  | 0x0A9 => some (.msets f)
  | 0x0AA => some (.mfirst f)
  | 0x100 => some (.fadd f)
  | 0x101 => some (.fsub f)
  | 0x102 => some (.fmul f)
  | 0x103 => some (.ffma f)
  | 0x104 => some (.fmin f)
  | 0x105 => some (.fmax f)
  | 0x106 => some (.fcmp f)
  | 0x107 => some (.fclass f)
  | 0x108 => some (.frnd f)
  | 0x109 => some (.frcp f)
  | 0x10A => some (.frsq f)
  | 0x10B => some (.fsqrt f)
  | 0x10C => some (.fdiv f)
  | 0x10D => some (.fexp2 f)
  | 0x10E => some (.flog2 f)
  | 0x10F => some (.fsin f)
  | 0x110 => some (.fcos f)
  | 0x111 => some (.ftanh f)
  | 0x112 => some (.fdot2 f)
  | 0x113 => some (.fscale f)
  | 0x120 => some (.cvt f)
  | 0x121 => some (.pack f)
  | 0x122 => some (.unpack f)
  | 0x123 => some (.bscale f)
  | 0x180 => some (.ld f)
  | 0x181 => some (.st f)
  | 0x182 => some (.lds f)
  | 0x183 => some (.sts f)
  | 0x184 => some (.atom f)
  | 0x185 => some (.atoms f)
  | 0x186 => some (.stcomp f)
  | 0x187 => some (.ldexp f)
  | 0x188 => some (.pref f)
  | 0x189 => some (.fence f)
  | 0x200 => some (.cpl f)
  | 0x201 => some (.cpgather f)
  | 0x202 => some (.cpscatter f)
  | 0x203 => some (.cptile f)
  | 0x204 => some (.cpfill f)
  | 0x205 => some (.aclose f)
  | 0x206 => some (.await f)
  | 0x207 => some (.atest f)
  | 0x208 => some (.cwaitge f)
  | 0x209 => some (.gset f)
  | 0x20A => some (.bncount f)
  | 0x20B => some (.bnpatch f)
  | 0x20C => some (.bnrel f)
  | 0x20D => some (.bnreset f)
  | 0x210 => some (.oclaim f)
  | 0x211 => some (.orel f)
  | 0x212 => some (.oload f)
  | 0x213 => some (.aclaim f)
  | 0x214 => some (.arel f)
  | 0x215 => some (.azero f)
  | 0x216 => some (.mma f)
  | 0x217 => some (.adrain f)
  | 0x218 => some (.astore f)
  | 0x219 => some (.mstat f)
  | 0x21A => some (.aband f)
  | 0x220 => some (.winstall f)
  | 0x221 => some (.wstat f)
  | 0x222 => some (.pgmove f)
  | 0x280 => some (.sealStr f)
  | 0x281 => some (.unsealStr f)
  | 0x282 => some (.rank1 f)
  | 0x283 => some (.rank0 f)
  | 0x284 => some (.sel1 f)
  | 0x285 => some (.sel0 f)
  | 0x286 => some (.fclose f)
  | 0x287 => some (.fopen f)
  | 0x288 => some (.encl f)
  | 0x289 => some (.exmin f)
  | 0x28A => some (.tkmatch f)
  | 0x28B => some (.utfcut f)
  | 0x28C => some (.ixstat f)
  | 0x300 => some (.bra f)
  | 0x301 => some (.brc f)
  | 0x302 => some (.brm f)
  | 0x303 => some (.bspl f)
  | 0x304 => some (.join f)
  | 0x305 => some (.call f)
  | 0x306 => some (.ret f)
  | 0x307 => some (.jmpi f)
  | 0x308 => some (.exit f)
  | 0x309 => some (.bar f)
  | 0x30A => some (.bara f)
  | 0x30B => some (.barw f)
  | 0x30C => some (.barinit f)
  | 0x30D => some (.barinv f)
  | 0x30E => some (.barexp f)
  | 0x30F => some (.yld f)
  | 0x310 => some (.idem f)
  | 0x311 => some (.tspawn f)
  | 0x312 => some (.tjoin f)
  | 0x313 => some (.nap f)
  | 0x314 => some (.lspawn f)
  | 0x380 => some (.trap f)
  | 0x381 => some (.bkpt f)
  | 0x382 => some (.ssets f)
  | 0x383 => some (.ckpt f)
  | 0x384 => some (.rpread f)
  | 0x385 => some (.lcancel f)
  | 0x386 => some (.lcount f)
  | _ => none

/-- The opcode and fields of a full form. -/
def Instr.full? : Instr → Option (Nat × Fields)
  | .nop f => some (0x000, f)
  | .smov f => some (0x001, f)
  | .sadd f => some (0x002, f)
  | .ssub f => some (0x003, f)
  | .smul f => some (0x004, f)
  | .smulh f => some (0x005, f)
  | .sdiv f => some (0x006, f)
  | .srem f => some (0x007, f)
  | .sand f => some (0x008, f)
  | .sor f => some (0x009, f)
  | .sxor f => some (0x00A, f)
  | .sandn f => some (0x00B, f)
  | .sshl f => some (0x00C, f)
  | .sshr f => some (0x00D, f)
  | .ssar f => some (0x00E, f)
  | .smin f => some (0x00F, f)
  | .smax f => some (0x010, f)
  | .scmp f => some (0x011, f)
  | .ssel f => some (0x012, f)
  | .spopc f => some (0x013, f)
  | .sclz f => some (0x014, f)
  | .sbfe f => some (0x015, f)
  | .sbfi f => some (0x016, f)
  | .slea f => some (0x017, f)
  | .srdl f => some (0x018, f)
  | .swrl f => some (0x019, f)
  | .sgets f => some (0x01A, f)
  | .vmov f => some (0x080, f)
  | .vadd f => some (0x081, f)
  | .vsub f => some (0x082, f)
  | .vmul f => some (0x083, f)
  | .vmulh f => some (0x084, f)
  | .vmad f => some (0x085, f)
  | .vmin f => some (0x086, f)
  | .vmax f => some (0x087, f)
  | .vabs f => some (0x088, f)
  | .vand f => some (0x089, f)
  | .vor f => some (0x08A, f)
  | .vxor f => some (0x08B, f)
  | .vandn f => some (0x08C, f)
  | .vshl f => some (0x08D, f)
  | .vshr f => some (0x08E, f)
  | .vsar f => some (0x08F, f)
  | .vpopc f => some (0x090, f)
  | .vclz f => some (0x091, f)
  | .vbrev f => some (0x092, f)
  | .vbfe f => some (0x093, f)
  | .vbfi f => some (0x094, f)
  | .vsel f => some (0x095, f)
  | .vcmp f => some (0x096, f)
  | .vlid f => some (0x097, f)
  | .vshfl f => some (0x098, f)
  | .vbcast f => some (0x099, f)
  | .vred f => some (0x09A, f)
  | .vscan f => some (0x09B, f)
  | .vcomp f => some (0x09C, f)
  | .vdiv f => some (0x09D, f)
  | .vrem f => some (0x09E, f)
  | .mmov f => some (0x0A0, f)
  | .mand f => some (0x0A1, f)
  | .mor f => some (0x0A2, f)
  | .mxor f => some (0x0A3, f)
  | .mandn f => some (0x0A4, f)
  | .mnot f => some (0x0A5, f)
  | .ballot f => some (0x0A6, f)
  | .mpopc f => some (0x0A7, f)
  | .mrank f => some (0x0A8, f)
  | .msets f => some (0x0A9, f)
  | .mfirst f => some (0x0AA, f)
  | .fadd f => some (0x100, f)
  | .fsub f => some (0x101, f)
  | .fmul f => some (0x102, f)
  | .ffma f => some (0x103, f)
  | .fmin f => some (0x104, f)
  | .fmax f => some (0x105, f)
  | .fcmp f => some (0x106, f)
  | .fclass f => some (0x107, f)
  | .frnd f => some (0x108, f)
  | .frcp f => some (0x109, f)
  | .frsq f => some (0x10A, f)
  | .fsqrt f => some (0x10B, f)
  | .fdiv f => some (0x10C, f)
  | .fexp2 f => some (0x10D, f)
  | .flog2 f => some (0x10E, f)
  | .fsin f => some (0x10F, f)
  | .fcos f => some (0x110, f)
  | .ftanh f => some (0x111, f)
  | .fdot2 f => some (0x112, f)
  | .fscale f => some (0x113, f)
  | .cvt f => some (0x120, f)
  | .pack f => some (0x121, f)
  | .unpack f => some (0x122, f)
  | .bscale f => some (0x123, f)
  | .ld f => some (0x180, f)
  | .st f => some (0x181, f)
  | .lds f => some (0x182, f)
  | .sts f => some (0x183, f)
  | .atom f => some (0x184, f)
  | .atoms f => some (0x185, f)
  | .stcomp f => some (0x186, f)
  | .ldexp f => some (0x187, f)
  | .pref f => some (0x188, f)
  | .fence f => some (0x189, f)
  | .cpl f => some (0x200, f)
  | .cpgather f => some (0x201, f)
  | .cpscatter f => some (0x202, f)
  | .cptile f => some (0x203, f)
  | .cpfill f => some (0x204, f)
  | .aclose f => some (0x205, f)
  | .await f => some (0x206, f)
  | .atest f => some (0x207, f)
  | .cwaitge f => some (0x208, f)
  | .gset f => some (0x209, f)
  | .bncount f => some (0x20A, f)
  | .bnpatch f => some (0x20B, f)
  | .bnrel f => some (0x20C, f)
  | .bnreset f => some (0x20D, f)
  | .oclaim f => some (0x210, f)
  | .orel f => some (0x211, f)
  | .oload f => some (0x212, f)
  | .aclaim f => some (0x213, f)
  | .arel f => some (0x214, f)
  | .azero f => some (0x215, f)
  | .mma f => some (0x216, f)
  | .adrain f => some (0x217, f)
  | .astore f => some (0x218, f)
  | .mstat f => some (0x219, f)
  | .aband f => some (0x21A, f)
  | .winstall f => some (0x220, f)
  | .wstat f => some (0x221, f)
  | .pgmove f => some (0x222, f)
  | .sealStr f => some (0x280, f)
  | .unsealStr f => some (0x281, f)
  | .rank1 f => some (0x282, f)
  | .rank0 f => some (0x283, f)
  | .sel1 f => some (0x284, f)
  | .sel0 f => some (0x285, f)
  | .fclose f => some (0x286, f)
  | .fopen f => some (0x287, f)
  | .encl f => some (0x288, f)
  | .exmin f => some (0x289, f)
  | .tkmatch f => some (0x28A, f)
  | .utfcut f => some (0x28B, f)
  | .ixstat f => some (0x28C, f)
  | .bra f => some (0x300, f)
  | .brc f => some (0x301, f)
  | .brm f => some (0x302, f)
  | .bspl f => some (0x303, f)
  | .join f => some (0x304, f)
  | .call f => some (0x305, f)
  | .ret f => some (0x306, f)
  | .jmpi f => some (0x307, f)
  | .exit f => some (0x308, f)
  | .bar f => some (0x309, f)
  | .bara f => some (0x30A, f)
  | .barw f => some (0x30B, f)
  | .barinit f => some (0x30C, f)
  | .barinv f => some (0x30D, f)
  | .barexp f => some (0x30E, f)
  | .yld f => some (0x30F, f)
  | .idem f => some (0x310, f)
  | .tspawn f => some (0x311, f)
  | .tjoin f => some (0x312, f)
  | .nap f => some (0x313, f)
  | .lspawn f => some (0x314, f)
  | .trap f => some (0x380, f)
  | .bkpt f => some (0x381, f)
  | .ssets f => some (0x382, f)
  | .ckpt f => some (0x383, f)
  | .rpread f => some (0x384, f)
  | .lcancel f => some (0x385, f)
  | .lcount f => some (0x386, f)
  | _ => none

/-- The pair opcodes of R40; 0x2A and above are none. -/
def PairOp.ofCode (c : Nat) : Option PairOp :=
  match c with
  | 0x00 => some .nop
  | 0x01 => some .smov
  | 0x02 => some .sadd
  | 0x03 => some .ssub
  | 0x04 => some .sand
  | 0x05 => some .sor
  | 0x06 => some .sxor
  | 0x07 => some .sshl
  | 0x08 => some .sshr
  | 0x09 => some .ssar
  | 0x0A => some .smin
  | 0x0B => some .smax
  | 0x0C => some .vmov
  | 0x0D => some .vaddI32
  | 0x0E => some .vsubI32
  | 0x0F => some .vmulI32
  | 0x10 => some .vand
  | 0x11 => some .vor
  | 0x12 => some .vxor
  | 0x13 => some .vshl
  | 0x14 => some .vshr
  | 0x15 => some .vsar
  | 0x16 => some .vminI32
  | 0x17 => some .vminN32
  | 0x18 => some .vmaxI32
  | 0x19 => some .vmaxN32
  | 0x1A => some .vabsI32
  | 0x1B => some .faddF32
  | 0x1C => some .fsubF32
  | 0x1D => some .faddF16x2
  | 0x1E => some .fmulF32
  | 0x1F => some .fminF32
  | 0x20 => some .fmaxF32
  | 0x21 => some .faddBf16x2
  | 0x22 => some .fmulBf16x2
  | 0x23 => some .mand
  | 0x24 => some .mor
  | 0x25 => some .mxor
  | 0x26 => some .mandn
  | 0x27 => some .slea
  | 0x28 => some .vaddI16x2
  | 0x29 => some .vaddI8x4
  | _ => none

def PairOp.code : PairOp → Nat
  | .nop => 0x00
  | .smov => 0x01
  | .sadd => 0x02
  | .ssub => 0x03
  | .sand => 0x04
  | .sor => 0x05
  | .sxor => 0x06
  | .sshl => 0x07
  | .sshr => 0x08
  | .ssar => 0x09
  | .smin => 0x0A
  | .smax => 0x0B
  | .vmov => 0x0C
  | .vaddI32 => 0x0D
  | .vsubI32 => 0x0E
  | .vmulI32 => 0x0F
  | .vand => 0x10
  | .vor => 0x11
  | .vxor => 0x12
  | .vshl => 0x13
  | .vshr => 0x14
  | .vsar => 0x15
  | .vminI32 => 0x16
  | .vminN32 => 0x17
  | .vmaxI32 => 0x18
  | .vmaxN32 => 0x19
  | .vabsI32 => 0x1A
  | .faddF32 => 0x1B
  | .fsubF32 => 0x1C
  | .faddF16x2 => 0x1D
  | .fmulF32 => 0x1E
  | .fminF32 => 0x1F
  | .fmaxF32 => 0x20
  | .faddBf16x2 => 0x21
  | .fmulBf16x2 => 0x22
  | .mand => 0x23
  | .mor => 0x24
  | .mxor => 0x25
  | .mandn => 0x26
  | .slea => 0x27
  | .vaddI16x2 => 0x28
  | .vaddI8x4 => 0x29

/-- A pair word is the constructor of its first half's operation (R39). -/
def Instr.ofHalves (h0 h1 : Half) : Instr :=
  match h0.op with
  | .nop => .pairNop h1
  | .smov => .pairSmov h0.d h0.x h1
  | .sadd => .pairSadd h0.d h0.x h1
  | .ssub => .pairSsub h0.d h0.x h1
  | .sand => .pairSand h0.d h0.x h1
  | .sor => .pairSor h0.d h0.x h1
  | .sxor => .pairSxor h0.d h0.x h1
  | .sshl => .pairSshl h0.d h0.x h1
  | .sshr => .pairSshr h0.d h0.x h1
  | .ssar => .pairSsar h0.d h0.x h1
  | .smin => .pairSmin h0.d h0.x h1
  | .smax => .pairSmax h0.d h0.x h1
  | .vmov => .pairVmov h0.d h0.x h1
  | .vaddI32 => .pairVaddI32 h0.d h0.x h1
  | .vsubI32 => .pairVsubI32 h0.d h0.x h1
  | .vmulI32 => .pairVmulI32 h0.d h0.x h1
  | .vand => .pairVand h0.d h0.x h1
  | .vor => .pairVor h0.d h0.x h1
  | .vxor => .pairVxor h0.d h0.x h1
  | .vshl => .pairVshl h0.d h0.x h1
  | .vshr => .pairVshr h0.d h0.x h1
  | .vsar => .pairVsar h0.d h0.x h1
  | .vminI32 => .pairVminI32 h0.d h0.x h1
  | .vminN32 => .pairVminN32 h0.d h0.x h1
  | .vmaxI32 => .pairVmaxI32 h0.d h0.x h1
  | .vmaxN32 => .pairVmaxN32 h0.d h0.x h1
  | .vabsI32 => .pairVabsI32 h0.d h0.x h1
  | .faddF32 => .pairFaddF32 h0.d h0.x h1
  | .fsubF32 => .pairFsubF32 h0.d h0.x h1
  | .faddF16x2 => .pairFaddF16x2 h0.d h0.x h1
  | .fmulF32 => .pairFmulF32 h0.d h0.x h1
  | .fminF32 => .pairFminF32 h0.d h0.x h1
  | .fmaxF32 => .pairFmaxF32 h0.d h0.x h1
  | .faddBf16x2 => .pairFaddBf16x2 h0.d h0.x h1
  | .fmulBf16x2 => .pairFmulBf16x2 h0.d h0.x h1
  | .mand => .pairMand h0.d h0.x h1
  | .mor => .pairMor h0.d h0.x h1
  | .mxor => .pairMxor h0.d h0.x h1
  | .mandn => .pairMandn h0.d h0.x h1
  | .slea => .pairSlea h0.d h0.x h1
  | .vaddI16x2 => .pairVaddI16x2 h0.d h0.x h1
  | .vaddI8x4 => .pairVaddI8x4 h0.d h0.x h1

def Instr.pair? : Instr → Option (Half × Half)
  | .pairNop h1 => some (⟨.nop, 0, .reg 0⟩, h1)
  | .pairSmov d x h1 => some (⟨.smov, d, x⟩, h1)
  | .pairSadd d x h1 => some (⟨.sadd, d, x⟩, h1)
  | .pairSsub d x h1 => some (⟨.ssub, d, x⟩, h1)
  | .pairSand d x h1 => some (⟨.sand, d, x⟩, h1)
  | .pairSor d x h1 => some (⟨.sor, d, x⟩, h1)
  | .pairSxor d x h1 => some (⟨.sxor, d, x⟩, h1)
  | .pairSshl d x h1 => some (⟨.sshl, d, x⟩, h1)
  | .pairSshr d x h1 => some (⟨.sshr, d, x⟩, h1)
  | .pairSsar d x h1 => some (⟨.ssar, d, x⟩, h1)
  | .pairSmin d x h1 => some (⟨.smin, d, x⟩, h1)
  | .pairSmax d x h1 => some (⟨.smax, d, x⟩, h1)
  | .pairVmov d x h1 => some (⟨.vmov, d, x⟩, h1)
  | .pairVaddI32 d x h1 => some (⟨.vaddI32, d, x⟩, h1)
  | .pairVsubI32 d x h1 => some (⟨.vsubI32, d, x⟩, h1)
  | .pairVmulI32 d x h1 => some (⟨.vmulI32, d, x⟩, h1)
  | .pairVand d x h1 => some (⟨.vand, d, x⟩, h1)
  | .pairVor d x h1 => some (⟨.vor, d, x⟩, h1)
  | .pairVxor d x h1 => some (⟨.vxor, d, x⟩, h1)
  | .pairVshl d x h1 => some (⟨.vshl, d, x⟩, h1)
  | .pairVshr d x h1 => some (⟨.vshr, d, x⟩, h1)
  | .pairVsar d x h1 => some (⟨.vsar, d, x⟩, h1)
  | .pairVminI32 d x h1 => some (⟨.vminI32, d, x⟩, h1)
  | .pairVminN32 d x h1 => some (⟨.vminN32, d, x⟩, h1)
  | .pairVmaxI32 d x h1 => some (⟨.vmaxI32, d, x⟩, h1)
  | .pairVmaxN32 d x h1 => some (⟨.vmaxN32, d, x⟩, h1)
  | .pairVabsI32 d x h1 => some (⟨.vabsI32, d, x⟩, h1)
  | .pairFaddF32 d x h1 => some (⟨.faddF32, d, x⟩, h1)
  | .pairFsubF32 d x h1 => some (⟨.fsubF32, d, x⟩, h1)
  | .pairFaddF16x2 d x h1 => some (⟨.faddF16x2, d, x⟩, h1)
  | .pairFmulF32 d x h1 => some (⟨.fmulF32, d, x⟩, h1)
  | .pairFminF32 d x h1 => some (⟨.fminF32, d, x⟩, h1)
  | .pairFmaxF32 d x h1 => some (⟨.fmaxF32, d, x⟩, h1)
  | .pairFaddBf16x2 d x h1 => some (⟨.faddBf16x2, d, x⟩, h1)
  | .pairFmulBf16x2 d x h1 => some (⟨.fmulBf16x2, d, x⟩, h1)
  | .pairMand d x h1 => some (⟨.mand, d, x⟩, h1)
  | .pairMor d x h1 => some (⟨.mor, d, x⟩, h1)
  | .pairMxor d x h1 => some (⟨.mxor, d, x⟩, h1)
  | .pairMandn d x h1 => some (⟨.mandn, d, x⟩, h1)
  | .pairSlea d x h1 => some (⟨.slea, d, x⟩, h1)
  | .pairVaddI16x2 d x h1 => some (⟨.vaddI16x2, d, x⟩, h1)
  | .pairVaddI8x4 d x h1 => some (⟨.vaddI8x4, d, x⟩, h1)
  | _ => none

/-- The fields of R31 as they stand in the word, before any check. -/
structure Raw where
  opc : BitVec 10
  msk : BitVec 4
  dst : BitVec 8
  ak : BitVec 2
  a : BitVec 8
  bk : BitVec 2
  b : BitVec 8
  ck : BitVec 2
  c : BitVec 8
  l : BitVec 1
  mod : BitVec 10
  deriving DecidableEq, Repr

def Raw.ofWord (w : Word) : Raw where
  opc := w.extractLsb' 53 10
  msk := w.extractLsb' 49 4
  dst := w.extractLsb' 41 8
  ak := w.extractLsb' 39 2
  a := w.extractLsb' 31 8
  bk := w.extractLsb' 29 2
  b := w.extractLsb' 21 8
  ck := w.extractLsb' 19 2
  c := w.extractLsb' 11 8
  l := w.extractLsb' 10 1
  mod := w.extractLsb' 0 10

def Raw.word (r : Raw) : Word :=
  0#1 ++ r.opc ++ r.msk ++ r.dst ++ r.ak ++ r.a ++ r.bk ++ r.b ++ r.ck ++ r.c ++ r.l ++ r.mod

/-- A source from its kind and value, `lit` the literal word (R33). -/
def Src.ofRaw (k : BitVec 2) (v : BitVec 8) (lit : Word) : Src :=
  match k.toNat with
  | 0 => .reg v
  | 1 => .sca v
  | 2 => .cst v
  | _ => if v = 0x80 then .litWord lit else .lit v

def Src.kind : Src → BitVec 2
  | .reg _ => 0
  | .sca _ => 1
  | .cst _ => 2
  | .lit _ => 3
  | .litWord _ => 3

def Src.val : Src → BitVec 8
  | .reg n => n
  | .sca n => n
  | .cst k => k
  | .lit v => v
  | .litWord _ => 0x80

def Raw.fields (r : Raw) (lit : Word) : Fields :=
  ⟨r.msk, r.dst, .ofRaw r.ak r.a lit, .ofRaw r.bk r.b lit, .ofRaw r.ck r.c lit, r.mod⟩

/-- The checks of R49 on a full form. -/
def decodeFull (w lit : Word) : Except DecodeFault Instr :=
  let r := Raw.ofWord w
  let f := r.fields lit
  match Instr.ofOpc r.opc.toNat f with
  | none => .error .illegalInstruction
  | some i =>
    if (r.l == 1) != f.litWord?.isSome || i.form.illegal f then .error .illegalInstruction
    else match i.form.bad? f with
      | some k => .error (.illegalOperand k)
      | none => .ok i

/-- A half as it stands in the word: pair opcode, DST, kind, source, PMOD (R39). -/
structure RawHalf where
  op : BitVec 7
  d : BitVec 8
  k : BitVec 2
  v : BitVec 8
  pmod : BitVec 6
  deriving DecidableEq, Repr

def RawHalf.ofBits (w : BitVec 31) : RawHalf :=
  ⟨w.extractLsb' 24 7, w.extractLsb' 16 8, w.extractLsb' 14 2, w.extractLsb' 6 8, w.extractLsb' 0 6⟩

def RawHalf.bits (r : RawHalf) : BitVec 31 := r.op ++ r.d ++ r.k ++ r.v ++ r.pmod

/-- A half; none is an illegal instruction. -/
def RawHalf.half? (r : RawHalf) : Option Half :=
  match PairOp.ofCode r.op.toNat with
  | none => none
  | some o =>
    let h : Half := ⟨o, r.d, .ofRaw r.k r.v 0⟩
    if r.pmod != 0 || h.illegal then none else some h

/-- The checks of R49 on a pair form. -/
def decodePair (w : Word) : Except DecodeFault Instr :=
  if w.extractLsb' 62 1 = 1 then .error .illegalInstruction
  else match (RawHalf.ofBits (w.extractLsb' 31 31)).half?, (RawHalf.ofBits (w.extractLsb' 0 31)).half? with
    | some h0, some h1 =>
      if pairIllegal h0 h1 then .error .illegalPairing
      else match pairBad? h0 h1 with
        | some k => .error (.illegalOperand k)
        | none => .ok (.ofHalves h0 h1)
    | _, _ => .error .illegalInstruction

/-- The instruction at a program counter: `w` the word there, `lit` the word after it,
which only a full form with L set reads (R27). -/
def decode (w lit : Word) : Except DecodeFault Instr :=
  if w.extractLsb' 63 1 = 1 then decodePair w else decodeFull w lit

/-- Whether the word has a literal word after it (R27). -/
def hasLit (w : Word) : Bool := w.extractLsb' 63 1 = 0 && w.extractLsb' 10 1 = 1

/-- How many words the instruction occupies (R27). -/
def Instr.words (i : Instr) : Nat :=
  match i.full? with
  | some (_, f) => if f.litWord?.isSome then 2 else 1
  | none => 1

def Half.raw (h : Half) : RawHalf := ⟨.ofNat 7 h.op.code, h.d, h.x.kind, h.x.val, 0⟩

def Fields.raw (opc : Nat) (f : Fields) : Raw :=
  ⟨.ofNat 10 opc, f.msk, f.dst, f.a.kind, f.a.val, f.b.kind, f.b.val, f.c.kind, f.c.val,
    if f.litWord?.isSome then 1 else 0, f.mod⟩

/-- The words of an instruction; an event has none. -/
def encode (i : Instr) : List Word :=
  match i.full? with
  | some (opc, f) => (f.raw opc).word :: f.litWord?.toList
  | none =>
    match i.pair? with
    | some (h0, h1) => [1#1 ++ 0#1 ++ h0.raw.bits ++ h1.raw.bits]
    | none => []

/-- The instruction this decoder reads from an instruction whose bits are `w`, bit 0 the least
significant bit of its first word; the literal word is bits 127 to 64. -/
def decodeTableWord (_nbits w : Nat) : Option Instr :=
  (decode (.ofNat 64 w) (.ofNat 64 (w >>> 64))).toOption

end Sys2Proof
end

