-- ==== Sys2Proof/Machine/State.lean ====
section
/-!
DEFINITION. The state of the module: everything the manual gives it, as plain data, and reset.
-/
namespace Sys2Proof.Machine

/-- No instruction and no event of this machine stops it: an architectural fault is a next state (R280).
The type is empty of cases but one, kept for the interface. -/
inductive Fault where
  /-- Raised by nobody. Safe: no step answers it. -/
  | unreachable
  deriving DecidableEq, Repr

/-- Why the model gives no meaning. -/
inductive Refusal where
  /-- Raised by Dispatch for an instruction without a meaning yet. Safe: the run stops. -/
  | notModelled (mnemonic : String)
  deriving DecidableEq, Repr

/-! ## Pending accesses -/

/-- What a pending access does when its home serves it (R185, R191). -/
inductive Acc where
  | load (sx : Bool)
  | store
  | atom (op : Nat)
  deriving DecidableEq, Repr

/-- Where the results of an access go: a scalar register, or the lanes of a vector register
(a run of them for .b64 and .b128). -/
inductive Dst where
  | none
  | sca (r : Nat)
  | vec (r : Nat)
  deriving DecidableEq, Repr

/-- One lane of an access: its place, its data and compare value, its result once served. -/
structure PLane where
  lane : Nat
  loc : Loc
  data : Nat
  cmp : Nat
  res : Option Nat
  /-- Its transaction to a peer is under way (R338). -/
  sent : Bool := false
  /-- A path 0x5 access to this module itself (R94). -/
  own5 : Bool := false
  deriving DecidableEq, Repr

/-- An access in flight: the lanes of one load or atomic, or one lane of a store (R227, R228). -/
structure Pend where
  id : Nat
  grp : Nat
  sp : Nat
  /-- The issuing instruction's address, for a late 0x30 (R279). -/
  pc : Word
  acc : Acc
  n : Nat
  lanes : List PLane
  dst : Dst
  acq : Bool
  rel : Bool
  scope : Nat
  /-- Issued inside the open region (R301). -/
  region : Bool
  deriving DecidableEq, Repr

/-- How far TKMATCH's walk has come (R126): its node and depth, the child position it looks at, the best id and
length so far, the depth limit, and the input bytes as read. -/
structure Trie where
  v : Nat
  d : Nat
  c : Option Nat
  id : Nat
  len : Nat
  limit : Nat
  input : List Byte
  deriving DecidableEq, Repr

/-- One lane of a query: its arguments, the input bytes it reads, whether a peer is asked for some of them, the
walk it makes, and its answer once served. -/
structure QLane where
  lane : Nat
  x : Nat
  y : Nat
  src : List Loc
  res : Option (Nat × Nat)
  asked : Bool := false
  walk : Option Trie := none
  /-- Its input lies on path 0x5 in this module itself (R94). -/
  own5 : Bool := false
  deriving DecidableEq, Repr

/-- A query instruction in flight (R119, R125). -/
structure Query where
  id : Nat
  grp : Nat
  sp : Nat
  pc : Word
  /-- The opcode; TKMATCH and UTFCUT too. -/
  op : Nat
  wide : Bool
  dir : Nat
  dst : Nat
  lanes : List QLane
  cut : Bool
  ctl : Bool
  region : Bool
  deriving DecidableEq, Repr

/-! ## Columns -/

structure Column where
  slots : Memory
  accum : Memory
  /-- Slots whose contents the latest use, or CPTILE's fill, since their claim took as FP6 elements (R59; log entry 32). -/
  fp6 : List Nat
  /-- Holders, by team number plus one; 0 is nobody. -/
  slotHeld : Map Nat
  bankHeld : Map Nat
  /-- Owner of row `r` of bank `b` at key `16 * b + r`, by group index plus one. -/
  rowOwner : Map Nat
  ops : List MxOp
  fenced : BitVec 4
  proofs : Nat
  /-- Quarter operations applied since the last proof product, per sub-array. -/
  sinceProof : Map Nat
  /-- A proof product is running on these sub-arrays (R219). -/
  proving : List Nat
  /-- Groups and batches with operations since each sub-array's last passing proof product. -/
  suspects : List (Nat × Nat × Nat)
  band : Nat
  replays : BitVec 64
  /-- CYCLE is the device clock less `base` plus `extra` (log entry 4). -/
  base : Nat
  extra : Nat
  deriving DecidableEq, Repr

/-! ## Launches, queues, jobs of the scheduler -/

structure Launch where
  id : Nat
  ten : Nat
  code : Word
  /-- CONST of the descriptor (R264). -/
  const : Word
  nteams : Nat
  scratch : Nat
  vregs : Nat
  groups : Nat
  width : Nat
  barriers : Nat
  prio : Nat
  span : Bool
  ctl : Bool
  heat : Nat
  graph : Word
  phase : Word
  job : Word
  faultq : Word
  frame : Word
  fstride : Nat
  done : Word
  rqbase : Word
  rqcap : Nat
  /-- The constant bank (R266). -/
  bank : Map Word
  /-- Next initial record not yet written (R267), and the die they go to (log entry 14). -/
  next : Nat
  die : Nat
  /-- Records pushed by TSPAWN and joins; records ever written to the queue area. -/
  pushes : Nat
  enq : Nat
  completed : Nat
  cancelled : Bool
  complete : Bool
  bkpt : Bool
  /-- The peer whose launch it is, where this module only runs work of it, and its LAUNCHID there (R266, R276). -/
  guest : Option (Nat × Nat) := none
  deriving DecidableEq, Repr

/-- The LAUNCHID its programs and its records know it by: the home module's, where that is a peer (R266; log entry 62). -/
def Launch.no (l : Launch) : Nat := l.guest.elim l.id (·.2)

/-- Dispatchable work (R274): a record with its 32 bytes as pushed, or an image. -/
inductive Work where
  | record (bytes team : Nat)
  | image (i : Image)
  deriving DecidableEq, Repr

structure Item where
  id : Nat
  die : Nat
  ten : Nat
  launch : Nat
  prio : Nat
  pushTime : Nat
  /-- When it was queued here, and how many levels it has risen since (R274). -/
  queuedAt : Nat
  aged : Nat
  passes : Nat
  work : Work
  deriving DecidableEq, Repr

/-- A join under way (R268, R269): of a completed record on its PARENT, or TJOIN's push. -/
structure JoinWait where
  ten : Nat
  launch : Nat
  /-- The completed record's TEAMID. -/
  team : Nat
  addr : Word
  /-- The count is already decremented: only the push waits, for an entry of the queue. -/
  pushing : Bool
  /-- The page whose report the join waits for. -/
  page : Option Nat
  /-- TJOIN's, not a completed record's; and its split, destination and next address while it waits for it. -/
  tjoin : Bool
  who : Option (Nat × Nat × Nat × Word)
  /-- The ended team, whose accesses must be complete before its record is (R268, R271), and whether the record then
  counts as completed. -/
  uid : Nat
  counts : Bool
  die : Nat
  deriving DecidableEq, Repr

/-- A logged line (R310). -/
structure Undo where
  gen : Nat
  line : Nat
  old : Nat
  deriving DecidableEq, Repr

/-- A sealed or half-written checkpoint (R307): the images and launch blocks of a generation. -/
structure Ckpt where
  gen : Nat
  slot : Nat
  images : List Image
  items : List Item
  launches : List Launch
  /-- The LAUNCHIDs of the job at the checkpoint, complete ones too, and its joins under way (log entry 67). -/
  known : List Nat
  joins : List JoinWait
  /-- Bivouac's entry checkpoint (R313). -/
  entry : Bool
  /-- The commit record is written (R307 step 3). -/
  committed : Bool
  /-- Bytes its manifest and blocks take. -/
  len : Nat
  /-- Peers asked that have not answered yet, and those to be told of its end; or the peer this module answers (R307). -/
  waiting : List Nat := []
  peers : List Nat := []
  asker : Option Nat := none
  /-- Where an entry checkpoint of a job without an area stands in the tenant's image area. -/
  place : Option Nat := none
  deriving DecidableEq, Repr

/-- A job of a tenant: recovery-point registers, generation, undo log (R304, R305, R310). -/
structure RJob where
  ten : Nat
  id : Word
  hasArea : Bool
  area : Nat
  slotSize : Nat
  undoCap : Nat
  undo : List Undo
  gen : Nat
  highest : Nat
  rpgen : Nat
  rpman : Nat
  rpprev : Nat
  rpprevman : Nat
  norb : Bool
  /-- A write found the log full: a checkpoint is to be requested (R310). -/
  want : Bool
  /-- 0 idle, 1 in progress, 2 last abandoned; and the generation it speaks of. -/
  state : Nat
  last : Nat
  progress : Option Ckpt
  /-- A rollback has begun and awaits its restore (R312). -/
  rolling : Bool
  /-- Peers whose teams of the job have not stopped for it yet; or the peer whose rollback this module's work of it awaits. -/
  containing : List Nat := []
  container : Option Nat := none
  sealed : List Ckpt
  deriving DecidableEq, Repr

structure Tenant where
  n : Nat
  root : Nat
  weight : Nat
  /-- Dispatches made in this round, by die (R274). -/
  spent : Map Nat
  tagCtr : Nat
  nextLaunch : Nat
  hostSeq : Nat
  imageArea : Nat
  /-- Cancelled ids: level and id (R273). -/
  cancelled : List (Nat × Nat)
  /-- AES-XTS key draw (R100): keys never leave the die and change no value. -/
  key : Word
  deriving DecidableEq, Repr

/-- An install region (R78). -/
structure Region where
  n : Nat
  ten : Nat
  stack : Nat
  base : Nat
  units : List Nat
  budget : Nat
  consumed : Nat
  installs : Nat
  installing : Bool
  retired : Nat
  lastCode : Nat
  deriving DecidableEq, Repr

/-- A page in motion (R75). -/
structure Migration where
  ten : Nat
  va : Nat
  target : Nat
  copying : Bool
  deriving DecidableEq, Repr

structure Link where
  /-- Privileged software has set its far end (R334). -/
  known : Bool
  peer : Nat
  peerLink : Nat
  active : BitVec 8
  training : Bool
  failed : Nat
  replays : BitVec 64
  downs : BitVec 64
  handbacks : BitVec 64
  berth : Nat
  berest : Map Nat
  corrected : Map Nat
  /-- Wavelengths whose last window exceeded the threshold, and whose last lay below one tenth of it (R336). -/
  above : BitVec 8
  below : BitVec 8
  /-- Payload bytes carried of the message that goes on into the next flit, by transaction, and the sequence number of that flit
  (R335, R337). -/
  carried : Nat
  carriedOf : Nat
  seq : Nat
  deriving DecidableEq, Repr

/-- What a transaction asks of a peer (R338), and the fabric messages of spanning launches (R273, R276). -/
inductive TxOp where
  | access (op : RemoteOp)
  | work (it : Item)
  | cancel (ten launch : Nat)
  deriving DecidableEq, Repr

/-- Who waits for a transaction. -/
inductive TxWho where
  | nobody
  /-- Lanes of an access (by number). -/
  | lanes (pend : Nat) (ls : List Nat)
  /-- A piece of an engine job, and the bytes it counts. -/
  | piece (job n : Nat)
  /-- Source bytes of a job, or of lanes of a query. -/
  | jobRead (job : Nat)
  | queryRead (query : Nat) (lanes : List Nat)
  /-- CWAITGE's read of its counter, with the next address. -/
  | poll (target : Nat) (next : Word)
  /-- An instruction that waits until its peers have its messages: LCANCEL and CKPT. -/
  | told
  /-- A peer whose team cancels a launch of this module, which is answered once the others have it too (R273). -/
  | relay (asker launch : Nat)
  deriving DecidableEq, Repr

/-- A transaction sent to a peer and not yet delivered (R338). -/
structure RemTx where
  peer : Nat
  addr : Nat
  op : TxOp
  resent : Bool
  who : TxWho
  /-- The instruction: group, split, address, and the batch of an engine's. -/
  grp : Nat
  sp : Nat
  pc : Word
  batch : Nat
  id : Nat := 0
  deriving DecidableEq, Repr

/-- A release at a scope below the system's that its home has applied while accesses before it are still open: the
agents of its instance see it only with them (R224, R229). It covers the group's accesses numbered below `upTo`, or, for a
counter's add, what a job has counted and not landed (R144). -/
structure Debt where
  loc : Loc
  n : Nat
  grp : Nat
  scope : Nat
  upTo : Nat
  job : Option Nat := none
  deriving DecidableEq, Repr

/-- Frames a leaf of a tenant's tables places: where (a vault's column, 512 + k for memory stack k, 528 for all stacks),
the first, and how many (R2, R3). -/
structure Placed where
  ten : Nat
  key : Nat
  lo : Nat
  n : Nat
  deriving DecidableEq, Repr

/-- A page edit not yet complete (R97), and the physical ranges of the old translation: space, first byte, end. -/
structure Edit where
  ten : Nat
  page : Nat
  old : List (Nat × Nat × Nat)
  deriving DecidableEq, Repr

/-- One line's part of a write through a host port, or of a peer's (R114, R343), and the peer that is answered when it
lands. -/
structure LineWrite where
  port : Option Nat
  tell : Option Nat
  locs : List Loc
  bytes : List Byte
  deriving DecidableEq, Repr

/-- A peer's transaction that waits for a page, or for a fill of the staging cache (R77, R94, R98). -/
structure PeerWait where
  peer : Nat
  ten : Nat
  addr : Nat
  op : RemoteOp
  /-- The page reported, or none where it waits for the staging cache. -/
  page : Option Nat
  deriving DecidableEq, Repr

structure Port where
  up : Bool
  speed : Nat
  rejects : Nat
  aer : Nat
  bar2ten : Nat
  bar2base : Nat
  subaddr : Word
  subten : Word
  /-- A submission is being accepted (R356). -/
  subBusy : Bool
  subres : Word
  deriving DecidableEq, Repr

/-- The group-control block (R285). -/
structure GCtl where
  target : Word
  gsel : Word
  seq : Word
  act : Word
  pc0 : Word
  pc1 : Word
  status : Nat
  /-- The port that wrote the block last. -/
  port : Nat
  deriving DecidableEq, Repr

/-- Bring-up, firmware and attestation (R346 to R353). -/
structure Boot where
  brstate : Nat
  fail : BitVec 29
  fwstat : Nat
  fwver : Nat
  fwlen : Nat
  window : Memory
  image : List Byte
  nonce : Memory
  report : List Byte
  attstat : Nat
  attCount : Nat
  /-- A report is being signed. -/
  signing : Bool
  /-- SHA-256 of the running image. -/
  imageHash : List Byte
  deriving DecidableEq, Repr

/-- Bivouac: 0 awake, 1 entering, 2 asleep, 3 waking without firmware (R83 to R86, R353). -/
structure Biv where
  phase : Nat
  bvack : Bool
  pwrlow : Bool
  deriving DecidableEq, Repr

/-- Privileged settings (R69 to R78, R97, R112, R219, R274, R276, R297). -/
structure Settings where
  floor : Nat
  aging : Nat
  depth : Nat
  budget : Nat
  proofEvery : Nat
  dirArea : Nat
  yieldLimit : Nat
  devId : Nat
  supervisor : Option Nat
  stagingSize : Nat
  stagingNew : Option Nat
  deriving DecidableEq, Repr

/-- What the device has told the host: events and read answers, newest first. -/
inductive Told where
  | read (port off : Nat) (v : Option Nat)
  | read0 (port off v : Nat)
  | fenced (col sa : Nat)
  | report (ten page : Nat) (malformed : Bool)
  | jobLost (ten : Nat) (job : Word)
  | stackFailed (dies : Nat)
  | faultSignal (ten : Nat)
  | remoteAnswer (peer code v : Nat)
  deriving DecidableEq, Repr

structure State where
  /-- Which group and which of its splits executes. -/
  cur : Nat
  curSplit : Nat
  groups : List Group
  teams : List Team
  columns : Map Column
  mem : Memory
  flash : Memory
  /-- Scratchpads: byte `o` of Rope `r` at key `2^27 * r + o`. -/
  sram : Memory
  /-- Fill-pending lines (R101): space, first line, count. -/
  fill : List (FillSpace × Nat × Nat)
  pend : List Pend
  queries : List Query
  dirs : List Dir
  jobs : List Job
  launches : List Launch
  items : List Item
  joinWaits : List JoinWait
  /-- DONE adds that wait for a page: tenant, launch, page (R271). -/
  dones : List (Nat × Nat × Nat)
  tenants : List Tenant
  rjobs : List RJob
  regions : List Region
  installs : List Install
  wear : Map Nat
  spares : Map (List Nat)
  /-- Granules the staging cache holds and granules being filled (R77). -/
  staged : List Nat
  filling : List Nat
  /-- Cached translations: column, tenant, page (R98). -/
  tlb : List (Nat × Nat × Nat)
  /-- Outstanding not-present reports: tenant and page (R98). -/
  reports : List (Nat × Nat)
  /-- Page edits not yet complete (R97). -/
  edits : List Edit
  /-- The frames of 4 KiB that leaves of the page tables place in the vaults and stacks (R2, R3). -/
  placed : List Placed
  pinned : List (Nat × Nat)
  migrations : List Migration
  posts : List FRec
  /-- The tenants' host fault queues (R282), newest first: tenant, SEQ, undeliverable, record. -/
  hostq : List (Nat × Nat × Bool × FRec)
  links : Map Link
  remote : List RemTx
  debts : List Debt
  /-- Work of spanning launches that peers sent and that peers hold (R276), and accesses of theirs that wait for a
  page. -/
  arrivals : List (Nat × Item)
  away : List (Nat × Item)
  peerWaits : List PeerWait
  /-- Lines of host writes still to be served, and the reads through BAR 0 that the host makes, like `inputs`: port and offset
  (R342, R343; log entry 9). -/
  lines : List LineWrite
  reads : List (Nat × Nat)
  /-- Reads through BAR 2 that wait for the staging cache (R77): port, offset, bytes. -/
  flashReads : List (Nat × Nat × Nat)
  /-- DRAM banks whose activations are throttled (R118). -/
  throttled : List Nat
  /-- Pairings (R94): accessor's tenant, peer, the peer's tenant; and peers with a route (R341). -/
  pairs : List (Nat × Nat × Nat)
  routes : List Nat
  ports : Map Port
  ctlsem : Nat
  gctl : GCtl
  boot : Boot
  biv : Biv
  set : Settings
  told : List Told
  /-- External and scheduled events waiting to happen (log entry 9). -/
  inputs : List Instr
  /-- Cycles, the device clock, and the columns that have issued in this cycle (R260). -/
  tick : Nat
  clock : Nat
  issued : List Nat
  /-- Numbers handed out: jobs, accesses, teams, directories, items. -/
  nextId : Nat
  freeCtr : Nat
  deriving DecidableEq, Repr

/-! ## Defaults and reset -/

def Split.empty : Split := ⟨false, 0, 0, .none, 0, none, none, .none, none⟩
def Group.empty : Group :=
  { team := 0, gid := 0, slot := 0, s0 := .empty, s1 := .empty, lanes := 0, sregs := [], vregs := []
    masks := [], guards := [], qnone := false, cut := false, split := false, mqpart := false
    idemRetry := 0, regionOpen := false, entry := 0, emask := 0, batchOpen := 1, pend30 := []
    unalloc := false, stopped := false, saved := false, seq := none, suspect := none, syncs := [], fences := [], ended := false }
def Barrier.empty : Barrier := ⟨.idle, 0, 0, [], 0, 0, [], 0, [], []⟩
def DirParts.empty : DirParts := ⟨[], [], [], [], [], []⟩
def Team.empty : Team :=
  { uid := 0, ten := 0, launch := 0, id := 0, col := 0, ngroups := 0, vregs := 0, frame := 0
    parent := 0, prio := 0, pushTime := 0, scrBase := 0, heat := 0, risen := false, whole := false, handles := []
    barriers := [], bins := [], requests := [], dest := none, stopped := false, ended := true }
def Launch.empty : Launch :=
  { id := 0, ten := 0, code := 0, const := 0, nteams := 0, scratch := 0, vregs := 0, groups := 0, width := 0
    barriers := 0, prio := 0, span := false, ctl := false, heat := 0, graph := 0, phase := 0
    job := 0, faultq := 0, frame := 0, fstride := 0, done := 0, rqbase := 0, rqcap := 0, bank := []
    next := 0, die := 0, pushes := 0, enq := 0, completed := 0, cancelled := false, complete := true
    bkpt := false }
def Column.empty : Column :=
  { slots := [], accum := [], fp6 := [], slotHeld := [], bankHeld := [], rowOwner := [], ops := []
    fenced := 0, proofs := 0, sinceProof := [], proving := [], suspects := [], band := 0
    replays := 0, base := 0, extra := 0 }
def Link.empty : Link := ⟨false, 0, 0, 0xFF, false, 0, 0, 0, 0, 50, [], [], 0, 0, 0, 0, 0⟩
def Port.empty : Port := ⟨true, 7, 0, 0, 0, 0, 0, 0, false, 0⟩
def Boot.empty : Boot := ⟨0, 0, 0, 0, 0, [], [], [], [], 0, 0, false, []⟩
def Settings.reset : Settings :=
  { floor := 700, aging := 2 ^ 24, depth := 32, budget := 50, proofEvery := 4096
    dirArea := 4 * 2 ^ 30, yieldLimit := 2 ^ 20, devId := 0, supervisor := none
    stagingSize := 128 * 2 ^ 30, stagingNew := none }

/-- The spare units of the four flash stacks as built (R78): how many is the implementation's, numbered past the
addressable units (log entry 16). -/
def sparePool : Map (List Nat) :=
  (List.range 4).map fun k => (k, (List.range (Config.spareUnits k + 1)).map fun u => 2 ^ 22 + 2 ^ 20 * k + u)

/-- The machine right after reset: no tenant, no team, BRSTATE 0 (R346, R352). -/
def State.reset : State :=
  { cur := 0, curSplit := 0, groups := [], teams := [], columns := [], mem := [], flash := []
    sram := [], fill := [], pend := [], queries := [], dirs := [], jobs := [], launches := []
    items := [], joinWaits := [], dones := [], tenants := [], rjobs := [], regions := []
    installs := [], wear := [], spares := sparePool, staged := [], filling := [], tlb := [], reports := []
    edits := [], placed := [], pinned := [], migrations := [], posts := [], hostq := [], links := [], remote := []
    debts := [], arrivals := [], away := [], peerWaits := [], lines := [], reads := [], flashReads := [], throttled := []
    pairs := [], routes := [], ports := [], ctlsem := 0, gctl := ⟨0, 0, 0, 0, 0, 0, 0, 0⟩
    boot := .empty, biv := ⟨0, false, false⟩, set := .reset, told := [], inputs := []
    tick := 0, clock := 0, issued := [], nextId := 1, freeCtr := 0 }

end Sys2Proof.Machine
end

