-- ==== Sys2Proof/Machine/Ops.lean ====
section
/-!
DEFINITION. The named operations over registers, memory and faults that every meaning is built from.
-/
namespace Sys2Proof.Machine

abbrev Out := Host.Outcome State Fault Refusal

/-! ## Who executes -/

def State.grpAt (s : State) (i : Nat) : Group := s.groups.getD i .empty
def State.setGrpAt (s : State) (i : Nat) (g : Group) : State := { s with groups := s.groups.set i g }
def State.grp (s : State) : Group := s.grpAt s.cur
def State.setGrp (s : State) (g : Group) : State := s.setGrpAt s.cur g

def Group.sp (g : Group) (k : Nat) : Split := if k = 0 then g.s0 else g.s1
def Group.setSp (g : Group) (k : Nat) (x : Split) : Group := if k = 0 then { g with s0 := x } else { g with s1 := x }

/-- The split that executes, and its partner (R244). -/
def State.split (s : State) : Split := s.grp.sp s.curSplit
def State.partner (s : State) : Split := s.grp.sp (1 - s.curSplit)
def State.setSplit (s : State) (x : Split) : State := s.setGrp (s.grp.setSp s.curSplit x)

def State.teamOf (s : State) (uid : Nat) : Team := (s.teams.find? (·.uid == uid)).getD .empty
def State.setTeam (s : State) (t : Team) : State :=
  { s with teams := s.teams.map fun x => if x.uid = t.uid then t else x }
def State.team (s : State) : Team := s.teamOf s.grp.team
def State.launchOf (s : State) (ten id : Nat) : Launch :=
  (s.launches.find? fun l => l.ten == ten && l.id == id).getD .empty
def State.setLaunch (s : State) (l : Launch) : State :=
  { s with launches := s.launches.map fun x => if x.ten = l.ten && x.id = l.id then l else x }
def State.launch (s : State) : Launch := s.launchOf s.team.ten s.team.launch
def State.col (s : State) (c : Nat) : Column := Map.get .empty s.columns c
def State.setCol (s : State) (c : Nat) (x : Column) : State := { s with columns := Map.set .empty s.columns c x }
def State.tenantOf? (s : State) (n : Nat) : Option Tenant := s.tenants.find? (·.n == n)
def State.setTenant (s : State) (t : Tenant) : State :=
  { s with tenants := s.tenants.map fun x => if x.n = t.n then t else x }
def State.rjob? (s : State) (ten : Nat) (id : Word) : Option RJob :=
  s.rjobs.find? fun j => j.ten == ten && j.id == id
def State.setRJob (s : State) (j : RJob) : State :=
  { s with rjobs := s.rjobs.map fun x => if x.ten = j.ten && x.id = j.id then j else x }
/-- The generation GEN reads (R305). -/
def State.genOf (s : State) (ten : Nat) (id : Word) : Nat := ((s.rjob? ten id).map (·.gen)).getD 1

/-- The issuing group's width and passes (R242). -/
def State.width (s : State) : Nat := s.launch.width
/-- The register count an instruction's fields and a window are checked against: VREGS of the launch (R265; log entry 57). -/
def State.regCount (s : State) : Nat := s.launch.vregs
def allLanes (w : Nat) : Mask := BitVec.ofNat 128 (2 ^ w - 1)
def State.isSuper (s : State) : Bool := s.set.supervisor == some s.team.ten

/-- A fresh free value (log entry 2). -/
def State.fresh (s : State) : Word × State := (Config.freeValue s.freeCtr, { s with freeCtr := s.freeCtr + 1 })
def State.newId (s : State) : Nat × State := (s.nextId, { s with nextId := s.nextId + 1 })

/-! ## Registers (R157) -/

def Group.rdS (g : Group) (r : Nat) : Word := Map.get 0 g.sregs r
def Group.wrS (g : Group) (r : Nat) (v : Word) : Group := { g with sregs := Map.set 0 g.sregs r v }
def Group.rdV (g : Group) (r l : Nat) : Lane := Map.get 0 g.vregs (128 * r + l)
def Group.wrV (g : Group) (r l : Nat) (v : Lane) : Group := { g with vregs := Map.set 0 g.vregs (128 * r + l) v }
def Group.rdV64 (g : Group) (r l : Nat) : Word := g.rdV (r + 1) l ++ g.rdV r l
def Group.wrV64 (g : Group) (r l : Nat) (v : Word) : Group :=
  (g.wrV r l (v.setWidth 32)).wrV (r + 1) l (v.extractLsb' 32 32)

def State.rdS (s : State) (r : Nat) : Word := s.grp.rdS r
def State.wrS (s : State) (r : Nat) (v : Word) : State := s.setGrp (s.grp.wrS r v)

/-- M0 is the executing split's active mask (R36, R157). -/
def State.rdM (s : State) (r : Nat) : Mask := if r = 0 then s.split.m0 else Map.get 0 s.grp.masks r
/-- Bits at and above the width are discarded (R157). -/
def State.wrM (s : State) (r : Nat) (v : Mask) : State :=
  let g := s.grp
  s.setGrp { g with masks := Map.set 0 g.masks r (v &&& allLanes s.width) }
/-- The effective lanes M0 ∩ M(MSK) (R31). -/
def State.eff (s : State) (msk : Nat) : Mask := s.split.m0 &&& (if msk = 0 then s.split.m0 else s.rdM msk)

/-- The lanes of a mask in increasing order, below `w`. -/
def lanesOf (m : Mask) (w : Nat) : List Nat := (List.range w).filter fun l => m.getLsbD l
def State.effLanes (s : State) (msk : Nat) : List Nat := lanesOf (s.eff msk) s.width

/-- The Rope and the die of a column (R2). -/
def ropeOf (col : Nat) : Nat := col / 4
def dieOf (col : Nat) : Nat := col / 64

/-! ## Agents and scopes (R224) -/

/-- Who makes an access: a split of a group, an engine job of a group, or a host or peer. -/
inductive Agent where
  | split (grp : Nat)
  | job (grp : Nat)
  | outside
  deriving DecidableEq, Repr

/-- Two agents of this module lie in one instance of a scope, by the groups they act for and where those stand now. -/
def State.together (s : State) (scope g h : Nat) : Bool :=
  let t := s.teamOf (s.grpAt g).team
  let u := s.teamOf (s.grpAt h).team
  match scope with
  | 0 => g == h
  | 1 => t.uid == u.uid
  | 2 => ropeOf t.col == ropeOf u.col
  | 3 => dieOf t.col == dieOf u.col
  | _ => true

/-- Agents `a` and `b` lie in one instance of a scope (R224): a group's instance holds its splits alone, hosts and
peers lie in the system's. -/
def State.inInstance (s : State) (scope : Nat) (a b : Agent) : Bool :=
  match a, b with
  | .split g, .split h => s.together scope g h
  | .split g, .job h => scope != 0 && s.together scope g h
  | .job g, .split h => scope != 0 && s.together scope g h
  | .job g, .job h => scope != 0 && s.together scope g h
  | _, _ => 5 ≤ scope

/-- An access of group `gi` numbered below `n` is still under way. -/
def State.busyBefore (s : State) (gi n : Nat) : Bool :=
  s.pend.any (fun p => p.grp == gi && p.id < n) || s.queries.any fun q => q.grp == gi && q.id < n

/-! ## Places in memory -/

/-- Spaces told apart by number, attributes aside; footprints (R154) and the same-location edge use it. -/
def Sp.key : Sp → Nat
  | .mem _ _ => 0
  | .flash => 1
  | .win => 2
  | .ctl => 3
  | .sram r => 4 + r
  | .remote p => 4096 + p

def Loc.plus (l : Loc) (k : Nat) : Loc := { l with a := l.a + k }
def Loc.same (x y : Loc) : Bool := x.sp.key == y.sp.key && x.a == y.a
def Loc.overlaps (x : Loc) (n : Nat) (y : Loc) (m : Nat) : Bool :=
  x.sp.key == y.sp.key && x.a < y.a + m && y.a < x.a + n

/-- Bytes a job's counter has been told of are still to land (R144). -/
def Job.ahead (j : Job) : Bool := match j.st with
  | .landing ps => ps.any (·.counted)
  | _ => false
/-- What a release covers is still under way. -/
def State.owing (s : State) (d : Debt) : Bool := match d.job with
  | some id => s.jobs.any (fun j => j.id == id && j.ahead) || s.remote.any fun x => x.who == .piece id 0
  | none => s.busyBefore d.grp d.upTo
def Debt.agent (d : Debt) : Agent := if d.job.isSome then .job d.grp else .split d.grp

/-- A read by `a` at a scope observes a release whose earlier accesses are still under way, both in each other's
instance: it waits for them (R229). -/
def State.owes (s : State) (a : Agent) (scope : Nat) (l : Loc) (n : Nat) : Bool :=
  s.debts.any fun d => d.loc.overlaps d.n l n && s.owing d && s.inInstance d.scope d.agent a && s.inInstance scope a d.agent

def State.isPending (s : State) (sp : FillSpace) (line : Nat) : Bool :=
  s.fill.any fun (p, b, n) => p == sp && b ≤ line && line < b + n

/-- Takes `k` lines from `line` out of the fill-pending lines. -/
def dropLines (sp : FillSpace) (line k : Nat) : List (FillSpace × Nat × Nat) → List (FillSpace × Nat × Nat)
  | [] => []
  | (p, b, n) :: r =>
    if p = sp ∧ b < line + k ∧ line < b + n then
      (if b < line then [(p, b, line - b)] else []) ++
        (if line + k < b + n then [(p, line + k, b + n - line - k)] else []) ++ dropLines sp line k r
    else (p, b, n) :: dropLines sp line k r
def dropLine (sp : FillSpace) (line : Nat) : List (FillSpace × Nat × Nat) → List (FillSpace × Nat × Nat) := dropLines sp line 1

/-- Fields of a window address (R91). -/
def winCol (a : Nat) : Nat := a / 2 ^ 51 % 512
def winArea (a : Nat) : Nat := a / 2 ^ 48 % 8
def winSlot (a : Nat) : Nat := a / 2 ^ 43 % 32

/-- The resident group in a slot of a column (R92, R296). -/
def State.residentAt? (s : State) (col slot : Nat) : Option Nat :=
  (List.range s.groups.length).find? fun i =>
    let g := s.grpAt i
    let t := s.teamOf g.team
    !g.ended && !t.ended && !t.stopped && t.col == col && g.slot == slot
/-- The group whose registers a window access that has passed its check reaches: the resident one, or the last that was there;
its slot goes to no other while the access is under way (R92; log entry 80). -/
def State.groupAt? (s : State) (col slot : Nat) : Option Nat :=
  (s.residentAt? col slot).orElse fun _ => (List.range s.groups.length).reverse.find? fun i =>
    (s.grpAt i).slot == slot && (s.teamOf (s.grpAt i).team).col == col

def byteOf {n : Nat} (v : BitVec n) (k : Nat) : Byte := v.extractLsb' (8 * k) 8
def setByte {n : Nat} (v : BitVec n) (k : Nat) (b : Byte) : BitVec n :=
  (v &&& ~~~((BitVec.setWidth n 0xFF#8) <<< (8 * k))) ||| ((BitVec.setWidth n b) <<< (8 * k))

/-- The pattern of an unallocated bank (R216). -/
def unallocByte (a : Nat) : Byte := byteOf 0x7FC00001#32 (a % 4)

def State.bankFree (s : State) (c b : Nat) : Bool := Map.get 0 (s.col c).bankHeld b == 0

def State.rdWin (s : State) (a : Nat) : Byte :=
  let c := winCol a
  match winArea a with
  | 0 => match s.groupAt? c (winSlot a) with
    | some i => byteOf ((s.grpAt i).rdV (a / 2 ^ 35 % 256) (a / 4 % 128)) (a % 4)
    | none => 0
  | 1 => match s.groupAt? c (winSlot a) with
    | some i => byteOf ((s.grpAt i).rdS (a / 2 ^ 35 % 64)) (a % 8)
    | none => 0
  | 2 => Memory.rd (s.col c).slots (a % 2 ^ 18)
  | _ => if s.bankFree c (a % 2 ^ 19 / 8192) then unallocByte a else Memory.rd (s.col c).accum (a % 2 ^ 19)

def State.wrWin (s : State) (a : Nat) (b : Byte) : State :=
  let c := winCol a
  match winArea a with
  | 0 => match s.groupAt? c (winSlot a) with
    | some i =>
      let g := s.grpAt i
      let r := a / 2 ^ 35 % 256
      let l := a / 4 % 128
      s.setGrpAt i (g.wrV r l (setByte (g.rdV r l) (a % 4) b))
    | none => s
  | 1 => match s.groupAt? c (winSlot a) with
    | some i =>
      let g := s.grpAt i
      let r := a / 2 ^ 35 % 64
      s.setGrpAt i (g.wrS r (setByte (g.rdS r) (a % 8) b))
    | none => s
  | 2 => s.setCol c { s.col c with slots := Memory.wr (s.col c).slots (a % 2 ^ 18) b }
  | _ => s.setCol c { s.col c with accum := Memory.wr (s.col c).accum (a % 2 ^ 19) b }

/-- The bytes of one 64-byte line set to zero. -/
def zeroLine (m : Memory) (line : Nat) : Memory := Memory.wrN m (64 * line) 64 0

/-- Reads one byte; a fill-pending line reads as zeros (R101). -/
def State.rdB (s : State) (l : Loc) : Byte :=
  match l.sp with
  | .mem _ _ => if s.isPending .dram (l.a / 64) then 0 else Memory.rd s.mem l.a
  | .flash => Memory.rd s.flash l.a
  | .sram r =>
    let a := 2 ^ 27 * r + l.a
    if s.isPending .sram (a / 64) then 0 else Memory.rd s.sram a
  | .win => s.rdWin l.a
  | .remote _ => 0
  | .ctl => 0

/-- Writes one byte; a write to a fill-pending line merges into a zero line and clears it (R101).
Flash is written by installs alone (R78). -/
def State.wrB (s : State) (l : Loc) (b : Byte) : State :=
  match l.sp with
  | .mem _ _ =>
    if s.isPending .dram (l.a / 64) then
      { s with fill := dropLine .dram (l.a / 64) s.fill, mem := Memory.wr (zeroLine s.mem (l.a / 64)) l.a b }
    else { s with mem := Memory.wr s.mem l.a b }
  | .flash => s
  | .sram r =>
    let a := 2 ^ 27 * r + l.a
    if s.isPending .sram (a / 64) then
      { s with fill := dropLine .sram (a / 64) s.fill, sram := Memory.wr (zeroLine s.sram (a / 64)) a b }
    else { s with sram := Memory.wr s.sram a b }
  | .win => s.wrWin l.a b
  | .remote _ => s
  | .ctl => s

/-- `n` bytes as a little-endian number (R16). -/
def State.rdN (s : State) (l : Loc) : Nat → Nat
  | 0 => 0
  | n + 1 => (s.rdB l).toNat + 256 * s.rdN (l.plus 1) n

def State.wrN (s : State) (l : Loc) : Nat → Nat → State
  | 0, _ => s
  | n + 1, v => (s.wrB l (.ofNat 8 v)).wrN (l.plus 1) n (v / 256)

/-! ## The undo log (R310, R314) -/

def RJob.logLine (j : RJob) (line old : Nat) : RJob :=
  if j.undo.any (fun u => u.gen == j.gen && u.line == line) then j
  else if j.undo.length < j.undoCap then { j with undo := ⟨j.gen, line, old⟩ :: j.undo }
  else { j with norb := true, want := j.want || j.progress.isNone }

/-- A write by an agent of a job: a durable line's first write in a generation is logged with it. -/
def State.jobWrite (s : State) (ten : Nat) (job : Word) (l : Loc) (n v : Nat) : State :=
  match l.sp, s.rjob? ten job with
  | .mem ix true, some j =>
    if j.hasArea then
      let line := l.a / 64
      (s.setRJob (j.logLine line (s.rdN ⟨.mem ix true, 64 * line⟩ 64))).wrN l n v
    else s.wrN l n v
  | _, _ => s.wrN l n v

/-! ## Page tables (R95, R96) -/

def pte (e : Nat) (lo n : Nat) : Nat := e / 2 ^ lo % 2 ^ n
def pteV (e : Nat) : Bool := pte e 63 1 == 1
def pteSize (e : Nat) : Nat := pte e 60 3
def pteTen (e : Nat) : Nat := pte e 55 5
def ptePlc (e : Nat) : Nat := pte e 53 2
def pteTgt (e : Nat) : Nat := pte e 44 9
def pteFrame (e : Nat) : Nat := pte e 12 32
def pteC (e : Nat) : Bool := pte e 11 1 == 1
def pteRO (e : Nat) : Bool := pte e 10 1 == 1
def pteX (e : Nat) : Bool := pte e 9 1 == 1
def pteIX (e : Nat) : Bool := pte e 8 1 == 1
def pteD (e : Nat) : Bool := pte e 7 1 == 1
def pteNI (e : Nat) : Bool := pte e 6 1 == 1
def pteF (e : Nat) : Bool := pte e 5 1 == 1

/-- Page size of a SIZE code, in 4 KiB units, and the level its leaf stands at. -/
def pageUnits : Nat → Nat
  | 0 => 1
  | 1 => 16
  | 2 => 512
  | 3 => 8192
  | 4 => 262144
  | _ => 4194304
def pageLevel (size : Nat) : Nat := if size < 2 then 4 else if size < 4 then 3 else 2

/-- What R96 asks of every valid entry, pointers too. -/
def entryOk (e : Nat) : Bool :=
  ptePlc e != 3 && (pteNI e == (ptePlc e == 2)) && (!pteIX e || (pteNI e && !pteF e)) &&
    (!pteD e || (!pteF e && ptePlc e != 1)) && (!pteF e || ptePlc e == 0)

/-- And of a leaf: its frame is aligned to the page size. -/
def leafOk (e : Nat) : Bool := pteFrame e % pageUnits (pteSize e) == 0 && entryOk e

inductive Walk where
  | leaf (e : Nat)
  | absent
  | malformed
  deriving DecidableEq, Repr

def State.rdPte (s : State) (tbl idx : Nat) : Nat := s.rdN ⟨.mem false false, tbl + 8 * idx⟩ 8

/-- The 16 replicas of a 64 KiB, 32 MiB or 16 GiB leaf are alike (R96). -/
def State.replicasOk (s : State) (tbl idx e : Nat) : Bool :=
  pteSize e % 2 == 0 || (List.range 16).all fun k => s.rdPte tbl (idx / 16 * 16 + k) == e

/-- Walks from a table with `fuel` levels left. A pointer (SIZE 7) that stands at level 4 leads to no table: R96
does not list it, and the model calls it malformed (log entry 54). -/
def State.walkFrom (s : State) (va : Nat) : Nat → Nat → Walk
  | 0, _ => .malformed
  | fuel + 1, tbl =>
    let level := 4 - fuel
    let idx := va / 2 ^ (48 - 9 * level) % 512
    let e := s.rdPte tbl idx
    if !pteV e then .absent
    else if pteSize e = 7 then (if entryOk e then s.walkFrom va fuel (4096 * pteFrame e) else .malformed)
    else if pteSize e = 6 || pageLevel (pteSize e) != level || !leafOk e || !s.replicasOk tbl idx e then .malformed
    else .leaf e

def State.walk (s : State) (ten va : Nat) : Walk :=
  match s.tenantOf? ten with
  | some t => s.walkFrom va 4 t.root
  | none => .absent

/-- The place of a virtual address under its leaf. The manual gives no physical map: here all DRAM
is one space of bytes by FRAME alone, so one FRAME under two placements is the same bytes, any FRAME may stand in any vault or
stack, and a frame beyond the module's DRAM or flash is ordinary memory that reads zero until written (log entry 55). -/
def leafLoc (e va : Nat) : Loc :=
  let a := 4096 * pteFrame e + va % (4096 * pageUnits (pteSize e))
  if pteF e then ⟨.flash, a⟩ else ⟨.mem (pteIX e) (pteD e), a⟩

/-! ## Address checks (R87 to R94, R187) -/

/-- The use an access makes of its bytes, with the access code of R284. -/
inductive Use where
  | read
  | write
  | atomic
  | fetch
  | engRead
  | engWrite
  deriving DecidableEq, Repr

def Use.code : Use → Nat
  | .read => 0
  | .fetch => 0
  | .write => 1
  | .atomic => 2
  | .engRead => 3
  | .engWrite => 3
def Use.writes : Use → Bool
  | .write => true
  | .atomic => true
  | .engWrite => true
  | _ => false

/-- A check's outcome: a value, a fault, or a page the host must answer for (R98). -/
inductive Chk (α : Type) where
  | ok (v : α)
  | flt (f : Flt)
  | wait (ten page : Nat) (malformed : Bool) (f : Flt)
  deriving Repr

def Chk.bind {α β : Type} (x : Chk α) (k : α → Chk β) : Chk β :=
  match x with
  | .ok v => k v
  | .flt f => .flt f
  | .wait t p m f => .wait t p m f

def accFlt (code : Nat) (u : Use) (addr : Nat) : Flt := { code, addr := .ofNat 64 addr, info32 := u.code }

/-- Steps 4 to 6 of R187 on a generic virtual address. A report speaks of the 4 KiB page of the address: where no leaf
gives a size the manual does not say which page is meant, so one larger page can have several (log entry 56). -/
def State.translate (s : State) (ten va addr : Nat) (u : Use) (roPath : Bool) : Chk Loc :=
  match s.walk ten va with
  | .absent => .wait ten (va / 4096) false (accFlt 0x10 u addr)
  | .malformed => .wait ten (va / 4096) true (accFlt 0x10 u addr)
  | .leaf e =>
    if pteTen e != ten || (u == .fetch && !pteX e) then .flt (accFlt 0x11 u addr)
    else if u.writes && (roPath || pteRO e || pteF e) then .flt (accFlt 0x14 u addr)
    else .ok (leafLoc e va)

/-- Every bit of a window address that R91 does not assign is zero, and the area exists. -/
def winLayout (a : Nat) : Bool :=
  match winArea a with
  | 0 => a / 2 ^ 9 % 2 ^ 26 == 0
  | 1 => a / 2 ^ 3 % 2 ^ 32 == 0 && a / 2 ^ 41 % 4 == 0
  | 2 => a / 2 ^ 18 % 2 ^ 30 == 0
  | 3 => a / 2 ^ 19 % 2 ^ 29 == 0
  | _ => false

/-- The bytes of the register, slot or tile a window address lies in (R91). -/
def winUnit (a : Nat) : Nat :=
  match winArea a with
  | 0 => 512
  | 1 => 8
  | _ => 1024

/-- R92: 0 when the access succeeds, else the fault code. -/
def State.winFault (s : State) (ten a n : Nat) (wr : Bool) : Nat :=
  let c := winCol a
  match winArea a with
  | 0 => match s.residentAt? c (winSlot a) with
    | none => 0x11
    | some i =>
      let t := s.teamOf (s.grpAt i).team
      if t.ten != ten || (s.launchOf t.ten t.launch).vregs ≤ a / 2 ^ 35 % 256 || (s.launchOf t.ten t.launch).width * 4 < a % 512 + n then 0x11 else 0
  | 1 => match s.residentAt? c (winSlot a) with
    | none => 0x11
    | some i => if (s.teamOf (s.grpAt i).team).ten != ten then 0x11 else 0
  | 2 =>
    let h := Map.get 0 (s.col c).slotHeld (a / 1024 % 256)
    if h = 0 then 0x21 else if (s.teamOf (h - 1)).ten != ten then 0x11 else 0
  | _ =>
    let h := Map.get 0 (s.col c).bankHeld (a % 2 ^ 19 / 8192)
    if h = 0 then (if wr then 0x23 else 0) else if (s.teamOf (h - 1)).ten != ten then 0x11 else 0

/-- A window's fault (R92, R284): a slot or tile nobody holds is named by its number, without an address. -/
def winFlt (code : Nat) (u : Use) (a : Nat) : Flt :=
  if code = 0x21 then { code, info32 := a / 1024 % 256 }
  else if code = 0x23 then { code, info32 := a / 1024 % 512 }
  else accFlt code u a

/-- The checks of R187 on `n` bytes at `addr`, for team `t`: the place of the first byte.
The bytes lie in one page, or the caller cuts them at lines. -/
def State.access (s : State) (t : Team) (addr : Word) (n align : Nat) (u : Use) : Chk Loc :=
  let a := addr.toNat
  let low := a % 2 ^ 60
  let bad (code : Nat) : Chk Loc := .flt (accFlt code u a)
  match a / 2 ^ 60 with
  | 0 | 1 | 2 =>
    if low / 2 ^ 48 != 0 then bad 0x12
    else if a % align != 0 then bad 0x13
    else s.translate t.ten low a u (a / 2 ^ 60 == 2)
  | 3 =>
    let len := (s.launchOf t.ten t.launch).scratch
    if low / 2 ^ 27 != 0 then bad 0x12
    else if a % align != 0 then bad 0x13
    else if low < t.scrBase || t.scrBase + len < low + n then bad 0x11
    else .ok ⟨.sram (ropeOf t.col), low⟩
  | 4 =>
    if !winLayout low || u == .atomic then bad 0x12
    else if a % align != 0 || winUnit low < low % winUnit low + n then bad 0x13
    else match s.winFault t.ten low n u.writes with
      | 0 => .ok ⟨.win, low⟩
      | c => .flt (winFlt c u a)
  | 5 =>
    let p := low / 2 ^ 52
    if low / 2 ^ 48 % 16 != 0 then bad 0x12
    else if a % align != 0 then bad 0x13
    else match s.pairs.find? fun x => x.1 == t.ten && x.2.1 == p with
      | none => bad 0x11
      | some (_, _, ten) =>
        if p = s.set.devId then s.translate ten (low % 2 ^ 48) a u false
        else if !s.routes.contains p then bad 0x11
        else match Config.peerFault p (low % 2 ^ 48) u.code with
          | 0 => .ok ⟨.remote p, low % 2 ^ 48⟩
          | c => bad c
  | 15 =>
    if s.set.supervisor != some t.ten || u == .engRead || u == .engWrite || u == .fetch then bad 0x11
    else if a % align != 0 then bad 0x13
    else .ok ⟨.ctl, low⟩
  | _ => bad 0x12

/-- The runs of a byte range, cut at 64-byte lines (and at the 8 bytes of a scalar register's window)
so that each lies whole in one page, line and register. -/
def State.runsFrom (s : State) (t : Team) (u : Use) : Nat → Nat → Nat → Chk (List Run)
  | 0, _, _ => .ok []
  | fuel + 1, a, n =>
    if n = 0 then .ok []
    else if 2 ^ 64 ≤ a then .flt (accFlt 0x12 u a)
    else
      let k := min n (if a / 2 ^ 60 == 4 && winArea (a % 2 ^ 60) == 1 then 8 - a % 8 else 64 - a % 64)
      (s.access t (.ofNat 64 a) k 1 u).bind fun l =>
        (s.runsFrom t u fuel (a + k) (n - k)).bind fun r => .ok (⟨l, k⟩ :: r)

def State.runs (s : State) (t : Team) (a n : Nat) (u : Use) : Chk (List Run) :=
  s.runsFrom t u (n / 8 + 2) a n

/-! ## Images and the directories named (R107, R109, R294) -/

/-- Images of suspended teams and of the checkpoints kept or being written. -/
def Item.image? (i : Item) : Option Image := match i.work with
  | .image m => some m
  | .record .. => none
def Item.mapImage (k : Image → Image) (i : Item) : Item := match i.work with
  | .image m => { i with work := .image (k m) }
  | .record .. => i
def Ckpt.allImages (c : Ckpt) : List Image := c.images ++ c.items.filterMap Item.image?
def Ckpt.mapImages (k : Image → Image) (c : Ckpt) : Ckpt := { c with images := c.images.map k, items := c.items.map (Item.mapImage k) }
def State.images (s : State) : List Image :=
  (s.items ++ s.away.map (·.2)).filterMap Item.image? ++ s.rjobs.flatMap fun j => (j.progress.toList ++ j.sealed).flatMap Ckpt.allImages
def State.mapImages (s : State) (k : Image → Image) : State :=
  { s with
    items := s.items.map (Item.mapImage k)
    away := s.away.map fun p => (p.1, p.2.mapImage k)
    rjobs := s.rjobs.map fun j => { j with progress := j.progress.map (Ckpt.mapImages k), sealed := j.sealed.map (Ckpt.mapImages k) } }

def Team.names (t : Team) (dir : Nat) : Bool := t.handles.any fun h => h.kind == .bits dir

/-- Directories no handle, of a team or of an image, and no query names any more return their space (R107, R109). -/
def State.gcDirs (s : State) : State :=
  { s with dirs := s.dirs.filter fun d =>
      s.teams.any (fun t => !t.ended && t.names d.id) || s.images.any (fun i => i.team.names d.id) || s.queries.any (·.dir == d.id) }

/-! ## Taking a fault, waiting for an answer, and retiring -/

/-- The record of a fault of a split (R283, R284). -/
def State.recordOf (s : State) (gi k : Nat) (pc : Word) (taken : Bool) (f : Flt) : FRec :=
  let g := s.grpAt gi
  let t := s.teamOf g.team
  { ten := t.ten, launch := t.launch, team := t.id, grp := some gi, gslot := g.slot, gid := g.gid, col := t.col
    flags := k + (if g.stopped then (if g.saved then 6 else 2) else 0) + (if taken then 8 else 0), pc := pc
    gen := s.genOf t.ten (s.launchOf t.ten t.launch).job, flt := f }

/-- An idempotent region's restart (R302). -/
def Group.restart (g : Group) : Group :=
  { g with
    idemRetry := g.idemRetry + 1
    s0 := { g.s0 with live := true, m0 := g.emask, pc := g.entry, wait := .none, fault := none, named := none, resume := .none, denied := none }
    s1 := { g.s1 with live := false, m0 := 0, wait := .none, fault := none, named := none, resume := .none, denied := none } }

/-- A matrix operation with no register result to come: a drain is none, a claim still zeroes. -/
def MxOp.unread (o : MxOp) : Option MxOp := match o.kind with
  | .drain .. => none
  | .claim ss bs _ => some { o with kind := .claim ss bs none }
  | _ => some o

/-- The register results a group still awaits are dropped; its stores and atomics still reach memory (R302). -/
def State.dropResults (s : State) (gi : Nat) : State :=
  ({ s with
    pend := s.pend.filterMap fun p =>
      if p.grp != gi then some p
      else match p.acc with
        | .load _ => none
        | _ => some { p with dst := .none }
    queries := s.queries.filter (·.grp != gi)
    columns := s.columns.map fun c => (c.1, { c.2 with ops := c.2.ops.filterMap fun o => if o.grp = gi then o.unread else some o }) } : State).gcDirs

/-- The group stops: the split's place, the record for FAULT_RECORD_POST (R280, R282). -/
def State.stopAt (s : State) (gi k : Nat) (pc : Word) (taken : Bool) (f : Flt) : State :=
  let g := s.grpAt gi
  let r := s.recordOf gi k pc taken f
  let s := s.setGrpAt gi { g.setSp k { g.sp k with fault := some (pc, f.code) } with
    stopped := true, saved := g.stopped && g.saved, seq := none }
  { s with posts := s.posts ++ [r] }

/-- TAKING A FAULT, in split `k` of group `gi` at the instruction at `pc` (R278 to R284, R302).
The whole group stops and a record is queued; inside an open idempotent region a 0x30 restarts the
group instead, and after three restarts it is 0x31. -/
def State.takeFault (s : State) (gi k : Nat) (pc : Word) (taken : Bool) (f : Flt) : State :=
  let g := s.grpAt gi
  if f.code = 0x30 && g.regionOpen then
    let s := s.dropResults gi
    if g.idemRetry < 3 then s.setGrpAt gi g.restart
    else (s.setGrpAt gi { g with regionOpen := false }).stopAt gi k pc taken { f with code := 0x31, info32 := 3 }
  else s.stopAt gi k pc taken f

/-- A fault of the executing split at its own instruction. -/
def State.fault (s : State) (f : Flt) : State := s.takeFault s.cur s.curSplit s.split.pc false f

/-- Posts a not-present report, or joins the one outstanding (R98). -/
def State.report (s : State) (ten page : Nat) (malformed : Bool) : State :=
  if s.reports.contains (ten, page) then s
  else { s with reports := (ten, page) :: s.reports, told := .report ten page malformed :: s.told }

/-- The executing split waits for the host's answer, its group's issue suspended (R98, R278). -/
def State.awaitAs (s : State) (ten page : Nat) (malformed : Bool) (f : Flt) (defer : Bool) : State :=
  let s := s.report ten page malformed
  s.setSplit { s.split with wait := .answer ten page f defer }
def State.await (s : State) (ten page : Nat) (malformed : Bool) (f : Flt) : State := s.awaitAs ten page malformed f false

/-- The fetch of the executing split waits for the host's answer: it has issued nothing (R88, R98). -/
def State.awaitFetch (s : State) (ten page : Nat) (malformed : Bool) (f : Flt) : State :=
  let s := s.report ten page malformed
  s.setSplit { s.split with wait := .fetching ten page f }

/-- Runs `k` on a check's value, or takes its fault, or waits. -/
def State.checked {α : Type} (s : State) (c : Chk α) (k : α → State) : State :=
  match c with
  | .ok v => k v
  | .flt f => s.fault f
  | .wait t p m f => s.await t p m f

/-- The executing split goes on at `pc`. -/
def State.goto (s : State) (pc : Word) : State :=
  s.setSplit { s.split with pc := pc, wait := .none, since := s.tick + 1 }
/-- The executing split goes on at the next instruction (R27). -/
def State.retire (s : State) (i : Instr) : State := s.goto (s.split.pc + .ofNat 64 (8 * i.words))
def State.next (s : State) (i : Instr) : Word := s.split.pc + .ofNat 64 (8 * i.words)
/-- The executing split stays at its instruction, waiting. -/
def State.waitAt (s : State) (w : Wait) : State := s.setSplit { s.split with wait := w }

/-! ## Issue checks (R355) -/

def fieldFault (k : Nat) : Flt := { code := 0x03, info32 := k }

/-- R355.1: the first field that names a register or barrier at or above the declared count. -/
def State.countFault (s : State) (i : Instr) (f : Fields) : Option Nat :=
  let g := i.form
  let beyond (rs : List Nat) : Bool := rs.any (s.regCount ≤ ·)
  let src (k : SrcForm) (x : Src) : Bool := beyond (k.vregs x) || ((k.barrier? x).any (s.launch.barriers ≤ ·))
  if beyond (g.dst.vregs f.dst.toNat) then some 0
  else if src g.a f.a then some 1
  else if src g.b f.b then some 2
  else if src g.c f.c then some 3
  else none

/-! ## Links to peers (R334, R338) -/

def State.link (s : State) (n : Nat) : Link := Map.get .empty s.links n
def State.setLink (s : State) (n : Nat) (l : Link) : State := { s with links := Map.set .empty s.links n l }

/-- A link whose far end is the peer is up. -/
def Link.reaches (l : Link) (peer : Nat) : Bool := l.known && l.peer == peer && l.active != 0 && !l.training
def State.reaches (s : State) (peer : Nat) : Bool := (List.range 128).any fun n => (s.link n).reaches peer

/-- A transaction to a peer; with no link up it waits as a resent one does (R337). -/
def State.sendRemote (s : State) (x : RemTx) : State :=
  { s with remote := s.remote ++ [{ x with resent := !s.reaches x.peer, id := s.nextId }], nextId := s.nextId + 1 }

/-- A region-closing instruction closes the group's open region (R301). -/
def State.closeRegion (s : State) : State := s.setGrp { s.grp with regionOpen := false }

end Sys2Proof.Machine
end

