-- ==== Sys2Proof/Machine/Flags.lean ====
section
/-!
DEFINITION. The status words the machine computes: GSTAT, MQSTAT, batches, REFCOST, CYCLE (R45, R46, R72, R141, R217).
-/
namespace Sys2Proof.Machine

/-- GSTAT (R46). -/
def Group.gstat (g : Group) : Word :=
  .ofNat 64 (g.qnone.toNat + 2 * g.cut.toNat + 4 * g.split.toNat + 8 * g.mqpart.toNat + 16 * (g.idemRetry % 4))

/-- MQSTAT (R217). -/
def State.mqstat (s : State) : Word :=
  .ofNat 64 (s.grp.unalloc.toNat + 4096 * (s.col s.team.col).fenced.toNat)

/-- Matrix operations that join a batch: quarters and AZERO do, a drain's results and a claim return to registers (R202, R206). -/
def MxKind.batched : MxKind → Bool
  | .quarter .. => true
  | .zero .. => true
  | .drain .. => false
  | .claim .. => false

/-- The batches of group `gi` with a command not yet complete (R140, R141). -/
def State.openWork (s : State) (gi : Nat) : List Nat :=
  ((s.jobs.filter (·.grp == gi)).map (·.batch)) ++
    ((s.installs.filter (·.grp == gi)).map (·.batch)) ++
    (((s.col (s.teamOf (s.grpAt gi).team).col).ops.filter fun o => o.grp == gi && o.kind.batched).map (·.batch))

/-- BATCHDONE without its modulus: the largest n with batches 1 to n complete (R141). -/
def State.batchDone (s : State) (gi : Nat) : Nat :=
  (s.openWork gi).foldl min (s.grpAt gi).batchOpen - 1

def mod32 (n : Nat) : Nat := n % 2 ^ 32

/-- A target naming the open batch or a later one is taken as BATCHOPEN − 1 (R141). -/
def batchTarget (n bopen : Nat) : Nat :=
  if (mod32 n + 2 ^ 32 - mod32 bopen) % 2 ^ 32 < 2 ^ 31 then bopen - 1 else mod32 n

/-- Whether a target is reached, in serial order modulo 2³² (R141). -/
def State.reached (s : State) (gi n : Nat) : Bool :=
  (mod32 (s.batchDone gi) + 2 ^ 32 - mod32 (batchTarget n (s.grpAt gi).batchOpen)) % 2 ^ 32 < 2 ^ 31

/-- A deferred 0x30 of a batch that target `n` covers (R132, R143). -/
def covers (n : Nat) (g : Group) (b : Nat) : Bool :=
  (mod32 (batchTarget n g.batchOpen) + 2 ^ 32 - mod32 b) % 2 ^ 32 < 2 ^ 31

/-- Refresh multiplier and share of a band (R69, R72). -/
def refMul : Nat → Nat
  | 0 => 1
  | 1 => 2
  | _ => 4
def refShare : Nat → Nat
  | 0 => 30
  | 1 => 60
  | _ => 120
def heatBase : Nat → Nat
  | 0 => 5
  | 1 => 10
  | 2 => 20
  | _ => 40
def refCost (heat band : Nat) : Nat := heatBase heat * refMul band

/-! ## Bandwidth of a vault (R73) -/

/-- Teams that occupy a column. -/
def State.resident (s : State) (col : Nat) : List Team := s.teams.filter fun t => !t.ended && t.col == col
/-- A vault's usable bandwidth under its resident teams. -/
def State.usableNow (s : State) (col : Nat) : Int :=
  let b := (s.col col).band
  1000 - (refShare b : Int) - (s.resident col).foldl (fun n t => n + (refCost t.heat b : Int)) 0
/-- It lies below the refresh floor. -/
def State.lacking (s : State) (col : Nat) : Bool := s.usableNow col < (s.set.floor : Int)

/-- Charges on a column have changed since `old`: a team whose own has risen, usable bandwidth now being below the floor, is marked,
and keeps its mark while that stays so (R73). -/
def State.charged (s old : State) (col : Nat) : State :=
  let rose (t : Team) : Bool := refCost (old.teamOf t.uid).heat (old.col col).band < refCost t.heat (s.col col).band
  { s with teams := s.teams.map fun t =>
      if t.ended || t.col != col then t else { t with risen := s.lacking col && (rose t || (t.risen && old.lacking col)) } }

/-- CYCLE of a column (R45, R303; log entry 4). -/
def State.cycle (s : State) (c : Nat) : Nat := s.clock + (s.col c).extra - (s.col c).base

/-- 1, 1, 2 or 4 passes (R242). -/
def npass (w : Nat) : Nat := if w ≤ 32 then 1 else w / 32

end Sys2Proof.Machine
end

