-- ==== Sys2Proof/Machine/Operands.lean ====
section
/-!
DEFINITION. Every source form brought to its consumer's width, and the special registers (R33, R35, R45).
-/
namespace Sys2Proof.Machine

/-- A special register by number (R45). -/
def State.special (s : State) (n : Nat) : Word :=
  let t := s.team
  let l := s.launch
  match n with
  | 64 => .ofNat 64 l.width
  | 65 => .ofNat 64 (npass l.width)
  | 66 => .ofNat 64 s.grp.gid
  | 67 => .ofNat 64 t.id
  | 68 => .ofNat 64 l.no
  | 69 => l.graph
  | 70 => .ofNat 64 t.col
  | 71 => .ofNat 64 (dieOf t.col)
  | 72 => .ofNat 64 (ropeOf t.col)
  | 73 => .ofNat 64 s.set.devId
  | 74 => .ofNat 64 t.ten
  | 75 => .ofNat 64 (mod32 s.grp.batchOpen)
  | 76 => .ofNat 64 (mod32 (s.batchDone s.cur))
  | 77 => .ofNat 64 (s.cycle t.col)
  | 78 => s.grp.gstat
  | 79 => s.mqstat
  | 80 => .ofNat 64 (refCost t.heat (s.col t.col).band)
  | 81 => .ofNat 64 (s.genOf t.ten l.job)
  | 82 => .ofNat 64 (3 * 2 ^ 60 + t.scrBase)
  | 83 => .ofNat 64 l.scratch
  | 84 => t.frame
  | 85 => .ofNat 64 l.nteams
  | _ => 0

/-- A scalar value: kind 01 below 64 a register, from 64 a special register (R33). -/
def State.sca (s : State) (n : BitVec 8) : Word := if n.toNat < 64 then s.rdS n.toNat else s.special n.toNat

/-- A source at 64 bits, the same in every lane; a vector register gives its pair at lane `l` (R35). -/
def State.src64 (s : State) (x : Src) (l : Nat) : Word :=
  match x with
  | .reg n => s.grp.rdV64 n.toNat l
  | .sca n => s.sca n
  | .cst k => Map.get 0 s.launch.bank k.toNat
  | .lit v => v.signExtend 64
  | .litWord w => w

/-- A source at 32 bits in lane `l` (R35). -/
def State.src32 (s : State) (x : Src) (l : Nat) : Lane :=
  match x with
  | .reg n => s.grp.rdV n.toNat l
  | .sca n => (s.sca n).setWidth 32
  | .cst k => (Map.get 0 s.launch.bank k.toNat).setWidth 32
  | .lit v => v.signExtend 32
  | .litWord w => w.setWidth 32

/-- A scalar source (kinds 01, 10, 11) at 64 bits. -/
def State.scalarSrc (s : State) (x : Src) : Word := s.src64 x 0

/-- A mask source (R36). -/
def State.maskSrc (s : State) (x : Src) : Mask :=
  match x with
  | .reg n => s.rdM n.toNat
  | _ => 0

/-- The field value of a source. -/
def srcNum : Src → Nat
  | .reg n => n.toNat
  | .sca n => n.toNat
  | .cst k => k.toNat
  | .lit v => v.toNat
  | .litWord _ => 0x80

/-- A signed word offset of a transfer: target = next + 8 × offset (R248). -/
def offsetOf (x : Src) : Word :=
  match x with
  | .lit v => v.signExtend 64
  | .litWord w => w
  | _ => 0

/-- Whether a source reads BATCHDONE (R132). -/
def readsDone : Src → Bool
  | .sca n => n == 76
  | _ => false

/-- The first batch, in order, whose deferred 0x30 a read of BATCHDONE covers (R132). -/
def State.doneFault (s : State) : Option Nat :=
  s.grp.pend30.find? fun b => (mod32 (s.batchDone s.cur) + 2 ^ 32 - mod32 b) % 2 ^ 32 < 2 ^ 31

/-- The deferred 0x30 of batch `b` is consumed and raised (R132); it restarts no region (R302). -/
def State.raise30 (s : State) (b : Nat) : State :=
  let g := s.grp
  (s.setGrp { g with pend30 := g.pend30.filter (· != b) }).stopAt s.cur s.curSplit s.split.pc false { code := 0x30 }

/-- A lane is effective. MMA takes no mask register: its MSK is a quarter mask, and M0 alone counts (R23, R31). -/
def State.anyLane (s : State) (i : Instr) (msk : Nat) : Bool := match i with
  | .mma _ => s.split.m0 != 0
  | _ => s.eff msk != 0

/-- Issues a full form: the register counts of R355, the region it may close (R301), a deferred error
that a read of BATCHDONE raises (R132), unless no lane is effective (R44), then its own effect `k`. An instruction that fails a
check of its own after the counts has closed the region: R301 and R278 leave that open (log entry 69). -/
def State.issue (s : State) (i : Instr) (f : Fields) (k : State → State) : Out :=
  match s.countFault i f with
  | some j => .next (s.fault (fieldFault j))
  | none =>
    let s := if i.closes then s.closeRegion else s
    match (if s.anyLane i f.msk.toNat && (readsDone f.a || readsDone f.b || readsDone f.c) then s.doneFault else none) with
    | some b => .next (s.raise30 b)
    | none => .next (k s)

/-- A scalar result, then the next instruction. -/
def State.retS (s : State) (i : Instr) (r : BitVec 8) (v : Word) : State := (s.wrS r.toNat v).retire i

end Sys2Proof.Machine
end

