-- ==== Sys2Proof/Machine/Scalar.lean ====
section
/-!
DEFINITION. Class 0: the scalar instructions (R48, R162 to R166).
-/
namespace Sys2Proof.Machine

/-- The width of a scalar type: .i64, .i32, .n32, .n64 (R37, R162). -/
def sW (ty : Nat) : Nat := if ty = 0 || ty = 3 then 64 else 32
def sSigned (ty : Nat) : Bool := ty < 2

/-- The low `w` bits of a word as a natural number. -/
def lowN (w : Nat) (v : Word) : Nat := v.toNat % 2 ^ w
/-- A `w`-bit pattern as a two's complement number. -/
def toSigned (w n : Nat) : Int := if n < 2 ^ (w - 1) then n else (n : Int) - (2 ^ w : Nat)
/-- The value of a source cut to the type (R162). -/
def sVal (ty : Nat) (v : Word) : Int :=
  if sSigned ty then toSigned (sW ty) (lowN (sW ty) v) else lowN (sW ty) v

/-- A result extended to 64 bits: sign for .i32, zero for .n32 (R162). -/
def sExt (ty : Nat) (v : Word) : Word :=
  match ty with
  | 1 => (v.setWidth 32).signExtend 64
  | 2 => (v.setWidth 32).setWidth 64
  | _ => v

def sRes (ty : Nat) (r : Int) : Word := sExt ty (.ofInt 64 r)

/-- An integer condition of R38. -/
def intCond (c : Nat) (a b : Int) : Bool :=
  match c with
  | 0 => a == b
  | 1 => a != b
  | 2 => a < b
  | 3 => a ≤ b
  | 4 => a > b
  | _ => a ≥ b

/-- Ones among the low `w` bits, and zeros above the highest of them (R163). -/
def popc (w n : Nat) : Nat := ((List.range w).filter fun k => n.testBit k).length
def clz (w n : Nat) : Nat := if n % 2 ^ w = 0 then w else w - 1 - Nat.log2 (n % 2 ^ w)

/-- A field descriptor (R165): position, and length within `w` bits, 0 for no field. -/
def fieldPos (f : Nat) : Nat := f % 64
def fieldLen (w f : Nat) : Nat :=
  if w ≤ fieldPos f then 0 else min (f / 256 % 128) (w - fieldPos f)
def fieldGet (w : Nat) (sg : Bool) (a f : Nat) : Int :=
  let m := fieldLen w f
  if m = 0 then 0
  else
    let v := a / 2 ^ fieldPos f % 2 ^ m
    if sg then toSigned m v else v
def fieldPut (w d a f : Nat) : Nat :=
  let m := fieldLen w f
  let p := fieldPos f
  d - d / 2 ^ p % 2 ^ m * 2 ^ p + a % 2 ^ m * 2 ^ p

/-- SDIV and SREM, VDIV and VREM (R164): quotient toward zero, 0 for a zero divisor, whose remainder is the dividend. -/
def quotOf (a b : Int) : Int := if b = 0 then 0 else a.tdiv b
def remOf (a b : Int) : Int := if b = 0 then a else a.tmod b

/-- A scalar instruction of one source and of two, by its effect at a type. -/
def exec1 (i : Instr) (f : Fields) (op : Nat → Word → Word) (s : State) : Out :=
  s.issue i f fun s => s.retS i f.dst (op (bits f.mod 0 2) (s.scalarSrc f.a))
def exec2 (i : Instr) (f : Fields) (op : Nat → Word → Word → Word) (s : State) : Out :=
  s.issue i f fun s => s.retS i f.dst (op (bits f.mod 0 2) (s.scalarSrc f.a) (s.scalarSrc f.b))

def sShift (ty : Nat) (b : Word) : Nat := b.toNat % sW ty

def aluSmov (ty : Nat) (a : Word) : Word := sExt ty a
def aluSadd (ty : Nat) (a b : Word) : Word := sExt ty (a + b)
def aluSsub (ty : Nat) (a b : Word) : Word := sExt ty (a - b)
def aluSmul (ty : Nat) (a b : Word) : Word := sExt ty (a * b)
def aluSmulh (ty : Nat) (a b : Word) : Word := sRes ty ((sVal ty a * sVal ty b).fdiv (2 ^ sW ty))
def aluSdiv (ty : Nat) (a b : Word) : Word := sRes ty (quotOf (sVal ty a) (sVal ty b))
def aluSrem (ty : Nat) (a b : Word) : Word := sRes ty (remOf (sVal ty a) (sVal ty b))
def aluSand (ty : Nat) (a b : Word) : Word := sExt ty (a &&& b)
def aluSor (ty : Nat) (a b : Word) : Word := sExt ty (a ||| b)
def aluSxor (ty : Nat) (a b : Word) : Word := sExt ty (a ^^^ b)
def aluSandn (ty : Nat) (a b : Word) : Word := sExt ty (a &&& ~~~b)
def aluSshl (ty : Nat) (a b : Word) : Word := sExt ty (a <<< sShift ty b)
def aluSshr (ty : Nat) (a b : Word) : Word := sExt ty (.ofNat 64 (lowN (sW ty) a >>> sShift ty b))
def aluSsar (ty : Nat) (a b : Word) : Word := sRes ty ((toSigned (sW ty) (lowN (sW ty) a)) >>> sShift ty b)
def aluSmin (ty : Nat) (a b : Word) : Word := if sVal ty a ≤ sVal ty b then sExt ty a else sExt ty b
def aluSmax (ty : Nat) (a b : Word) : Word := if sVal ty a ≤ sVal ty b then sExt ty b else sExt ty a
def aluSpopc (ty : Nat) (a : Word) : Word := .ofNat 64 (popc (sW ty) a.toNat)
def aluSclz (ty : Nat) (a : Word) : Word := .ofNat 64 (clz (sW ty) a.toNat)
def aluSbfe (ty : Nat) (a f : Word) : Word := sRes ty (fieldGet (sW ty) (sSigned ty) (lowN (sW ty) a) f.toNat)
/-- With .i32 or .n32 the low 32 bits of D, its field replaced, are extended as R162 extends a 32-bit result, where there is no
field too; R165 does not say what becomes of D's high half (log entry 73). -/
def aluSbfi (ty : Nat) (d a f : Word) : Word := sExt ty (.ofNat 64 (fieldPut (sW ty) (lowN (sW ty) d) a.toNat f.toNat))

/-- NOP has no effect (R48). -/
def execNop (f : Fields) (s : State) : Out := s.issue (.nop f) f fun s => s.retire (.nop f)

def execSmov (f : Fields) (s : State) : Out := exec1 (.smov f) f aluSmov s

def execSpopc (f : Fields) (s : State) : Out := exec1 (.spopc f) f aluSpopc s

def execSclz (f : Fields) (s : State) : Out := exec1 (.sclz f) f aluSclz s

def execSadd (f : Fields) (s : State) : Out := exec2 (.sadd f) f aluSadd s

def execSsub (f : Fields) (s : State) : Out := exec2 (.ssub f) f aluSsub s

def execSmul (f : Fields) (s : State) : Out := exec2 (.smul f) f aluSmul s

def execSmulh (f : Fields) (s : State) : Out := exec2 (.smulh f) f aluSmulh s

def execSdiv (f : Fields) (s : State) : Out := exec2 (.sdiv f) f aluSdiv s

def execSrem (f : Fields) (s : State) : Out := exec2 (.srem f) f aluSrem s

def execSand (f : Fields) (s : State) : Out := exec2 (.sand f) f aluSand s

def execSor (f : Fields) (s : State) : Out := exec2 (.sor f) f aluSor s

def execSxor (f : Fields) (s : State) : Out := exec2 (.sxor f) f aluSxor s

def execSandn (f : Fields) (s : State) : Out := exec2 (.sandn f) f aluSandn s

def execSshl (f : Fields) (s : State) : Out := exec2 (.sshl f) f aluSshl s

def execSshr (f : Fields) (s : State) : Out := exec2 (.sshr f) f aluSshr s

def execSsar (f : Fields) (s : State) : Out := exec2 (.ssar f) f aluSsar s

def execSmin (f : Fields) (s : State) : Out := exec2 (.smin f) f aluSmin s

def execSmax (f : Fields) (s : State) : Out := exec2 (.smax f) f aluSmax s

def execSbfe (f : Fields) (s : State) : Out := exec2 (.sbfe f) f aluSbfe s

/-- SCMP: 1 if A cond B, else 0 (R163). -/
def execScmp (f : Fields) (s : State) : Out :=
  exec2 (.scmp f) f (fun ty a b => if intCond (bits f.mod 2 4) (sVal ty a) (sVal ty b) then 1 else 0) s

def execSsel (f : Fields) (s : State) : Out :=
  s.issue (.ssel f) f fun s =>
    s.retS (.ssel f) f.dst (if s.scalarSrc f.c ≠ 0 then s.scalarSrc f.a else s.scalarSrc f.b)

def execSbfi (f : Fields) (s : State) : Out :=
  s.issue (.sbfi f) f fun s =>
    s.retS (.sbfi f) f.dst (aluSbfi (bits f.mod 0 2) (s.rdS f.dst.toNat) (s.scalarSrc f.a) (s.scalarSrc f.b))

def execSlea (f : Fields) (s : State) : Out :=
  s.issue (.slea f) f fun s =>
    s.retS (.slea f) f.dst (s.scalarSrc f.a + (s.scalarSrc f.b <<< ((s.scalarSrc f.c).toNat % 64)))

/-- The lane SRDL and SWRL reach (R166). -/
def State.laneSrc (s : State) (x : Src) : Nat := (s.scalarSrc x).toNat % s.width

def execSrdl (f : Fields) (s : State) : Out :=
  s.issue (.srdl f) f fun s =>
    let ty := bits f.mod 0 2
    let r := srcNum f.a
    let k := s.laneSrc f.b
    s.retS (.srdl f) f.dst (if sW ty = 64 then s.grp.rdV64 r k else sExt ty ((s.grp.rdV r k).setWidth 64))

def execSwrl (f : Fields) (s : State) : Out :=
  s.issue (.swrl f) f fun s =>
    let r := f.dst.toNat
    let k := s.laneSrc f.b
    let v := s.scalarSrc f.a
    let g := if sW (bits f.mod 0 2) = 64 then s.grp.wrV64 r k v else s.grp.wrV r k (v.setWidth 32)
    (s.setGrp g).retire (.swrl f)

/-- A value of the group's own state (R166). -/
def State.getState (s : State) (sel : Nat) : Word :=
  if sel = 0 then .ofNat 64 s.grp.slot
  else if sel = 1 then .ofNat 64 (s.team.col % 4)
  else if sel = 2 then .ofNat 64 s.curSplit
  else if sel = 3 then .ofNat 64 (s.grp.s0.live.toNat + s.grp.s1.live.toNat)
  else if 16 ≤ sel ∧ sel < 32 then (s.rdM (sel - 16)).setWidth 64
  else if 32 ≤ sel ∧ sel < 48 then (s.rdM (sel - 32)).extractLsb' 64 64
  else 0

def execSgets (f : Fields) (s : State) : Out :=
  s.issue (.sgets f) f fun s => s.retS (.sgets f) f.dst (s.getState (s.scalarSrc f.a).toNat)

end Sys2Proof.Machine
end

