-- ==== Sys2Proof/Machine/Vector.lean ====
section
/-!
DEFINITION. Class 1, vector integer (R167 to R170) and the lane-cooperative instructions (R172 to R176).
-/
namespace Sys2Proof.Machine

/-- Element width, count and signedness of a vector integer type (R37, R167). -/
def vW (ty : Nat) : Nat := if 6 ≤ ty then 64 else if ty < 2 then 32 else if ty < 4 then 16 else 8
def vN (ty : Nat) : Nat := if 6 ≤ ty || ty < 2 then 1 else if ty < 4 then 2 else 4
def vSg (ty : Nat) : Bool := ty % 2 == 0
def vWide (ty : Nat) : Bool := 6 ≤ ty

/-- A source in lane `l` at the width of the type, as a natural number (R35). -/
def State.vsrc (s : State) (wide : Bool) (x : Src) (l : Nat) : Nat :=
  if wide then (s.src64 x l).toNat else (s.src32 x l).toNat

def Group.wrLane (g : Group) (wide : Bool) (r l v : Nat) : Group :=
  if wide then g.wrV64 r l (.ofNat 64 v) else g.wrV r l (.ofNat 32 v)

/-- Writes lane values to a register or pair. All values were computed before, so every pass reads
before any pass writes (R44). -/
def Group.wrLanes (g : Group) (wide : Bool) (r : Nat) (vs : List (Nat × Nat)) : Group :=
  vs.foldl (fun g p => g.wrLane wide r p.1 p.2) g

def State.wrLanes (s : State) (wide : Bool) (r : Nat) (vs : List (Nat × Nat)) : State :=
  s.setGrp (s.grp.wrLanes wide r vs)

/-- Element `k` of a lane, and the lane put together from its elements. -/
def elem (w v k : Nat) : Nat := v / 2 ^ (w * k) % 2 ^ w
def packed (w n : Nat) (f : Nat → Nat) : Nat :=
  (List.range n).foldl (fun acc k => acc + f k % 2 ^ w * 2 ^ (w * k)) 0

/-- The number an element stands for under the type. -/
def eVal (sg : Bool) (w n : Nat) : Int := if sg then toSigned w n else n
/-- An exact result wrapped to the element, or clamped with .sat (R168, R170). -/
def wrapTo (w : Nat) (r : Int) : Nat := (r % (2 ^ w : Nat)).toNat
def clampTo (sg : Bool) (w : Nat) (r : Int) : Int :=
  if sg then max (-(2 ^ (w - 1) : Nat)) (min r ((2 ^ (w - 1) : Nat) - 1)) else max 0 (min r ((2 ^ w : Nat) - 1))
def fitTo (sat sg : Bool) (w : Nat) (r : Int) : Nat := wrapTo w (if sat then clampTo sg w r else r)

/-- One vector instruction over its effective lanes: `op` gives a lane's new value from the lane number. -/
def State.vexec (s : State) (i : Instr) (f : Fields) (wide : Bool) (op : Nat → Nat) : State :=
  (s.wrLanes wide f.dst.toNat ((s.effLanes f.msk.toNat).map fun l => (l, op l))).retire i

/-- Elementwise instructions of one, two and three sources; `op` takes elements and gives the exact result. -/
def vexec1 (i : Instr) (f : Fields) (op : Bool → Nat → Nat → Int) (s : State) : Out :=
  s.issue i f fun s =>
    let ty := bits f.mod 0 3
    let w := vW ty
    s.vexec i f (vWide ty) fun l =>
      let a := s.vsrc (vWide ty) f.a l
      packed w (vN ty) fun k => fitTo (f.mod.getLsbD 3) (vSg ty) w (op (vSg ty) w (elem w a k))
def vexec2 (i : Instr) (f : Fields) (op : Bool → Nat → Nat → Nat → Int) (s : State) : Out :=
  s.issue i f fun s =>
    let ty := bits f.mod 0 3
    let w := vW ty
    s.vexec i f (vWide ty) fun l =>
      let a := s.vsrc (vWide ty) f.a l
      let b := s.vsrc (vWide ty) f.b l
      packed w (vN ty) fun k => fitTo (f.mod.getLsbD 3) (vSg ty) w (op (vSg ty) w (elem w a k) (elem w b k))

def vSh (w b : Nat) : Nat := b % w

/-- A with its `w` bits in reverse order. -/
def brev (w a : Nat) : Nat :=
  (List.range w).foldl (fun acc k => acc + (a / 2 ^ k % 2) * 2 ^ (w - 1 - k)) 0

def execVmov (f : Fields) (s : State) : Out :=
  vexec1 (.vmov f) f (fun sg w a => eVal sg w a) s

def execVadd (f : Fields) (s : State) : Out :=
  vexec2 (.vadd f) f (fun sg w a b => eVal sg w a + eVal sg w b) s

def execVsub (f : Fields) (s : State) : Out :=
  vexec2 (.vsub f) f (fun sg w a b => eVal sg w a - eVal sg w b) s

def execVmul (f : Fields) (s : State) : Out :=
  vexec2 (.vmul f) f (fun sg w a b => eVal sg w a * eVal sg w b) s

def execVmulh (f : Fields) (s : State) : Out :=
  vexec2 (.vmulh f) f (fun sg w a b => (eVal sg w a * eVal sg w b).fdiv (2 ^ w)) s

def execVmin (f : Fields) (s : State) : Out :=
  vexec2 (.vmin f) f (fun sg w a b => min (eVal sg w a) (eVal sg w b)) s

def execVmax (f : Fields) (s : State) : Out :=
  vexec2 (.vmax f) f (fun sg w a b => max (eVal sg w a) (eVal sg w b)) s

def execVabs (f : Fields) (s : State) : Out :=
  vexec1 (.vabs f) f (fun sg w a => (eVal sg w a).natAbs) s

def execVand (f : Fields) (s : State) : Out :=
  vexec2 (.vand f) f (fun _ _ a b => (a &&& b : Nat)) s

def execVor (f : Fields) (s : State) : Out :=
  vexec2 (.vor f) f (fun _ _ a b => (a ||| b : Nat)) s

def execVxor (f : Fields) (s : State) : Out :=
  vexec2 (.vxor f) f (fun _ _ a b => (a ^^^ b : Nat)) s

def execVandn (f : Fields) (s : State) : Out :=
  vexec2 (.vandn f) f (fun _ w a b => (a &&& (2 ^ w - 1 - b) : Nat)) s

def execVshl (f : Fields) (s : State) : Out :=
  vexec2 (.vshl f) f (fun _ w a b => (a <<< vSh w b : Nat)) s

def execVshr (f : Fields) (s : State) : Out :=
  vexec2 (.vshr f) f (fun _ w a b => (a >>> vSh w b : Nat)) s

def execVsar (f : Fields) (s : State) : Out :=
  vexec2 (.vsar f) f (fun _ w a b => (toSigned w a) >>> vSh w b) s

def execVpopc (f : Fields) (s : State) : Out :=
  vexec1 (.vpopc f) f (fun _ w a => popc w a) s

def execVclz (f : Fields) (s : State) : Out :=
  vexec1 (.vclz f) f (fun _ w a => clz w a) s

def execVbrev (f : Fields) (s : State) : Out :=
  vexec1 (.vbrev f) f (fun _ w a => brev w a) s

def execVbfe (f : Fields) (s : State) : Out :=
  vexec2 (.vbfe f) f (fun sg w a b => fieldGet w sg a b) s

def execVdiv (f : Fields) (s : State) : Out :=
  vexec2 (.vdiv f) f (fun sg w a b => quotOf (eVal sg w a) (eVal sg w b)) s

def execVrem (f : Fields) (s : State) : Out :=
  vexec2 (.vrem f) f (fun sg w a b => remOf (eVal sg w a) (eVal sg w b)) s

/-- VMAD: A × B + C. -/
def execVmad (f : Fields) (s : State) : Out :=
  s.issue (.vmad f) f fun s =>
    let ty := bits f.mod 0 3
    let w := vW ty
    let x (x : Src) (l : Nat) : Int := eVal (vSg ty) w (s.vsrc (vWide ty) x l)
    s.vexec (.vmad f) f (vWide ty) fun l =>
      fitTo (f.mod.getLsbD 3) (vSg ty) w (x f.a l * x f.b l + x f.c l)

/-- VBFI reads and writes D (R165). -/
def execVbfi (f : Fields) (s : State) : Out :=
  s.issue (.vbfi f) f fun s =>
    let ty := bits f.mod 0 3
    let w := vWide ty
    s.vexec (.vbfi f) f w fun l =>
      fieldPut (vW ty) (s.vsrc w (.reg f.dst) l) (s.vsrc w f.a l) (s.vsrc w f.b l)

def execVsel (f : Fields) (s : State) : Out :=
  s.issue (.vsel f) f fun s =>
    let w := vWide (bits f.mod 0 3)
    let m := s.maskSrc f.c
    s.vexec (.vsel f) f w fun l => if m.getLsbD l then s.vsrc w f.a l else s.vsrc w f.b l

/-- Bits of a mask destination at the listed lanes; every other bit keeps (R169). -/
def setBits (m : Mask) (vs : List (Nat × Bool)) : Mask :=
  vs.foldl (fun m p => if p.2 then m ||| (1#128 <<< p.1) else m &&& ~~~(1#128 <<< p.1)) m

def execVcmp (f : Fields) (s : State) : Out :=
  s.issue (.vcmp f) f fun s =>
    let ty := bits f.mod 0 3
    let w := vWide ty
    let c (l : Nat) : Bool := intCond (bits f.mod 4 4) (eVal (vSg ty) (vW ty) (s.vsrc w f.a l)) (eVal (vSg ty) (vW ty) (s.vsrc w f.b l))
    (s.wrM f.dst.toNat (setBits (s.rdM f.dst.toNat) ((s.effLanes f.msk.toNat).map fun l => (l, c l)))).retire (.vcmp f)

def execVlid (f : Fields) (s : State) : Out :=
  s.issue (.vlid f) f fun s => s.vexec (.vlid f) f false fun l => l

def execVbcast (f : Fields) (s : State) : Out :=
  s.issue (.vbcast f) f fun s =>
    let w := vWide (bits f.mod 0 3)
    s.vexec (.vbcast f) f w fun l => s.vsrc w f.a (s.vsrc w f.b l % s.width)

/-! ## Lanes that cooperate -/

/-- INFO64 of faults 0x04 to 0x06 (R284). -/
def memberInfo (gset : Nat) (m : Mask) (lane : Nat) (w : Nat) : Word :=
  let p := if lane = 0xFFFF then 0 else lane / 32
  .ofNat 64 (gset + (m &&& allLanes w).toNat / 2 ^ (32 * p) % 2 ^ 32 * 2 ^ 16 + p * 2 ^ 48)

def lowestLane (m : Mask) (w : Nat) : Nat := (lanesOf m w).headD 0xFFFF

/-- The membership names a lane outside M0: 0x04 (R172). -/
def State.memberFault (s : State) (msk : Nat) : Option Flt :=
  let out := (if msk = 0 then s.split.m0 else s.rdM msk) &&& ~~~s.split.m0
  if out = 0 then none
  else
    let l := lowestLane out s.width
    some { code := 0x04, lane := l, info32 := 0xFFFFFFFF, info64 := memberInfo 0 (s.rdM msk) l s.width }

/-- Issues a lane-cooperative instruction: the membership check, then its effect on the participants (R172). -/
def coop (i : Instr) (f : Fields) (k : List Nat → State → State) (s : State) : Out :=
  s.issue i f fun s =>
    match s.memberFault f.msk.toNat with
    | some e => s.fault e
    | none => k (s.effLanes f.msk.toNat) s

/-- The source lane of VSHFL (R174), as an integer. -/
def shflSrc (mode l b : Nat) : Int :=
  match mode with
  | 0 => b
  | 1 => (l : Int) - b
  | 2 => (l : Int) + b
  | _ => (l ^^^ b : Nat)

def execVshfl (f : Fields) (s : State) : Out :=
  coop (.vshfl f) f (fun ps s =>
    let w := vWide (bits f.mod 0 3)
    let pick (l : Nat) : Nat :=
      let j := shflSrc (bits f.mod 4 2) l (s.src32 f.b l).toNat
      if 0 ≤ j ∧ ps.contains j.toNat then j.toNat else l
    (s.wrLanes w f.dst.toNat (ps.map fun l => (l, s.vsrc w f.a (pick l)))).retire (.vshfl f)) s

/-- A reduction operation on exact numbers; bitwise ones on patterns (R175). -/
def redOp (op : Nat) (sg : Bool) (w : Nat) (a b : Int) : Int :=
  let p (x : Int) : Nat := wrapTo w x
  match op with
  | 0 => a + b
  | 1 => min a b
  | 2 => max a b
  | 3 => eVal sg w (p a &&& p b)
  | 4 => eVal sg w (p a ||| p b)
  | _ => eVal sg w (p a ^^^ p b)

def redId (op : Nat) (sg : Bool) (w : Nat) : Int :=
  match op with
  | 1 => if sg then (2 ^ (w - 1) : Nat) - 1 else (2 ^ w : Nat) - 1
  | 2 => if sg then -(2 ^ (w - 1) : Nat) else 0
  | 3 => eVal sg w (2 ^ w - 1)
  | _ => 0

/-- The reduction of A over some lanes, delivered at the element (R175). -/
def State.reduce (s : State) (f : Fields) (ls : List Nat) : Nat :=
  let ty := bits f.mod 0 3
  let w := vW ty
  let op := bits f.mod 4 4
  fitTo (f.mod.getLsbD 3) (vSg ty) w
    (ls.foldl (fun acc l => redOp op (vSg ty) w acc (eVal (vSg ty) w (s.vsrc (vWide ty) f.a l))) (redId op (vSg ty) w))

def execVred (f : Fields) (s : State) : Out :=
  coop (.vred f) f (fun ps s =>
    (s.wrLanes (vWide (bits f.mod 0 3)) f.dst.toNat (ps.map fun l => (l, s.reduce f ps))).retire (.vred f)) s

def execVscan (f : Fields) (s : State) : Out :=
  coop (.vscan f) f (fun ps s =>
    let below (l : Nat) : List Nat := ps.filter fun p => if f.mod.getLsbD 8 then p < l else p ≤ l
    (s.wrLanes (vWide (bits f.mod 0 3)) f.dst.toNat (ps.map fun l => (l, s.reduce f (below l)))).retire (.vscan f)) s

def execVcomp (f : Fields) (s : State) : Out :=
  coop (.vcomp f) f (fun ps s =>
    let w := vWide (bits f.mod 0 3)
    (s.wrLanes w f.dst.toNat (ps.zipIdx.map fun p => (p.2, s.vsrc w f.a p.1))).retire (.vcomp f)) s

def execBallot (f : Fields) (s : State) : Out :=
  coop (.ballot f) f (fun ps s =>
    (s.wrM f.dst.toNat (setBits 0 (ps.map fun l => (l, s.src32 f.a l != 0)))).retire (.ballot f)) s

def execMrank (f : Fields) (s : State) : Out :=
  coop (.mrank f) f (fun ps s =>
    (s.wrLanes false f.dst.toNat (ps.map fun l => (l, popc l (s.maskSrc f.a).toNat))).retire (.mrank f)) s

/-! ## Mask logic (R171) -/

def maskLogic (i : Instr) (f : Fields) (op : Mask → Mask → Mask) (s : State) : Out :=
  s.issue i f fun s => (s.wrM f.dst.toNat (op (s.maskSrc f.a) (s.maskSrc f.b))).retire i

def execMmov (f : Fields) (s : State) : Out := maskLogic (.mmov f) f (fun a _ => a) s
def execMand (f : Fields) (s : State) : Out := maskLogic (.mand f) f (fun a b => a &&& b) s
def execMor (f : Fields) (s : State) : Out := maskLogic (.mor f) f (fun a b => a ||| b) s
def execMxor (f : Fields) (s : State) : Out := maskLogic (.mxor f) f (fun a b => a ^^^ b) s
def execMandn (f : Fields) (s : State) : Out := maskLogic (.mandn f) f (fun a b => a &&& ~~~b) s
def execMnot (f : Fields) (s : State) : Out := maskLogic (.mnot f) f (fun a _ => ~~~a) s

def execMpopc (f : Fields) (s : State) : Out :=
  s.issue (.mpopc f) f fun s => s.retS (.mpopc f) f.dst (.ofNat 64 (popc 128 (s.maskSrc f.a).toNat))

def execMsets (f : Fields) (s : State) : Out :=
  s.issue (.msets f) f fun s => (s.wrM f.dst.toNat (s.scalarSrc f.b ++ s.scalarSrc f.a)).retire (.msets f)

def execMfirst (f : Fields) (s : State) : Out :=
  s.issue (.mfirst f) f fun s =>
    s.retS (.mfirst f) f.dst (match lanesOf (s.maskSrc f.a) 128 with
      | l :: _ => .ofNat 64 l
      | [] => BitVec.allOnes 64)

end Sys2Proof.Machine
end

