-- ==== Sys2Proof/Machine/Control.lean ====
section
/-!
DEFINITION. Class 6 control flow, splits and barriers (R244 to R259, R292, R293, R299), without EXIT.
-/
namespace Sys2Proof.Machine

/-! ## Transfers (R248 to R253) -/

/-- The target checks, then PC := target (R248). -/
def State.transfer (s : State) (t : Word) : State :=
  if t.toNat / 2 ^ 48 != 0 then s.fault { code := 0x12, addr := t }
  else if t.toNat % 8 != 0 then s.fault { code := 0x13, addr := t }
  else s.goto t

def State.target (s : State) (i : Instr) (x : Src) : Word := s.next i + 8 * offsetOf x

/-- A yield point raises the group's first deferred 0x30 (R132). -/
def State.yieldPoint (s : State) (k : State → State) : State :=
  match s.grp.pend30 with
  | b :: _ => s.raise30 b
  | [] => k s

/-- The team has a pre-emption request pending (R291). -/
def State.asked (s : State) : Bool := !s.team.requests.isEmpty

/-- The waits that are yield checks (R291). -/
def Wait.isYieldCheck : Wait → Bool
  | .join _ => true
  | .bar _ _ _ => true
  | .barw _ _ _ => true
  | .await .. => true
  | .cwait .. => true
  | .nap _ => true
  | _ => false

/-- A request ends a wait (R146, R262): the split stops, naming everything, and keeps the wait with the phase of its
BAR; a NAP is retired. -/
def Split.endWait (x : Split) : Split :=
  if x.wait.isYieldCheck then
    { x with wait := .yielded, named := none, resume := match x.wait with
      | .nap _ => .none
      | w => w }
  else x

/-- Begins a wait, which is a yield check (R291). -/
def State.beginWait (s : State) (w : Wait) : State :=
  s.yieldPoint fun s =>
    let s := s.waitAt w
    if s.asked then s.setSplit s.split.endWait else s

/-- The split stops here for pre-emption, resuming at `pc`, naming what `named` says (R291, R293). -/
def State.yieldStop (s : State) (pc : Word) (named : Option (Word × Bool × Bool × Word × Word)) : State :=
  s.setSplit { s.split with pc := pc, wait := .yielded, named := named, resume := .none }

/-- JMPI and RET take a request before the transfer, as a YLD naming everything (R291). -/
def State.yieldCheck (s : State) (k : State → State) : State :=
  s.yieldPoint fun s => if s.asked then s.yieldStop s.split.pc none else k s

def execBra (f : Fields) (s : State) : Out :=
  s.issue (.bra f) f fun s => s.transfer (s.target (.bra f) f.a)

def execBrc (f : Fields) (s : State) : Out :=
  s.issue (.brc f) f fun s =>
    if (s.scalarSrc f.a != 0) != f.mod.getLsbD 0 then s.transfer (s.target (.brc f) f.b) else s.retire (.brc f)

/-- BRM's decision for the whole split (R252). -/
def brmTaken (mode : Nat) (m e : Mask) : Bool :=
  match mode with
  | 0 => m &&& e != 0
  | 1 => e &&& ~~~m == 0
  | _ => m &&& e == 0

def execBrm (f : Fields) (s : State) : Out :=
  s.issue (.brm f) f fun s =>
    if brmTaken (bits f.mod 0 2) (s.maskSrc f.a) (s.eff f.msk.toNat) then s.transfer (s.target (.brm f) f.b)
    else s.retire (.brm f)

/-- The link is written before the target check (R249). -/
def execCall (f : Fields) (s : State) : Out :=
  s.issue (.call f) f fun s => (s.wrS f.dst.toNat (s.next (.call f))).transfer (s.target (.call f) f.a)

def execRet (f : Fields) (s : State) : Out :=
  s.issue (.ret f) f fun s => s.yieldCheck fun s => s.transfer (s.scalarSrc f.a)

def execJmpi (f : Fields) (s : State) : Out :=
  s.issue (.jmpi f) f fun s => s.yieldCheck fun s =>
    let t := s.scalarSrc f.a
    (if f.mod.getLsbD 0 then s.wrS f.dst.toNat (s.next (.jmpi f)) else s).transfer t

/-! ## Splits (R245, R246) -/

/-- The lanes of a new split have executed the FENCEs of the split they come from, and none that its slot had before (R228). -/
def Group.copyFences (g : Group) (k : Nat) : Group :=
  let own := g.fences.filter (·.sp == k)
  { g with fences := own ++ own.map fun m => { m with sp := 1 - k } }
/-- The merged split stands in slot 0, with the FENCEs of both. -/
def Group.mergeFences (g : Group) : Group := { g with fences := g.fences.map fun m => { m with sp := 0 } }

/-- BSPL's three outcomes on the splits, its targets checked before any effect. -/
def execBspl (f : Fields) (s : State) : Out :=
  s.issue (.bspl f) f fun s =>
    let next := s.next (.bspl f)
    let e := s.target (.bspl f) f.b
    let j := s.target (.bspl f) f.c
    let bad (t : Word) : Bool := t.toNat / 2 ^ 48 != 0 || t.toNat % 8 != 0
    if bad e then s.transfer e
    else if bad j then s.transfer j
    else
      let m0 := s.split.m0
      let t := m0 &&& s.maskSrc f.a
      let o := m0 &&& ~~~s.maskSrc f.a
      let d := f.dst.toNat
      let block (s : State) (j : Word) : State :=
        ((s.wrS d j).wrS (d + 1) (m0.setWidth 64)).wrS (d + 2) (m0.extractLsb' 64 64)
      let flag (s : State) (b : Bool) : State := s.setGrp { s.grp with split := b }
      if t = 0 then (flag (block s j) true).goto e
      else if o = 0 then (flag (block s j) true).goto next
      else if s.partner.live then (flag (block s (j + 1)) true).goto next
      else
        let s := flag (block s j) false
        let s := s.setGrp ((s.grp.copyFences s.curSplit).setSp (1 - s.curSplit) { Split.empty with live := true, m0 := o, pc := e, since := s.tick + 1 })
        (s.setSplit { s.split with m0 := t }).goto next

/-- JOIN (R246): goes on at J, waits for the partner, or merges with a partner that waits at a JOIN. -/
def execJoin (f : Fields) (s : State) : Out :=
  s.issue (.join f) f fun s =>
    let a := srcNum f.a
    let j := s.rdS a &&& ~~~7
    let rc : Mask := (s.rdS (a + 2) ++ s.rdS (a + 1)) &&& allLanes s.width
    let p := s.partner
    if j.toNat / 2 ^ 48 != 0 then s.transfer j
    else if p.live && p.m0 &&& rc != 0 then
      match p.wait with
      | .join jp =>
        let j := if s.curSplit = 0 then j else jp
        let m := s.split.m0 ||| p.m0
        let g := s.grp.mergeFences
        s.setGrp { g with
          s0 := { g.s0 with live := true, m0 := m, pc := j, wait := .none, since := s.tick + 1 }
          s1 := .empty }
      | _ => s.beginWait (.join j)
    else s.goto j

/-- NAP: stops issuing for min(A, 65535) cycles of the column clock (R251). -/
def execNap (f : Fields) (s : State) : Out :=
  s.issue (.nap f) f fun s =>
    let n := min (s.scalarSrc f.a).toNat 65535
    if n = 0 then s.retire (.nap f)
    else s.yieldPoint fun s => (s.retire (.nap f)).beginWait (.nap (s.cycle s.team.col + n))

/-! ## Barriers (R254 to R259) -/

def Team.bar (t : Team) (b : Nat) : Barrier := Map.get .empty t.barriers b
def Team.setBar (t : Team) (b : Nat) (x : Barrier) : Team := { t with barriers := Map.set .empty t.barriers b x }

/-- The groups of a team, by index. -/
def State.groupsOf (s : State) (uid : Nat) : List Nat :=
  (List.range s.groups.length).filter fun i => (s.grpAt i).team == uid
def State.groupNo? (s : State) (uid gid : Nat) : Option Nat :=
  (s.groupsOf uid).find? fun i => (s.grpAt i).gid == gid

/-- Every split of the team, as group index and slot. -/
def State.splitsOf (s : State) (uid : Nat) : List (Nat × Nat) :=
  (s.groupsOf uid).flatMap fun i => [(i, 0), (i, 1)]
def State.spAt (s : State) (p : Nat × Nat) : Split := (s.grpAt p.1).sp p.2
def State.setSpAt (s : State) (p : Nat × Nat) (x : Split) : State := s.setGrpAt p.1 ((s.grpAt p.1).setSp p.2 x)

/-- The barrier a wait is at. -/
def Wait.barrier? : Wait → Option (Nat × Word)
  | .bar b _ n => some (b, n)
  | .barw b _ n => some (b, n)
  | _ => Option.none

def Split.waitsAt (x : Split) (b : Nat) : Bool := x.live && x.wait.barrier?.any fun p => p.1 == b

/-- A completed phase lets a split go on, waiting or stopped for pre-emption out of its BAR of that phase (R257, R262). -/
def Split.release (x : Split) (b phase tick : Nat) : Split :=
  if x.waitsAt b then
    match x.wait.barrier? with
    | some p => { x with pc := p.2, wait := .none, since := tick + 1 }
    | none => x
  else match x.resume with
    | .bar c p n => if x.live && c == b && p == phase then { x with pc := n, resume := .none } else x
    | _ => x

/-- A split stopped for pre-emption out of its BAR, whose phase ends otherwise, takes the fault when it is restored (R262). -/
def Split.spoil (x : Split) (b phase : Nat) (f : Flt) : Split :=
  match x.resume with
  | .bar c p _ => if x.live && c == b && p == phase then { x with denied := some f } else x
  | _ => x

def State.mapSplits (s : State) (uid : Nat) (k : Split → Split) : State :=
  (s.splitsOf uid).foldl (fun s p => s.setSpAt p (k (s.spAt p))) s

/-- Every group of the set has arrived whole and the pending bytes are 0 (R257). -/
def Barrier.done (x : Barrier) : Bool :=
  x.cond == .active && x.pending == 0 &&
    (List.range 16).all fun g => !x.gset.getLsbD g || Map.get 0 x.arrived g == x.lmask

/-- What a completed phase orders behind it for a group that waited (R239): the participants' accesses and matrix operations issued
before they arrived, as far as they are still under way, and what earlier barriers ordered before those. -/
def State.syncGroup (s : State) (gi uid : Nat) (covers : List (Nat × Nat)) : State :=
  let g := s.grpAt gi
  let due := covers.flatMap fun c => match s.groupNo? uid c.1 with
    | none => []
    | some i =>
      (if s.busyBefore i c.2 || (s.col (s.teamOf uid).col).ops.any fun o => o.grp == i && o.id < c.2 then [⟨i, c.2, s.nextId⟩] else []) ++
        if i = gi then [] else (s.grpAt i).syncs.map fun y => { y with after := s.nextId }
  if due.isEmpty then s else s.setGrpAt gi { g with syncs := g.syncs ++ due }

/-- A split waits at the phase, or was stopped for pre-emption out of its BAR of it. -/
def Split.inPhase (x : Split) (b phase : Nat) : Bool := x.waitsAt b || x.live && match x.resume with
  | .bar c p _ => c == b && p == phase
  | _ => false

/-- A completed phase orders its participants' accesses before the later waits of the groups of its set that do not wait now: a
later ticket of a participant takes the place of an earlier one (R239). -/
def Barrier.cover (x : Barrier) (who : List Nat) : List (Nat × Nat × Nat) :=
  let new := who.flatMap fun w => x.tickets.map fun c => (w, c.1, c.2)
  (x.covers.filter fun c => !new.any fun d => d.1 == c.1 && d.2.1 == c.2.1) ++ new

/-- COMPLETION of a phase, at every arrival and every change of the pending bytes (R257). What the participants issued before they
arrived is ordered before what the released splits issue (R239). -/
def State.checkBar (s : State) (uid b : Nat) : State :=
  let t := s.teamOf uid
  let x := t.bar b
  if x.done then
    let due := (s.groupsOf uid).filter fun i => (s.grpAt i).s0.inPhase b x.phase || (s.grpAt i).s1.inPhase b x.phase
    let later := (List.range 16).filter fun g => x.gset.getLsbD g && !due.any fun i => (s.grpAt i).gid == g
    let y := { x with cond := .idle, arrived := [], arrPend := 0, phase := x.phase + 1, tickets := [], covers := x.cover later }
    (due.foldl (fun s i => s.syncGroup i uid x.tickets) (s.setTeam (t.setBar b y))).mapSplits uid fun z => z.release b x.phase s.tick
  else s

/-- A barrier fault (R284). -/
def barFlt (code b gset : Nat) (m : Mask) (lane w : Nat) : Flt :=
  { code, lane, info32 := b, info64 := memberInfo gset m lane w }

/-- Every split waiting on the phase takes the fault at its wait (R256, R258, R259). -/
def State.faultWaiters (s : State) (uid b : Nat) (f : Flt) : State :=
  (s.splitsOf uid).foldl (fun s p =>
    let x := s.spAt p
    if x.waitsAt b then (s.setSpAt p { x with wait := .none }).takeFault p.1 p.2 x.pc true f else s) s

/-- ABANDONMENT of an active phase with a code; `but` gets no abandon pending (R256, R259). -/
def State.abandon (s : State) (uid b code : Nat) (but : Option Nat) : State :=
  let t := s.teamOf uid
  let x := t.bar b
  let w := (s.launchOf t.ten t.launch).width
  let quiet := (s.groupsOf uid).filter fun i =>
    let g := s.grpAt i
    x.gset.getLsbD g.gid && !g.ended && some i != but && !g.s0.waitsAt b && !g.s1.waitsAt b
  let ab := quiet.foldl (fun m i => Map.set 0 m (s.grpAt i).gid code) x.abandon
  let y := { x with cond := .idle, arrived := [], arrPend := 0, abandon := ab, phase := x.phase + 1, tickets := [] }
  let f := barFlt code b x.gset.toNat x.lmask 0xFFFF w
  ((s.setTeam (t.setBar b y)).mapSplits uid fun z => z.spoil b x.phase f).faultWaiters uid b f

/-- The first three checks of R256 on a presented pair: barrier, set, mask. -/
def State.barCheck (s : State) (b : Nat) (gs : BitVec 16) (m : Mask) : Option Flt :=
  let t := s.team
  let w := s.width
  let flt (code lane : Nat) : Option Flt := some (barFlt code b gs.toNat m lane w)
  if (t.bar b).cond = .invalid then flt 0x06 0xFFFF
  else if !gs.getLsbD s.grp.gid || (List.range 16).any (fun k => gs.getLsbD k &&
      (t.ngroups ≤ k || ((s.groupNo? t.uid k).any fun i => (s.grpAt i).ended))) then flt 0x04 0xFFFF
  else if s.split.m0 &&& ~~~m != 0 then flt 0x04 (lowestLane (s.split.m0 &&& ~~~m) w)
  else if m &&& ~~~s.grp.lanes != 0 then flt 0x04 (lowestLane (m &&& ~~~s.grp.lanes) w)
  else none

/-- ARRIVAL of the executing split (R256). `k` is what it does after arriving; none on a fault. -/
def State.arrive (s : State) (b : Nat) (gs : BitVec 16) (m : Mask) (k : State → State) : State :=
  match s.barCheck b gs m with
  | some f => s.fault f
  | none =>
    let t := s.team
    let x := t.bar b
    let g := s.grp.gid
    let m0 := s.split.m0
    let dup := m0 &&& Map.get 0 x.arrived g
    if dup != 0 then s.fault (barFlt 0x04 b gs.toNat m (lowestLane dup s.width) s.width)
    else if x.cond = .active && (x.gset != gs || x.lmask != m) then
      (s.fault (barFlt 0x05 b gs.toNat m 0xFFFF s.width)).abandon t.uid b 0x05 (some s.cur)
    else
      let x := if x.cond = .idle then { x with gset := gs, lmask := m, cond := .active } else x
      let x := { x with
        arrived := Map.set 0 x.arrived g (Map.get 0 x.arrived g ||| m0), arrPend := x.arrPend ||| (1#16 <<< g)
        tickets := Map.set 0 x.tickets g s.nextId }
      k (s.setTeam (t.setBar b x))

/-- Issues a barrier instruction with a group set, whose bits 63 to 16 must be zero (R255). -/
def barIssue (i : Instr) (f : Fields) (k : Nat → BitVec 16 → Mask → State → State) (s : State) : Out :=
  s.issue i f fun s =>
    let gs := s.scalarSrc f.b
    if gs.toNat / 2 ^ 16 != 0 then s.fault (fieldFault 2)
    else k (srcNum f.a) (gs.setWidth 16) (s.maskSrc f.c) s

def execBar (f : Fields) (s : State) : Out :=
  barIssue (.bar f) f (fun b gs m s =>
    let n := s.next (.bar f)
    s.arrive b gs m fun t => s.yieldPoint fun _ =>
      (t.beginWait (.bar b (t.team.bar b).phase n)).checkBar t.team.uid b) s

def execBara (f : Fields) (s : State) : Out :=
  barIssue (.bara f) f (fun b gs m s =>
    s.arrive b gs m fun s => (s.retire (.bara f)).checkBar s.team.uid b) s

/-- The executing group's wait is over without waiting: what the phases completed since ordered before it is ordered now (R239). -/
def State.takeCovers (s : State) (b : Nat) : State :=
  let t := s.team
  let x := t.bar b
  let mine := x.covers.filter (·.1 == s.grp.gid)
  if mine.isEmpty then s
  else (s.syncGroup s.cur t.uid (mine.map (·.2))).setTeam (t.setBar b { x with covers := x.covers.filter (·.1 != s.grp.gid) })

def execBarw (f : Fields) (s : State) : Out :=
  barIssue (.barw f) f (fun b gs m s =>
    match s.barCheck b gs m with
    | some e => s.fault e
    | none =>
      let t := s.team
      let x := t.bar b
      let g := s.grp.gid
      let code := Map.get 0 x.abandon g
      if code != 0 then
        (s.setTeam (t.setBar b { x with abandon := Map.set 0 x.abandon g 0 })).fault (barFlt code b gs.toNat m 0xFFFF s.width)
      else if !x.arrPend.getLsbD g then (s.takeCovers b).retire (.barw f)
      else if x.gset != gs || x.lmask != m then
        (s.fault (barFlt 0x05 b gs.toNat m 0xFFFF s.width)).abandon t.uid b 0x05 (some s.cur)
      else s.beginWait (.barw b x.phase (s.next (.barw f)))) s

def execBarinit (f : Fields) (s : State) : Out :=
  s.issue (.barinit f) f fun s =>
    let b := srcNum f.a
    let x := s.team.bar b
    if x.cond = .active then s.fault (barFlt 0x06 b 0 0 0xFFFF s.width)
    else (s.setTeam (s.team.setBar b { Barrier.empty with phase := x.phase, covers := x.covers })).retire (.barinit f)

def execBarinv (f : Fields) (s : State) : Out :=
  s.issue (.barinv f) f fun s =>
    let b := srcNum f.a
    let t := s.team
    let x := t.bar b
    let e := barFlt 0x06 b x.gset.toNat x.lmask 0xFFFF s.width
    let s := ((s.retire (.barinv f)).mapSplits t.uid fun z => z.spoil b x.phase e).faultWaiters t.uid b e
    s.setTeam ((s.teamOf t.uid).setBar b { Barrier.empty with cond := .invalid, phase := x.phase + 1, covers := x.covers })

def execBarexp (f : Fields) (s : State) : Out :=
  s.issue (.barexp f) f fun s =>
    let b := srcNum f.a
    let t := s.team
    let x := t.bar b
    if x.cond = .invalid then s.fault (barFlt 0x06 b 0 0 0xFFFF s.width)
    else ((s.setTeam (t.setBar b { x with pending := x.pending + s.scalarSrc f.b })).retire (.barexp f)).checkBar t.uid b

/-- A landed piece takes its bytes off a barrier; after BARINV it is dropped (R145). -/
def State.subBar (s : State) (uid b n : Nat) : State :=
  let t := s.teamOf uid
  let x := t.bar b
  if x.cond = .invalid then s
  else (s.setTeam (t.setBar b { x with pending := x.pending - .ofNat 64 n })).checkBar uid b

/-- R259: a group of the pair ends, or a lane of its mask exits, before the phase completes. -/
def State.abandonFor (s : State) (gi : Nat) (gone : Mask) (ended : Bool) : State :=
  let g := s.grpAt gi
  (List.range 16).foldl (fun s b =>
    let x := (s.teamOf g.team).bar b
    if x.cond == .active && x.gset.getLsbD g.gid && (ended || gone &&& x.lmask != 0) then s.abandon g.team b 0x04 none
    else s) s

/-! ## YLD and IDEM -/

def rangeLen (r : Word) : Nat := r.toNat / 2 ^ 32 % 2 ^ 28
def rangeOff (r : Word) : Nat := r.toNat % 2 ^ 27
def rangeBad (r : Word) : Bool := r.toNat / 2 ^ 60 != 0 || r.toNat / 2 ^ 27 % 32 != 0 || 2 ^ 27 < rangeLen r

/-- A named range lies in the team's allocation (R292). -/
def State.rangeOut (s : State) (r : Word) : Bool :=
  rangeLen r != 0 && (rangeOff r < s.team.scrBase || s.team.scrBase + s.launch.scratch < rangeOff r + rangeLen r)

def rangeFlt (r : Word) : Flt := { code := 0x11, addr := .ofNat 64 (3 * 2 ^ 60 + rangeOff r) }

/-- YLD (R292, R293): retires when no request is pending, else the split stops after it. -/
def execYld (f : Fields) (s : State) : Out :=
  s.issue (.yld f) f fun s =>
    let a := s.scalarSrc f.a
    let b := s.scalarSrc f.b
    if rangeBad a then s.fault (fieldFault 1)
    else if rangeBad b then s.fault (fieldFault 2)
    else if s.rangeOut a then s.fault (rangeFlt a)
    else if s.rangeOut b then s.fault (rangeFlt b)
    else s.yieldPoint fun s =>
      if s.asked then s.yieldStop (s.next (.yld f)) (some (s.scalarSrc f.c, f.mod.getLsbD 0, f.mod.getLsbD 1, a, b))
      else s.retire (.yld f)

/-- IDEM closes any open region; without .end and with one live split it opens one (R299). -/
def execIdem (f : Fields) (s : State) : Out :=
  s.issue (.idem f) f fun s =>
    let g := s.grp
    (if f.mod.getLsbD 0 || s.partner.live then s
     else s.setGrp { g with regionOpen := true, entry := s.split.pc + 8, emask := s.split.m0, idemRetry := 0 }).retire (.idem f)

end Sys2Proof.Machine
end

