-- ==== Sys2Proof/Machine/Float.lean ====
section
/-!
DEFINITION. Number formats, exact values and the one rounding routine (R51 to R57, R61, R177, R180).
Every operation computes exactly, on numbers n × 2^e or quotients of naturals, and rounds once.
-/
namespace Sys2Proof.Machine

/-- What a bit pattern stands for; a finite value is (−1)^neg × m × 2^e. -/
inductive FV where
  | nan (sig : Bool)
  | inf (neg : Bool)
  | fin (neg : Bool) (m : Nat) (e : Int)
  deriving DecidableEq, Repr

/-- How a format treats what lies beyond its finite values. -/
inductive FKind where
  | ieee
  | e4m3
  | finite
  deriving DecidableEq, Repr

/-- A floating format: width, fraction bits, bias, code of the largest finite magnitude. -/
structure Fmt where
  w : Nat
  mb : Nat
  bias : Nat
  top : Nat
  kind : FKind
  deriving DecidableEq, Repr

def fF64 : Fmt := ⟨64, 52, 1023, 0x7FEFFFFFFFFFFFFF, .ieee⟩
def fF32 : Fmt := ⟨32, 23, 127, 0x7F7FFFFF, .ieee⟩
def fBf16 : Fmt := ⟨16, 7, 127, 0x7F7F, .ieee⟩
def fF16 : Fmt := ⟨16, 10, 15, 0x7BFF, .ieee⟩
def fF19 : Fmt := ⟨19, 10, 127, 0x3FBFF, .ieee⟩
def fE4m3 : Fmt := ⟨8, 3, 7, 0x7E, .e4m3⟩
def fE5m2 : Fmt := ⟨8, 2, 15, 0x7B, .ieee⟩
def fE3m2 : Fmt := ⟨6, 2, 3, 0x1F, .finite⟩
def fE2m3 : Fmt := ⟨6, 3, 1, 0x1F, .finite⟩
def fE2m1 : Fmt := ⟨4, 1, 1, 0x7, .finite⟩

/-- The canonical NaN (R51, R54); +0 where the format has none (R57). -/
def Fmt.nan (f : Fmt) : Nat :=
  match f.kind with
  | .ieee => f.top + 1 + 2 ^ (f.mb - 1)
  | .e4m3 => 0x7F
  | .finite => 0
def Fmt.sign (f : Fmt) (neg : Bool) : Nat := if neg then 2 ^ (f.w - 1) else 0

def Fmt.decode (f : Fmt) (code : Nat) : FV :=
  let c := code % 2 ^ f.w
  let neg := c.testBit (f.w - 1)
  let mag := c % 2 ^ (f.w - 1)
  let m := mag % 2 ^ f.mb
  let e := mag / 2 ^ f.mb
  if f.top < mag then
    match f.kind with
    | .ieee => if m = 0 then .inf neg else .nan (!m.testBit (f.mb - 1))
    | _ => .nan false
  else if e = 0 then .fin neg m (1 - (f.bias : Int) - f.mb)
  else .fin neg (2 ^ f.mb + m) ((e : Int) - f.bias - f.mb)

/-- An exact result: a signed quotient of naturals, or a special value. -/
inductive Ex where
  | nan
  | inf (neg : Bool)
  | q (neg : Bool) (num den : Nat)
  deriving DecidableEq, Repr

/-- Rounding directions of R37. -/
inductive Rnd where
  | rn
  | rz
  | ru
  | rd
  deriving DecidableEq, Repr

def Rnd.ofBits : Nat → Rnd
  | 0 => .rn
  | 1 => .rz
  | 2 => .ru
  | _ => .rd

/-- `num / den` rounded to a natural number, the sign deciding the direction's sense. -/
def roundNat (d : Rnd) (neg : Bool) (num den : Nat) : Nat :=
  let n := num / den
  let r := num % den
  let up :=
    match d with
    | .rn => decide (den < 2 * r) || (2 * r == den && n % 2 == 1)
    | .rz => false
    | .ru => r != 0 && !neg
    | .rd => r != 0 && neg
  if up then n + 1 else n

/-- The larger of the exponent of `num / den` and `emin`: 2^E ≤ num/den < 2^(E+1). -/
def expOf (num den : Nat) : Int :=
  let e := (Nat.log2 num : Int) - Nat.log2 den
  if num * 2 ^ (-e).toNat < den * 2 ^ e.toNat then e - 1 else e

/-- The magnitude code a positive quotient rounds to, as if the exponent were unbounded above. -/
def Fmt.roundMag (f : Fmt) (d : Rnd) (neg : Bool) (num den : Nat) : Nat :=
  let emin : Int := 1 - f.bias
  let e := max (expOf num den) emin
  let q := e - f.mb
  let n := roundNat d neg (num * 2 ^ (-q).toNat) (den * 2 ^ q.toNat)
  (e - emin).toNat * 2 ^ f.mb + n

/-- What an overflow delivers (R57). -/
def Fmt.overflow (f : Fmt) (d : Rnd) (sat neg : Bool) : Nat :=
  let toMax := sat || match d with
    | .rn => false
    | .rz => true
    | .ru => neg
    | .rd => !neg
  match f.kind with
  | .ieee => f.sign neg + (if toMax then f.top else f.top + 1)
  | .e4m3 => if toMax then f.sign neg + f.top else f.nan
  | .finite => f.sign neg + f.top

/-- THE ONE ROUNDING (R52, R57): an exact result delivered in a format. -/
def Fmt.deliver (f : Fmt) (d : Rnd) (sat : Bool) (x : Ex) : Nat :=
  match x with
  | .nan => f.nan
  | .inf neg =>
    match f.kind with
    | .ieee => f.sign neg + f.top + 1
    | _ => f.overflow d sat neg
  | .q neg num den =>
    if num = 0 then f.sign neg
    else
      let m := f.roundMag d neg num den
      if f.top < m then f.overflow d sat neg else f.sign neg + m

/-- A dyadic number n × 2^e. -/
structure Dy where
  n : Int
  e : Int
  deriving DecidableEq, Repr

def Dy.add (x y : Dy) : Dy :=
  let e := min x.e y.e
  ⟨x.n * (2 ^ (x.e - e).toNat : Nat) + y.n * (2 ^ (y.e - e).toNat : Nat), e⟩

/-- A dyadic number as an exact result; `z` is the sign of an exact zero. -/
def Dy.ex (x : Dy) (z : Bool) : Ex :=
  if x.n = 0 then .q z 0 1
  else .q (x.n < 0) (x.n.natAbs * 2 ^ x.e.toNat) (2 ^ (-x.e).toNat)

def FV.dy : FV → Dy
  | .fin neg m e => ⟨if neg then -(m : Int) else m, e⟩
  | _ => ⟨0, 0⟩
def FV.neg : FV → Bool
  | .fin n _ _ => n
  | .inf n => n
  | .nan _ => false
def FV.isNan : FV → Bool
  | .nan _ => true
  | _ => false
def FV.isInf : FV → Bool
  | .inf _ => true
  | _ => false
def FV.isZero : FV → Bool
  | .fin _ m _ => m == 0
  | _ => false
def FV.flip : FV → FV
  | .fin n m e => .fin (!n) m e
  | .inf n => .inf (!n)
  | x => x
def FV.abs : FV → FV
  | .fin _ m e => .fin false m e
  | .inf _ => .inf false
  | x => x
def FV.ex : FV → Ex
  | .nan _ => .nan
  | .inf n => .inf n
  | .fin n m e => .q n (m * 2 ^ e.toNat) (2 ^ (-e).toNat)

def FV.mul (x y : FV) : FV :=
  match x, y with
  | .nan _, _ => .nan false
  | _, .nan _ => .nan false
  | .inf a, y => if y.isZero then .nan false else .inf (a != y.neg)
  | x, .inf b => if x.isZero then .nan false else .inf (x.neg != b)
  | .fin a m e, .fin b n k => .fin (a != b) (m * n) (e + k)

/-- The exact sum of addends (R61): NaN, infinities of both signs, an infinity, or a dyadic total.
An exact zero is −0 when every addend is a zero of negative sign, or, where `rd` says that the
rounding is toward −∞, unless every addend is +0. For FDOT2's three addends the manual does not say
that sign: R52 has it for two operands, R61 for MMA (log entry 92). -/
def sumEx (xs : List FV) (rd : Bool) : Ex :=
  if xs.any FV.isNan || (xs.any (fun x => x.isInf && x.neg) && xs.any (fun x => x.isInf && !x.neg)) then .nan
  else if xs.any FV.isInf then .inf (xs.any fun x => x.isInf && x.neg)
  else
    let allNeg := !xs.isEmpty && xs.all fun x => x.isZero && x.neg
    let allPos := xs.all fun x => x.isZero && !x.neg
    (xs.foldl (fun (acc : Dy) x => acc.add x.dy) ⟨0, 0⟩).ex (allNeg || (rd && !allPos))

def divEx (x y : FV) : Ex :=
  match x, y with
  | .nan _, _ => .nan
  | _, .nan _ => .nan
  | .inf a, y => if y.isInf then .nan else .inf (a != y.neg)
  | x, .inf b => .q (x.neg != b) 0 1
  | .fin a m e, .fin b n k =>
    if n = 0 then (if m = 0 then .nan else .inf (a != b))
    else .q (a != b) (m * 2 ^ (e - k).toNat) (n * 2 ^ (k - e).toNat)

/-- The integer square root, bit by bit from bit `b - 1`. -/
def isqrtFrom (n : Nat) : Nat → Nat → Nat
  | 0, r => r
  | b + 1, r => isqrtFrom n b (if (r + 2 ^ b) * (r + 2 ^ b) ≤ n then r + 2 ^ b else r)
def isqrt (n : Nat) : Nat := isqrtFrom n (Nat.log2 n / 2 + 1) 0

/-- A square root to more bits than any format has, an inexact one marked half a unit above its
truncation: it rounds as the exact root does. -/
def sqrtEx (x : FV) : Ex :=
  match x with
  | .nan _ => .nan
  | .inf neg => if neg then .nan else .inf false
  | .fin neg m e =>
    if m = 0 then .q neg 0 1
    else if neg then .nan
    else
      let odd := e % 2 == 1
      let m' := (if odd then 2 * m else m) * 4 ^ 80
      let h := (if odd then e - 1 else e) / 2
      let r := isqrt m'
      let num := if r * r = m' then 2 * r else 2 * r + 1
      .q false (num * 2 ^ h.toNat) (2 ^ 81 * 2 ^ (-h).toNat)

/-- Exact comparison of finite and infinite values: −1, 0, 1. -/
def FV.cmp (x y : FV) : Int :=
  match x, y with
  | .inf a, .inf b => if a = b then 0 else if a then -1 else 1
  | .inf a, _ => if a then -1 else 1
  | _, .inf b => if b then 1 else -1
  | x, y =>
    let d := x.dy.add ⟨-y.dy.n, y.dy.e⟩
    if d.n < 0 then -1 else if d.n = 0 then 0 else 1

/-- A value rounded to an integer in a direction; the sign of the value is kept apart. -/
def roundInt (d : Rnd) (neg : Bool) (num den : Nat) : Int :=
  let n := roundNat d neg num den
  if neg then -(n : Int) else n

/-! ## Element formats of R135 (codes 0 to 15) -/

def elemFmt? : Nat → Option Fmt
  | 0 => some fF64
  | 1 => some fF32
  | 2 => some fF19
  | 3 => some fBf16
  | 4 => some fF16
  | 5 => some fE4m3
  | 6 => some fE5m2
  | 7 => some fE3m2
  | 8 => some fE2m3
  | 9 => some fE2m1
  | _ => none

/-- Element widths in bits (R135). -/
def elemW : Nat → Nat
  | 0 => 64
  | 1 => 32
  | 2 => 32
  | 3 => 16
  | 4 => 16
  | 5 => 8
  | 6 => 8
  | 7 => 6
  | 8 => 6
  | 9 => 4
  | 10 => 8
  | 11 => 8
  | 12 => 4
  | 13 => 4
  | 14 => 2
  | _ => 1

/-- The number an integer, t2 or b1 element stands for (R54). -/
def elemInt (code b : Nat) : Int :=
  let sg (w : Nat) : Int := if b % 2 ^ w < 2 ^ (w - 1) then (b % 2 ^ w : Nat) else (b % 2 ^ w : Nat) - (2 ^ w : Nat)
  match code with
  | 10 => sg 8
  | 11 => (b % 256 : Nat)
  | 12 => sg 4
  | 13 => (b % 16 : Nat)
  | 14 => match b % 4 with
    | 1 => 1
    | 3 => -1
    | _ => 0
  | _ => if b % 2 = 1 then 1 else -1

def FV.ofInt (i : Int) : FV := .fin (i < 0) i.natAbs 0

/-- The value of an element; an f19 lies in bits 31 to 13 of its container. -/
def elemVal (code b : Nat) : FV :=
  match elemFmt? code with
  | some f => f.decode (if code = 2 then b / 2 ^ 13 else b)
  | none => .ofInt (elemInt code b)

/-- The range of an integer element format. -/
def elemRange : Nat → Int × Int
  | 10 => (-128, 127)
  | 11 => (0, 255)
  | 12 => (-8, 7)
  | 13 => (0, 15)
  | _ => (-1, 1)

/-- Clamps an exact result to an integer range after rounding; NaN gives 0 (R57). -/
def toIntRange (d : Rnd) (lo hi : Int) (x : Ex) : Int :=
  match x with
  | .nan => 0
  | .inf neg => if neg then lo else hi
  | .q neg num den => max lo (min (roundInt d neg num den) hi)

/-- A value converted to an element code (R57, the rows for a floating value). -/
def elemCode (code : Nat) (d : Rnd) (sat : Bool) (x : Ex) : Nat :=
  match elemFmt? code with
  | some f => (f.deliver d sat x) * (if code = 2 then 2 ^ 13 else 1)
  | none =>
    if code = 15 then
      match x with
      | .nan => 1
      | .inf neg => if neg then 0 else 1
      | .q neg _ _ => if neg then 0 else 1
    else
      let r := toIntRange d (elemRange code).1 (elemRange code).2 x
      (r % (2 ^ elemW code : Nat)).toNat

/-- CPTILE, PACK: the value divided by the encoding scale, converted (R57, R138). -/
def convertElem (se de : Nat) (scale : Nat) (d : Rnd) (sat : Bool) (b : Nat) : Nat :=
  elemCode de d sat (divEx (elemVal se b) (fF32.decode scale))

/-! ## Scales (R56) -/

def e8m0 (b : Nat) : FV := if b % 256 = 255 then .nan false else .fin false 1 ((b % 256 : Nat) - 127)
def e3m5 (b : Nat) : FV :=
  let e := b / 32 % 8
  let m := b % 32
  if e = 0 then .fin false m (-7) else .fin false (32 + m) ((e : Int) - 8)

/-! ## Approximated functions (R180) -/

/-- A result within `k` units in the last place of the exact one, which of them the part's choice
(log entry 3). -/
def Fmt.nearby (f : Fmt) (k fn fmtNo bits : Nat) (x : Ex) : Nat :=
  match x with
  | .q neg num den =>
    if num = 0 then f.sign neg
    else
      let lo := f.roundMag .rz neg num den
      let c := Config.approx fn fmtNo bits
      let m := if lo = f.roundMag .ru false num den then lo + c % (2 * k + 1) - k else lo + c % (2 * k) - (k - 1)
      f.sign neg + min m (f.top + 1)
  | x => f.deliver .rn false x

/-- A result within 2^−`e` of the exact one, which of them the part's choice (log entry 3). -/
def Fmt.within (f : Fmt) (e fn fmtNo bits : Nat) (num : Int) (den : Nat) : Nat :=
  let c : Int := (Config.approx fn fmtNo bits % (2 ^ 200 + 1) : Nat) - (2 ^ 199 : Nat)
  let n := num * (2 ^ (199 + e) : Nat) + c * den
  f.deliver (if 0 ≤ c then .rd else .ru) false (.q (n < 0) n.natAbs (den * 2 ^ (199 + e)))

/-- Real functions in fixed point, 400 bits after the point: far finer than any bound of R180. -/
def fixOne : Nat := 2 ^ 400
def fixLn2 : Nat := 0xb17217f7d1cf79abc9e3b39803f2f6af40f343267298b62d8a0d175b8baafa2be7b876206debac98559552fb4afa1b10ed2e
def fixPi : Nat := 0x3243f6a8885a308d313198a2e03707344a4093822299f31d0082efa98ec4e6c89452821e638d01377be5466cf34e90c6cc0ac

/-- 2^f for a fraction f. -/
def fixExp2 (f : Nat) : Nat :=
  let y := f * fixLn2 / fixOne
  ((List.range 100).foldl (fun p k => (p.1 + p.2, p.2 * y / fixOne / (k + 1))) (0, fixOne)).1

/-- The fraction of log2 of a number from 1 to 2, 100 bits of it. -/
def fixLog2 (m : Nat) : Nat :=
  ((List.range 100).foldl (fun (p : Nat × Nat) _ =>
    let y := p.2 * p.2 / fixOne
    if 2 * fixOne ≤ y then (2 * p.1 + 1, y / 2) else (2 * p.1, y)) (0, m)).1 * 2 ^ 300

/-- The sine of `t` turns, `t` a fraction. -/
def fixSin (t : Nat) : Int :=
  let y := 2 * fixPi * t / fixOne
  ((List.range 80).foldl (fun (p : Int × Nat) k =>
    (p.1 + (if k % 2 = 0 then (p.2 : Int) else -p.2), p.2 * y / fixOne * y / fixOne / ((2 * k + 2) * (2 * k + 3)))) (0, y)).1

/-- A magnitude in fixed point. -/
def fixMag (m : Nat) (e : Int) : Nat := m * 2 ^ (e + 400).toNat / 2 ^ (-(e + 400)).toNat

/-- 2^x of a finite value; beyond ±2000 every format overflows or underflows alike. -/
def exp2Ex (x : FV) : Ex :=
  match x with
  | .fin neg m e =>
    let a := min (fixMag m e) (2000 * fixOne)
    let i := a / fixOne
    let f := a % fixOne
    if neg then (if f = 0 then .q false 1 (2 ^ i) else .q false (fixExp2 (fixOne - f)) (fixOne * 2 ^ (i + 1)))
    else .q false (fixExp2 f * 2 ^ i) fixOne
  | _ => .nan

/-- log2 of a positive finite value, as a numerator over 2^400. -/
def log2Fix (m : Nat) (e : Int) : Int :=
  (Nat.log2 m + e) * fixOne + fixLog2 (m * fixOne / 2 ^ Nat.log2 m)

/-- The fraction of a turn of a finite value. -/
def turnFix (neg : Bool) (m : Nat) (e : Int) : Nat :=
  let a := fixMag m e % fixOne
  if neg then (fixOne - a) % fixOne else a

/-- tanh of a finite value other than zero. -/
def tanhEx (neg : Bool) (m : Nat) (e : Int) : Ex :=
  let y := 2 * min (fixMag m e) (300 * fixOne) * fixOne / fixLn2
  let p := fixExp2 (y % fixOne) * 2 ^ (y / fixOne)
  .q neg (p - fixOne) (p + fixOne)

/-- Whether a finite value is an integer, and which. -/
def FV.int? (x : FV) : Option Int :=
  match x with
  | .fin neg m e =>
    if 0 ≤ e then some ((if neg then -1 else 1) * (m * 2 ^ e.toNat : Nat))
    else if m % 2 ^ (-e).toNat = 0 then some ((if neg then -1 else 1) * (m / 2 ^ (-e).toNat : Nat))
    else none
  | _ => none

end Sys2Proof.Machine
end

