-- ==== Sys2Proof/Machine/FloatOps.lean ====
section
/-!
DEFINITION. Class 2: floating point and conversions (R177 to R183).
-/
namespace Sys2Proof.Machine

/-- The format of a floating type: .f32, .f64, .bf16x2, .f16x2 (R37, R51). -/
def fFmt : Nat → Fmt
  | 0 => fF32
  | 1 => fF64
  | 2 => fBf16
  | _ => fF16
def fWide (ty : Nat) : Bool := ty == 1
def fN (ty : Nat) : Nat := if 2 ≤ ty then 2 else 1

/-- Source modifiers on one element's bits: absolute value first, then negation (R177). -/
def fMods (ab ng : Bool) (w code : Nat) : Nat :=
  let c := if ab then code % 2 ^ (w - 1) else code
  if ng then c ^^^ 2 ^ (w - 1) else c
def fModA (m : BitVec 10) (w c : Nat) : Nat := fMods (m.getLsbD 6) (m.getLsbD 7) w c
def fModB (m : BitVec 10) (w c : Nat) : Nat := fMods (m.getLsbD 8) (m.getLsbD 9) w c

def fRnd (m : BitVec 10) : Rnd := .ofBits (bits m 2 2)
def fSat (m : BitVec 10) : Bool := m.getLsbD 4

/-- One source, elementwise, from code to code. -/
def fexec1 (i : Instr) (f : Fields) (op : Nat → Fmt → Nat → Nat) (s : State) : Out :=
  s.issue i f fun s =>
    let ty := bits f.mod 0 2
    let F := fFmt ty
    s.vexec i f (fWide ty) fun l =>
      let a := s.vsrc (fWide ty) f.a l
      packed F.w (fN ty) fun k => op ty F (fModA f.mod F.w (elem F.w a k))
def fexec2 (i : Instr) (f : Fields) (op : Fmt → Nat → Nat → Nat) (s : State) : Out :=
  s.issue i f fun s =>
    let ty := bits f.mod 0 2
    let F := fFmt ty
    s.vexec i f (fWide ty) fun l =>
      let a := s.vsrc (fWide ty) f.a l
      let b := s.vsrc (fWide ty) f.b l
      packed F.w (fN ty) fun k => op F (fModA f.mod F.w (elem F.w a k)) (fModB f.mod F.w (elem F.w b k))

/-- A sum and a product rounded once (R52, R53). -/
def fAdd (d : Rnd) (sat : Bool) (F : Fmt) (a b : Nat) : Nat :=
  F.deliver d sat (sumEx [F.decode a, F.decode b] (d == .rd))
def fSub (d : Rnd) (sat : Bool) (F : Fmt) (a b : Nat) : Nat :=
  F.deliver d sat (sumEx [F.decode a, (F.decode b).flip] (d == .rd))
def fMul (d : Rnd) (sat : Bool) (F : Fmt) (a b : Nat) : Nat :=
  F.deliver d sat ((F.decode a).mul (F.decode b)).ex
def fDiv (d : Rnd) (sat : Bool) (F : Fmt) (a b : Nat) : Nat :=
  F.deliver d sat (divEx (F.decode a) (F.decode b))
def fFma (d : Rnd) (sat : Bool) (F : Fmt) (a b c : Nat) : Nat :=
  F.deliver d sat (sumEx [(F.decode a).mul (F.decode b), F.decode c] (d == .rd))

/-- minimumNumber and maximumNumber, bit-exact to the chosen input (R179). -/
def fMinMax (mx : Bool) (F : Fmt) (a b : Nat) : Nat :=
  let x := F.decode a
  let y := F.decode b
  if x.isNan && y.isNan then F.nan
  else if x.isNan then b
  else if y.isNan then a
  else
    let c := x.cmp y
    let aLess := c < 0 || (c == 0 && x.neg)
    if aLess != mx then a else b

/-- A floating condition of R38. -/
def fCond (c : Nat) (x y : FV) : Bool :=
  let un := x.isNan || y.isNan
  let k := x.cmp y
  match c with
  | 0 => !un && k == 0
  | 1 => !un && k != 0
  | 2 => !un && k < 0
  | 3 => !un && k ≤ 0
  | 4 => !un && k > 0
  | 5 => !un && k ≥ 0
  | 6 => un || k == 0
  | 7 => un || k != 0
  | 8 => un || k < 0
  | 9 => un || k ≤ 0
  | 10 => un || k > 0
  | 11 => un || k ≥ 0
  | 12 => !un
  | _ => un

/-- The class bit of FCLASS (R179). -/
def fClass (F : Fmt) (c : Nat) : Nat :=
  let sub := c % 2 ^ (F.w - 1) < 2 ^ F.mb
  match F.decode c with
  | .nan sig => if sig then 0 else 1
  | .inf neg => if neg then 2 else 9
  | .fin neg m _ =>
    if m = 0 then (if neg then 5 else 6)
    else if sub then (if neg then 4 else 7)
    else if neg then 3 else 8

def execFadd (f : Fields) (s : State) : Out := fexec2 (.fadd f) f (fAdd (fRnd f.mod) (fSat f.mod)) s
def execFsub (f : Fields) (s : State) : Out := fexec2 (.fsub f) f (fSub (fRnd f.mod) (fSat f.mod)) s
def execFmul (f : Fields) (s : State) : Out := fexec2 (.fmul f) f (fMul (fRnd f.mod) (fSat f.mod)) s
def execFdiv (f : Fields) (s : State) : Out := fexec2 (.fdiv f) f (fDiv (fRnd f.mod) (fSat f.mod)) s
def execFmin (f : Fields) (s : State) : Out := fexec2 (.fmin f) f (fMinMax false) s
def execFmax (f : Fields) (s : State) : Out := fexec2 (.fmax f) f (fMinMax true) s

def execFfma (f : Fields) (s : State) : Out :=
  s.issue (.ffma f) f fun s =>
    let ty := bits f.mod 0 2
    let F := fFmt ty
    let w := fWide ty
    s.vexec (.ffma f) f w fun l =>
      packed F.w (fN ty) fun k =>
        fFma (fRnd f.mod) (fSat f.mod) F (fModA f.mod F.w (elem F.w (s.vsrc w f.a l) k))
          (fModB f.mod F.w (elem F.w (s.vsrc w f.b l) k))
          (fMods false (f.mod.getLsbD 5) F.w (elem F.w (s.vsrc w f.c l) k))

def execFcmp (f : Fields) (s : State) : Out :=
  s.issue (.fcmp f) f fun s =>
    let ty := bits f.mod 0 2
    let F := fFmt ty
    let w := fWide ty
    let c (l : Nat) : Bool := fCond (bits f.mod 2 4) (F.decode (fModA f.mod F.w (s.vsrc w f.a l))) (F.decode (fModB f.mod F.w (s.vsrc w f.b l)))
    (s.wrM f.dst.toNat (setBits (s.rdM f.dst.toNat) ((s.effLanes f.msk.toNat).map fun l => (l, c l)))).retire (.fcmp f)

/-- FCLASS writes one register, for .f64 too. -/
def execFclass (f : Fields) (s : State) : Out :=
  s.issue (.fclass f) f fun s =>
    let ty := bits f.mod 0 2
    let F := fFmt ty
    s.vexec (.fclass f) f false fun l =>
      packed 16 (fN ty) fun k => 2 ^ fClass F (elem F.w (s.vsrc (fWide ty) f.a l) k)

/-- A value rounded to an integral value of its own format (R178). -/
def fRound (d : Rnd) (F : Fmt) (c : Nat) : Nat :=
  match (F.decode c).ex with
  | .q neg num den => F.deliver d false (.q neg (roundNat d neg num den) 1)
  | x => F.deliver d false x

def execFrnd (f : Fields) (s : State) : Out := fexec1 (.frnd f) f (fun _ F c => fRound (fRnd f.mod) F c) s
def execFsqrt (f : Fields) (s : State) : Out :=
  fexec1 (.fsqrt f) f (fun _ F c => F.deliver (fRnd f.mod) false (sqrtEx (F.decode c))) s

def FV.one : FV := .fin false 1 0

/-- 1/√x of a positive finite value, as `sqrtEx` marks an inexact root. -/
def rsqrtEx (m : Nat) (e : Int) : Ex :=
  let odd := e % 2 == 1
  let m' := if odd then 2 * m else m
  let h := (if odd then e - 1 else e) / 2
  let r := isqrt (4 ^ 140 / m')
  let num := if r * r * m' = 4 ^ 140 then 2 * r else 2 * r + 1
  .q false (num * 2 ^ (-h).toNat) (2 ^ 141 * 2 ^ h.toNat)

def fRcp (ty : Nat) (F : Fmt) (c : Nat) : Nat := F.nearby 1 0 ty c (divEx .one (F.decode c))
def fRsq (ty : Nat) (F : Fmt) (c : Nat) : Nat :=
  match F.decode c with
  | .nan _ => F.nan
  | .inf neg => if neg then F.nan else 0
  | .fin neg m e =>
    if m = 0 then F.deliver .rn false (.inf neg)
    else if neg then F.nan
    else F.nearby 1 1 ty c (rsqrtEx m e)

/-- Units in the last place by which FEXP2, FLOG2 and FTANH may miss (R180). -/
def approxUlps (ty : Nat) : Nat := if ty = 0 then 2 else 1

/-- FEXP2: exact at integers whose result is finite, for .f32 (R180). -/
def fExp2 (ty : Nat) (F : Fmt) (c : Nat) : Nat :=
  match F.decode c with
  | .nan _ => F.nan
  | .inf neg => if neg then 0 else F.deliver .rn false (.inf false)
  | x =>
    match x.int? with
    | some i => if ty = 0 && i < 128 then F.deliver .rn false (exp2Ex x) else F.nearby (approxUlps ty) 2 ty c (exp2Ex x)
    | none => F.nearby (approxUlps ty) 2 ty c (exp2Ex x)

/-- FLOG2: exact at powers of two, within 2⁻²² from 0.5 to 2, for .f32 (R180). -/
def fLog2 (ty : Nat) (F : Fmt) (c : Nat) : Nat :=
  match F.decode c with
  | .nan _ => F.nan
  | .inf neg => if neg then F.nan else F.deliver .rn false (.inf false)
  | .fin neg m e =>
    if m = 0 then F.deliver .rn false (.inf true)
    else if neg then F.nan
    else
      let x := log2Fix m e
      if ty = 0 && m = 2 ^ Nat.log2 m then F.deliver .rn false (.q (x < 0) x.natAbs fixOne)
      else if ty = 0 && -(fixOne : Int) ≤ x && x ≤ fixOne then F.within 22 3 ty c x fixOne
      else F.nearby (approxUlps ty) 3 ty c (.q (x < 0) x.natAbs fixOne)

/-- The quarter turns of a finite value, when it is a multiple of 0.25. -/
def FV.quarters? (x : FV) : Option Int :=
  match x with
  | .fin n m e => (FV.fin n m (e + 2)).int?
  | _ => none

/-- The absolute error of FSIN and FCOS, as a power of two (R180). -/
def turnBound (ty : Nat) : Nat := if ty = 0 then 22 else 8

/-- FSIN and FCOS: exact at multiples of 0.25 (R180). -/
def fSin (ty : Nat) (F : Fmt) (c : Nat) : Nat :=
  match F.decode c with
  | .fin neg m e =>
    match (FV.fin neg m e).quarters? with
    | some j =>
      match (j % 4).toNat with
      | 0 => F.sign neg
      | 1 => F.deliver .rn false (.q false 1 1)
      | 2 => 0
      | _ => F.deliver .rn false (.q true 1 1)
    | none => F.within (turnBound ty) 4 ty c (fixSin (turnFix neg m e)) fixOne
  | _ => F.nan
def fCos (ty : Nat) (F : Fmt) (c : Nat) : Nat :=
  match F.decode c with
  | .fin neg m e =>
    match (FV.fin neg m e).quarters? with
    | some j =>
      match (j % 4).toNat with
      | 0 => F.deliver .rn false (.q false 1 1)
      | 2 => F.deliver .rn false (.q true 1 1)
      | _ => 0
    | none => F.within (turnBound ty) 5 ty c (fixSin ((turnFix neg m e + fixOne / 4) % fixOne)) fixOne
  | _ => F.nan
def fTanh (ty : Nat) (F : Fmt) (c : Nat) : Nat :=
  match F.decode c with
  | .nan _ => F.nan
  | .inf neg => F.deliver .rn false (.q neg 1 1)
  | .fin neg m e => if m = 0 then F.sign neg else F.nearby (approxUlps ty) 6 ty c (tanhEx neg m e)

def execFrcp (f : Fields) (s : State) : Out := fexec1 (.frcp f) f fRcp s
def execFrsq (f : Fields) (s : State) : Out := fexec1 (.frsq f) f fRsq s
def execFexp2 (f : Fields) (s : State) : Out := fexec1 (.fexp2 f) f fExp2 s
def execFlog2 (f : Fields) (s : State) : Out := fexec1 (.flog2 f) f fLog2 s
def execFsin (f : Fields) (s : State) : Out := fexec1 (.fsin f) f fSin s
def execFcos (f : Fields) (s : State) : Out := fexec1 (.fcos f) f fCos s
def execFtanh (f : Fields) (s : State) : Out := fexec1 (.ftanh f) f fTanh s

/-- FDOT2: two products and C, exact, one rounding to .f32 (R178). -/
def execFdot2 (f : Fields) (s : State) : Out :=
  s.issue (.fdot2 f) f fun s =>
    let F := fFmt (bits f.mod 0 2)
    s.vexec (.fdot2 f) f false fun l =>
      let a (k : Nat) : FV := F.decode (fModA f.mod 16 (elem 16 (s.vsrc false f.a l) k))
      let b (k : Nat) : FV := F.decode (fModB f.mod 16 (elem 16 (s.vsrc false f.b l) k))
      fF32.deliver (fRnd f.mod) (fSat f.mod)
        (sumEx [(a 0).mul (b 0), (a 1).mul (b 1), fF32.decode (s.vsrc false f.c l)] (fRnd f.mod == .rd))

/-- A × 2^B; beyond ±4000 every finite A overflows or underflows alike. -/
def fScale (d : Rnd) (sat : Bool) (F : Fmt) (c : Nat) (b : Int) : Nat :=
  match F.decode c with
  | .fin n m e => F.deliver d sat (FV.fin n m (e + max (-4000) (min b 4000))).ex
  | x => F.deliver d sat x.ex

def execFscale (f : Fields) (s : State) : Out :=
  s.issue (.fscale f) f fun s =>
    let ty := bits f.mod 0 2
    let F := fFmt ty
    s.vexec (.fscale f) f (fWide ty) fun l =>
      fScale (fRnd f.mod) (fSat f.mod) F (fModA f.mod F.w (s.vsrc (fWide ty) f.a l)) (s.src32 f.b l).toInt

/-! ## Conversions (R181 to R183) -/

/-- CVT types: .i32, .n32, .i64, .n64, then .f32, .f64, .bf16, .f16. -/
def cvtW (t : Nat) : Nat := if t = 2 || t = 3 || t = 5 then 64 else 32
def cvtFmt (t : Nat) : Fmt :=
  match t with
  | 4 => fF32
  | 5 => fF64
  | 6 => fBf16
  | _ => fF16
def cvtInt (t v : Nat) : Int := if t % 2 = 0 then toSigned (cvtW t) v else v
def cvtRange (t : Nat) : Int × Int :=
  let w := cvtW t
  if t % 2 = 0 then (-(2 ^ (w - 1) : Nat), (2 ^ (w - 1) : Nat) - 1) else (0, (2 ^ w : Nat) - 1)

def cvtOne (dt st : Nat) (d : Rnd) (sat : Bool) (v : Nat) : Nat :=
  if st < 4 then
    let x := cvtInt st v
    if dt < 4 then
      wrapTo (cvtW dt) (if sat then max (cvtRange dt).1 (min x (cvtRange dt).2) else x)
    else (cvtFmt dt).deliver d sat (FV.ofInt x).ex
  else
    let x := ((cvtFmt st).decode v).ex
    if dt < 4 then wrapTo (cvtW dt) (toIntRange d (cvtRange dt).1 (cvtRange dt).2 x)
    else (cvtFmt dt).deliver d sat x

def execCvt (f : Fields) (s : State) : Out :=
  s.issue (.cvt f) f fun s =>
    let dt := bits f.mod 7 3
    let st := bits f.mod 4 3
    s.vexec (.cvt f) f (cvtW dt == 64) fun l =>
      cvtOne dt st (.ofBits (bits f.mod 2 2)) (f.mod.getLsbD 1) (s.vsrc (cvtW st == 64) f.a l)

/-- The bit of element `i` of a packed lane, and its width there (R182); an f19 is its container. -/
def packPos (code i : Nat) : Nat := if code = 2 then 0 else elemW code * i

def execPack (f : Fields) (s : State) : Out :=
  s.issue (.pack f) f fun s =>
    let e := bits f.mod 0 4
    s.vexec (.pack f) f false fun l =>
      (List.range (packN e)).foldl (fun acc i =>
        acc + convertElem 1 e (s.src32 f.b l).toNat (.ofBits (bits f.mod 4 2)) (f.mod.getLsbD 6)
          (s.grp.rdV (srcNum f.a + i) l).toNat * 2 ^ packPos e i) 0

/-- UNPACK writes register D + i with element i times the scale (R182). -/
def execUnpack (f : Fields) (s : State) : Out :=
  s.issue (.unpack f) f fun s =>
    let e := bits f.mod 0 4
    let ls := s.effLanes f.msk.toNat
    let v (l i : Nat) : Nat :=
      fF32.deliver .rn false ((elemVal e ((s.src32 f.a l).toNat / 2 ^ packPos e i % 2 ^ elemW e)).mul (fF32.decode (s.src32 f.b l).toNat)).ex
    let g := (List.range (packN e)).foldl (fun g i => g.wrLanes false (f.dst.toNat + i) (ls.map fun l => (l, v l i))) s.grp
    (s.setGrp g).retire (.unpack f)

/-- An element format's largest finite value, as a ratio (R183). -/
def bscaleMax : Nat → Nat × Nat
  | 5 => (448, 1)
  | 6 => (57344, 1)
  | 7 => (28, 1)
  | 8 => (15, 2)
  | 9 => (6, 1)
  | 10 => (127, 1)
  | 11 => (255, 1)
  | 12 => (7, 1)
  | _ => (15, 1)

/-- Whether a ≤ F × the scale. -/
def bscaleFits (code : Nat) (a scale : FV) : Bool :=
  (FV.fin false (bscaleMax code).2 0 |>.mul a).cmp (FV.fin false (bscaleMax code).1 0 |>.mul scale) ≤ 0

def bscale (code : Nat) (e3 : Bool) (a : FV) : Nat :=
  if a.isNan || a.isInf then 0xFF
  else if e3 then ((List.range 256).find? fun c => 0 < c && bscaleFits code a (e3m5 c)).getD 0xFF
  else ((List.range 255).find? fun c => bscaleFits code a (e8m0 c)).getD 0xFE

def execBscale (f : Fields) (s : State) : Out :=
  s.issue (.bscale f) f fun s =>
    s.vexec (.bscale f) f false fun l =>
      bscale (bits f.mod 0 4) (f.mod.getLsbD 4) (fF32.decode (s.src32 f.a l).toNat).abs

end Sys2Proof.Machine
end

