-- ==== Sys2Proof/Machine/MemOps.lean ====
section
/-!
DEFINITION. Class 3: memory instructions (R184 to R195). At issue every lane is checked and the accesses
are queued; their homes serve them later, in any order the edges of R228 leave (EvMem).
-/
namespace Sys2Proof.Machine

/-! ## Debts of releases below the system's scope (R229) -/

/-- A plain write over the whole of a release's place hides the release, but not one of the writing group `by_`: its own earlier
release comes before the write, by R228's edge of a common location (R230). -/
def State.coverDebts (s : State) (l : Loc) (n : Nat) (by_ : Option Nat) : State :=
  { s with debts := s.debts.filter fun d => (d.job.isNone && by_ == some d.grp) || !(d.loc.sp.key == l.sp.key && l.a ≤ d.loc.a && d.loc.a + d.n ≤ l.a + n) }

/-! ## Addresses and checks -/

/-- A lane's byte address, A + B modulo 2⁶⁴ (R184). -/
def State.laneAddr (s : State) (a b : Src) (l : Nat) : Word :=
  s.src64 a l + match b with
    | .reg n => (s.grp.rdV n.toNat l).signExtend 64
    | x => s.src64 x l

/-- Checks every lane before any takes effect: the first failing check of the lowest failing lane (R187). -/
def State.checkLanes (s : State) (n : Nat) (u : Use) : List (Nat × Word) → Chk (List (Nat × Loc))
  | [] => .ok []
  | (l, a) :: r =>
    match s.access s.team a n n u with
    | .flt f => .flt { f with lane := l }
    | .wait t p m f => .wait t p m { f with lane := l }
    | .ok loc => (s.checkLanes n u r).bind fun ls => .ok ((l, loc) :: ls)

/-- The group's accesses and queries still in flight. -/
def State.inFlight (s : State) (gi : Nat) : Bool := s.pend.any (·.grp == gi) || s.queries.any (·.grp == gi)

def Acc.writes : Acc → Bool
  | .load _ => false
  | _ => true
def Acc.reads : Acc → Bool
  | .store => false
  | _ => true

def Loc.isCtl (l : Loc) : Bool := l.sp == .ctl

def State.granuleReady (s : State) (l : Loc) : Bool := l.sp != .flash || s.staged.contains (l.a / 2 ^ 21)

/-- Flash granules a read will need (R77). -/
def State.wantFlash (s : State) (ls : List Loc) : State :=
  ls.foldl (fun s l =>
    let g := l.a / 2 ^ 21
    if l.sp == .flash && !s.staged.contains g && !s.filling.contains g then { s with filling := s.filling ++ [g] } else s) s

/-- Reads flash through the staging cache: the split waits for the fill of what is missing, then executes anew (R77). Until an
instruction that waits so, or for earlier accesses, has gone on, its partner issues nothing (R278; log entry 81). -/
def State.withFlash (s : State) (ls : List Loc) (k : State → State) : State :=
  let miss := ls.filter fun l => !s.granuleReady l
  if miss.isEmpty then k s else (s.wantFlash miss).waitAt (.fill (miss.map fun l => l.a / 2 ^ 21))

/-- The lanes of an access, from the addresses and the places they passed to; `data` gives data and compare value. -/
def mkLanes (as : List (Nat × Word)) (ls : List (Nat × Loc)) (data : Nat → Nat × Nat) : List PLane :=
  (as.zip ls).map fun p =>
    { lane := p.2.1, loc := p.2.2, data := (data p.2.1).1, cmp := (data p.2.1).2, res := none, own5 := p.1.2.toNat / 2 ^ 60 == 5 }

def Loc.isRemote (l : Loc) : Bool := match l.sp with
  | .remote _ => true
  | _ => false

/-- Queues an access of the executing split. A path 0xF access is ordered as fences on both sides (R236). -/
def State.queue (s : State) (acc : Acc) (n : Nat) (lanes : List PLane) (dst : Dst) (acq rel : Bool) (scope : Nat) : State :=
  let ctl := lanes.any fun x => x.loc.isCtl
  let p : Pend :=
    { id := s.nextId, grp := s.cur, sp := s.curSplit, pc := s.split.pc, acc, n, lanes, dst
      acq := acq || ctl, rel := rel || ctl, scope, region := s.grp.regionOpen }
  { s with pend := s.pend ++ [p], nextId := s.nextId + 1 }

/-- Queues a store: one access per lane (R227); the lanes that go to a peer stay together, to be merged (R338). -/
def State.queueStores (s : State) (n : Nat) (xs : List PLane) (rel : Bool) (scope : Nat) : State :=
  let far := xs.filter (·.loc.isRemote)
  let s := (xs.filter fun x => !x.loc.isRemote).foldl (fun s x => s.queue .store n [x] .none false rel scope) s
  if far.isEmpty then s else s.queue .store n far .none false rel scope

/-- Accesses that a barrier orders before those of group `gi` numbered `id` are still under way (R239). -/
def State.synced (s : State) (gi id : Nat) : Bool := (s.grpAt gi).syncs.all fun y => id < y.after || !s.busyBefore y.grp y.upTo

/-- Every access of the group is complete, and what a barrier orders before its next one. -/
def State.drained (s : State) (gi : Nat) : Bool := !s.inFlight gi && s.synced gi s.nextId

/-- A path 0xF access first waits until every earlier access of the group is complete (R236). -/
def State.afterDrain (s : State) (ls : List (Nat × Loc)) (k : State → State) : State :=
  if ls.any (fun p => p.2.isCtl) && !s.drained s.cur then s.waitAt .drain else k s

def memSize (m : BitVec 10) : Nat := 2 ^ bits m 0 3
def isAcq (m : BitVec 10) : Bool := bits m 4 2 == 1
def isRel (m : BitVec 10) : Bool := bits m 4 2 == 2

/-- Issues a load of the given lanes. -/
def State.loadLanes (s : State) (i : Instr) (m : BitVec 10) (as : List (Nat × Word)) (dst : Dst) : State :=
  if as.isEmpty then s.retire i
  else s.checked (s.checkLanes (memSize m) .read as) fun ls => s.afterDrain ls fun s =>
    let s := s.wantFlash (ls.map (·.2))
    (s.queue (.load (m.getLsbD 3)) (memSize m) (mkLanes as ls fun _ => (0, 0)) dst (isAcq m) false (bits m 6 3)).retire i

/-- Issues a store, one access per lane (R227). -/
def State.storeLanes (s : State) (i : Instr) (m : BitVec 10) (as : List (Nat × Word)) (data : Nat → Nat) : State :=
  s.checked (s.checkLanes (memSize m) .write as) fun ls => s.afterDrain ls fun s =>
    (s.queueStores (memSize m) (mkLanes as ls fun l => (data l, 0)) (isRel m) (bits m 6 3)).retire i

/-- The data of a store in lane `l` (R185). -/
def State.storeData (s : State) (x : Src) (n l : Nat) : Nat :=
  match n, x with
  | 16, .reg r => (s.grp.rdV64 r.toNat l).toNat + (s.grp.rdV64 (r.toNat + 2) l).toNat * 2 ^ 64
  | 8, x => (s.src64 x l).toNat
  | _, x => (s.src32 x l).toNat

def execLd (f : Fields) (s : State) : Out :=
  s.issue (.ld f) f fun s =>
    s.loadLanes (.ld f) f.mod ((s.effLanes f.msk.toNat).map fun l => (l, s.laneAddr f.a f.b l)) (.vec f.dst.toNat)

def execSt (f : Fields) (s : State) : Out :=
  s.issue (.st f) f fun s =>
    s.storeLanes (.st f) f.mod ((s.effLanes f.msk.toNat).map fun l => (l, s.laneAddr f.a f.b l))
      (s.storeData f.c (memSize f.mod))

def execLds (f : Fields) (s : State) : Out :=
  s.issue (.lds f) f fun s =>
    s.loadLanes (.lds f) f.mod [(0xFFFF, s.scalarSrc f.a + s.scalarSrc f.b)] (.sca f.dst.toNat)

def execSts (f : Fields) (s : State) : Out :=
  s.issue (.sts f) f fun s =>
    s.storeLanes (.sts f) f.mod [(0xFFFF, s.scalarSrc f.a + s.scalarSrc f.b)] fun _ => (s.scalarSrc f.c).toNat

/-- LDEXP: the k-th effective lane takes the element at base + k × size (R193). -/
def execLdexp (f : Fields) (s : State) : Out :=
  s.issue (.ldexp f) f fun s =>
    let base := s.scalarSrc f.a + s.scalarSrc f.b
    s.loadLanes (.ldexp f) f.mod
      ((s.effLanes f.msk.toNat).zipIdx.map fun p => (p.1, base + .ofNat 64 (p.2 * memSize f.mod))) (.vec f.dst.toNat)

/-! ## Atomics (R191) -/

def atomSize (m : BitVec 10) : Nat := if m.getLsbD 9 then 8 else 4

/-- What an atomic stores over `old`. -/
def atomResult (op n old data cmp : Nat) : Nat :=
  let w := 8 * n
  let so := toSigned w old
  let sd := toSigned w data
  match op with
  | 0 => (old + data) % 2 ^ w
  | 1 => wrapTo w ((old : Int) - data)
  | 2 => if so ≤ sd then old else data
  | 3 => min old data
  | 4 => if so ≤ sd then data else old
  | 5 => max old data
  | 6 => old &&& data
  | 7 => old ||| data
  | 8 => old ^^^ data
  | 9 => data
  | 10 => if old = cmp then data else old
  | 11 => fAdd .rn false fF32 old data
  | _ => packed 16 2 fun k => fAdd .rn false fBf16 (elem 16 old k) (elem 16 data k)

/-- Data and compare of ATOM in lane `l`. -/
def State.atomData (s : State) (f : Fields) (l : Nat) : Nat × Nat :=
  let n := atomSize f.mod
  if bits f.mod 0 4 = 10 then
    let c := srcNum f.c
    if n = 8 then ((s.grp.rdV64 (c + 2) l).toNat, (s.grp.rdV64 c l).toNat)
    else ((s.grp.rdV (c + 1) l).toNat, (s.grp.rdV c l).toNat)
  else (if n = 8 then (s.src64 f.c l).toNat else (s.src32 f.c l).toNat, 0)

/-- Data and compare of ATOMS. -/
def State.atomsData (s : State) (f : Fields) : Nat × Nat :=
  let n := atomSize f.mod
  let cut (v : Word) : Nat := v.toNat % 2 ^ (8 * n)
  if bits f.mod 0 4 = 10 then (cut (s.rdS (srcNum f.c + 1)), cut (s.rdS (srcNum f.c))) else (cut (s.scalarSrc f.c), 0)

def State.atomLanes (s : State) (i : Instr) (m : BitVec 10) (as : List (Nat × Word)) (data : Nat → Nat × Nat) (dst : Dst) : State :=
  if as.isEmpty then s.retire i
  else s.checked (s.checkLanes (atomSize m) .atomic as) fun ls => s.afterDrain ls fun s =>
    (s.queue (.atom (bits m 0 4)) (atomSize m) (mkLanes as ls data) dst
      (isAcq m) (isRel m) (bits m 6 3)).retire i

def execAtom (f : Fields) (s : State) : Out :=
  s.issue (.atom f) f fun s =>
    s.atomLanes (.atom f) f.mod ((s.effLanes f.msk.toNat).map fun l => (l, s.laneAddr f.a f.b l)) (s.atomData f) (.vec f.dst.toNat)

def execAtoms (f : Fields) (s : State) : Out :=
  s.issue (.atoms f) f fun s =>
    s.atomLanes (.atoms f) f.mod [(0xFFFF, s.scalarSrc f.a + s.scalarSrc f.b)] (fun _ => s.atomsData f) (.sca f.dst.toNat)

/-! ## STCOMP (R192) -/

/-- Elements in order, cut into runs of one 4 KiB page. -/
def pageRuns : List (Nat × Word) → List (List (Nat × Word))
  | [] => []
  | x :: r =>
    match pageRuns r with
    | (y :: ys) :: t => if y.2.toNat / 4096 = x.2.toNat / 4096 then (x :: y :: ys) :: t else [x] :: (y :: ys) :: t
    | t => [x] :: t

/-- A page's fault speaks of the first element the page would have received, `k` of the run before it (R192, R324). -/
def stcompFlt (k : Nat) (pg : List (Nat × Word)) (e : Flt) : Flt :=
  let x := pg.headD (0, 0)
  if 0x10 ≤ e.code && e.code ≤ 0x14 then { e with lane := x.1, addr := x.2, info32 := e.info32 + k * 2 ^ 16 } else { e with lane := x.1 }

/-- Stores page by page, in ascending order; `k` elements are stored so far. -/
def State.stcompPages (s : State) (f : Fields) (k : Nat) : List (List (Nat × Word)) → State
  | [] => (s.wrS f.dst.toNat (.ofNat 64 k)).retire (.stcomp f)
  | pg :: r =>
    match s.checkLanes (memSize f.mod) .write pg with
    | .flt e => s.fault (stcompFlt k pg e)
    | .wait t p m e => s.await t p m (stcompFlt k pg e)
    | .ok ls =>
      (s.queueStores (memSize f.mod) (mkLanes pg ls fun l => (s.storeData f.c (memSize f.mod) l, 0)) (isRel f.mod) (bits f.mod 6 3)).stcompPages f
        (k + pg.length) r

def execStcomp (f : Fields) (s : State) : Out :=
  coop (.stcomp f) f (fun ps s =>
    let n := memSize f.mod
    let base := s.scalarSrc f.a + s.scalarSrc f.b
    match ps with
    | [] => s.retS (.stcomp f) f.dst 0
    | p :: _ =>
      let es := ps.zipIdx.map fun p => (p.1, base + .ofNat 64 (p.2 * n))
      let go (s : State) : State := s.stcompPages f 0 (pageRuns es)
      match s.access s.team base n n .write with
      | .flt e => if e.code = 0x12 || e.code = 0x13 || base.toNat / 2 ^ 60 = 15 then s.fault { e with lane := p } else go s
      | _ => if base.toNat / 2 ^ 60 = 15 && !s.drained s.cur then s.waitAt .drain else go s) s

/-- PREF asks for the staging granules of the addresses that pass; it changes no value and never faults (R194). -/
def execPref (f : Fields) (s : State) : Out :=
  s.issue (.pref f) f fun s =>
    (s.wantFlash ((s.effLanes f.msk.toNat).filterMap fun l => match s.access s.team (s.laneAddr f.a f.b l) 1 1 .read with
      | .ok p => some p
      | _ => none)).retire (.pref f)

/-- Accesses of the group numbered below `n` that read are still under way. -/
def State.readsBefore (s : State) (gi n : Nat) : Bool :=
  s.pend.any (fun p => p.grp == gi && p.id < n && p.acc.reads) || s.queries.any fun q => q.grp == gi && q.id < n

/-- What a FENCE waits for is over: with `strong` every access of its group numbered below `upTo`, else those that read; and what a
barrier ordered before them (R195, R239). -/
def State.fenced (s : State) (gi upTo : Nat) (strong : Bool) : Bool :=
  (if strong then !s.busyBefore gi upTo else !s.readsBefore gi upTo) && s.synced gi upTo

/-- A FENCE whose wait is over retires; stores before it that are still under way order what its split writes later (R229). -/
def State.endFence (s : State) (upTo scope : Nat) (next : Word) : State :=
  let s := s.goto next
  if s.busyBefore s.cur upTo then s.setGrp { s.grp with fences := ⟨s.curSplit, scope, upTo⟩ :: s.grp.fences } else s

/-- FENCE (R195, R229, R233). With .tot, and at the system's and recovery scope, its split waits until every access the group
issued before it is complete. Below, it waits for those that read; the stores before it order what the split writes later
within the scope alone: who reads that there waits for them (log entry 28). -/
def execFence (f : Fields) (s : State) : Out :=
  s.issue (.fence f) f fun s =>
    let scope := bits f.mod 6 3
    let strong := f.mod.getLsbD 9 || 5 ≤ scope
    if s.fenced s.cur s.nextId strong then s.endFence s.nextId scope (s.next (.fence f))
    else s.waitAt (.fence s.nextId scope strong (s.next (.fence f)))

end Sys2Proof.Machine
end

