-- ==== Sys2Proof/Machine/Engine.lean ====
section
/-!
DEFINITION. Class 4, the copy engine and Cairn (R128 to R156, R357): what a command checks at issue, the
job it becomes, and the batch, guard and bin instructions. Jobs start and land by themselves (EvEngine).
-/
namespace Sys2Proof.Machine

/-- Little-endian bytes as a number (R16). -/
def leNat : List Byte → Nat
  | [] => 0
  | b :: r => b.toNat + 256 * leNat r
def field (bs : List Byte) (lo n : Nat) : Nat := leNat ((bs.drop lo).take n)

/-! ## Places of whole byte ranges -/

def Run.locs (r : Run) : List Loc := (List.range r.n).map r.loc.plus

/-- Every byte of a range, checked (R131). `align` above 1 checks it as one access. -/
def State.span (s : State) (t : Team) (a n align : Nat) (u : Use) : Chk (List Loc) :=
  if align ≤ 1 then (s.runs t a n u).bind fun rs => .ok (rs.flatMap Run.locs)
  else if 2 ^ 64 ≤ a then .flt (accFlt 0x12 u a)
  else (s.access t (.ofNat 64 a) n align u).bind fun l => .ok (Run.locs ⟨l, n⟩)

def Chk.lane {α : Type} (l : Nat) : Chk α → Chk α
  | .flt f => .flt { f with lane := l }
  | .wait t p m f => .wait t p m { f with lane := l }
  | .ok v => .ok v

/-- Checks a list in order. -/
def checkAll {α β : Type} (k : α → Chk β) : List α → Chk (List β)
  | [] => .ok []
  | x :: r => (k x).bind fun y => (checkAll k r).bind fun ys => .ok (y :: ys)

/-! ## Footprints (R154) -/

/-- The address space an address is compared in, and its number there. -/
def footPlace (a : Nat) : Nat × Nat :=
  let p := a / 2 ^ 60
  if p < 3 then (0, a % 2 ^ 48) else (p - 2, a % 2 ^ 60)

/-- The smallest range of each space that covers the given ranges. -/
def covering (wr : Bool) (rs : List (Nat × Nat)) : List Foot :=
  (List.range 4).filterMap fun k =>
    let xs := rs.filterMap fun r => if (footPlace r.1).1 = k && r.2 != 0 then some ((footPlace r.1).2, (footPlace r.1).2 + r.2) else none
    match xs with
    | [] => none
    | x :: r => some { space := k, lo := r.foldl (fun m y => min m y.1) x.1, hi := r.foldl (fun m y => max m y.2) x.2, wr }

/-- What a command will do once its addresses have passed: its job, elements and data footprint. -/
structure Plan where
  kind : JobKind
  els : List El
  foot : List Foot

/-! ## CPL, CPGATHER, CPSCATTER (R133, R134) -/

/-- Elements of a copy: byte by byte where sources and destinations lie. -/
def copyEls (src dst : List Loc) : List El :=
  (src.zip dst).map fun p => ⟨[p.2], 0, 8, .at [p.1] 0 8⟩

/-- Every source byte first, then every destination byte (R357). -/
def State.planMoves (s : State) (t : Team) (ms : List Move) : Chk Plan :=
  (checkAll (fun m => (s.span t m.src m.n m.align .engRead).lane m.lane) ms).bind fun srcs =>
    (checkAll (fun m => (s.span t m.dst m.n m.align .engWrite).lane m.lane) ms).bind fun dsts =>
      .ok { kind := .copy
            els := ((srcs.zip dsts).map fun p => copyEls p.1 p.2).flatten
            foot := covering false (ms.map fun m => (m.src, m.n)) ++ covering true (ms.map fun m => (m.dst, m.n)) }

/-! ## CPTILE and CPFILL (R135, R138, R139) -/

structure Tensor where
  base : Nat
  elem : Nat
  rank : Nat
  flags : Nat
  dims : List Nat
  strides : List Nat

/-- A tensor record's fields (R135). -/
def Tensor.ofRecord (r : List Byte) : Tensor :=
  { base := field r 0 8, elem := field r 8 1 % 16, rank := field r 9 1, flags := field r 10 1
    dims := (List.range 4).map fun d => field r (16 + 4 * d) 4
    strides := (List.range 4).map fun d => field r (32 + 5 * d) 5 }

/-- Where element `x` lies: first byte, bit in it, and how many bytes it touches (R55, R135). -/
def Tensor.place (t : Tensor) (x : List Nat) : Nat × Nat × Nat :=
  let w := elemW t.elem
  let row := ((x.zip t.strides).drop 1).foldl (fun a p => a + p.1 * p.2) t.base
  let b := x.headD 0 * w
  (row + b / 8, b % 8, (b % 8 + w + 7) / 8)

def Tensor.inside (t : Tensor) (x : List Nat) : Bool := (x.zip t.dims).all fun p => p.1 < p.2

/-- The indices of a box, dimension 0 fastest. -/
def boxIndices : List Nat → List (List Nat)
  | [] => [[]]
  | e :: es => (boxIndices es).flatMap fun r => (List.range e).map fun i => i :: r

def swapTR (tr : Bool) (i : List Nat) : List Nat :=
  match tr, i with
  | true, a :: b :: r => b :: a :: r
  | _, i => i

/-- The two 32-bit halves of a block register, low first. -/
def halves (w : Word) : List Nat := [w.toNat % 2 ^ 32, w.toNat / 2 ^ 32]
def quarters16 (w : Word) : List Nat := (List.range 4).map fun d => w.toNat / 2 ^ (16 * d) % 2 ^ 16

def bitsKept (c : Conv) : Bool := c.se == c.de && c.scale == 0x3F800000

/-- A source element's bits brought to the destination (R138). -/
def Conv.apply (c : Conv) (b : Nat) : Nat := if bitsKept c then b else convertElem c.se c.de c.scale .rn c.sat b

/-- The code an element beyond the source's edge receives: 0 converted. R138 has it zero in every format, where R57 gives +0 the b1
code 1; the model converts as R57 does (log entry 10). -/
def Conv.edge (c : Conv) : Nat :=
  if bitsKept c then 0 else elemCode c.de .rn c.sat (divEx (.fin false 0 0) (fF32.decode c.scale))

/-- The clipped box, as pairs of a source place (none beyond its edge) and a destination place. -/
def tilePairs (src dst : Tensor) (tr : Bool) (block : List Word) :
    List (Option (Nat × Nat × Nat) × (Nat × Nat × Nat)) :=
  let at_ (k : Nat) : Word := block.getD k 0
  let o := halves (at_ 1) ++ halves (at_ 2)
  let p := halves (at_ 4) ++ halves (at_ 5)
  (boxIndices (quarters16 (at_ 3))).filterMap fun i =>
    let x := List.zipWith (· + ·) o i
    let y := List.zipWith (· + ·) p (swapTR tr i)
    if dst.inside y then some (if src.inside x then some (src.place x) else none, dst.place y) else none

/-- CPTILE. A source element whose destination is skipped is neither read nor in the footprint: R154 names the box as clipped, and does
not say by which edge (log entry 82). -/
def State.planTile (s : State) (t : Team) (m : BitVec 10) (sr dr : List Byte) (block : List Word) (scale : Word) : Chk Plan :=
  let src := Tensor.ofRecord sr
  let dst := Tensor.ofRecord dr
  let c : Conv := ⟨src.elem, dst.elem, scale.toNat % 2 ^ 32, m.getLsbD 4⟩
  let ps := tilePairs src dst (m.getLsbD 3) block
  (checkAll (fun (p : Option (Nat × Nat × Nat) × (Nat × Nat × Nat)) => match p.1 with
      | none => Chk.ok (ESrc.lit c.edge)
      | some (a, b, n) => (s.span t a n 1 .engRead).bind fun ls => .ok (.at ls b (elemW src.elem))) ps).bind fun srcs =>
    (checkAll (fun (p : Option (Nat × Nat × Nat) × (Nat × Nat × Nat)) => s.span t p.2.1 p.2.2.2 1 .engWrite) ps).bind fun dsts =>
      .ok { kind := .tile c
            els := (srcs.zip (dsts.zip ps)).map fun q => ⟨q.2.1, q.2.2.2.2.1, elemW dst.elem, q.1⟩
            foot := covering false (ps.filterMap fun p => p.1.map fun q => (q.1, q.2.2)) ++
              covering true (ps.map fun p => (p.2.1, p.2.2.2)) }

def State.planFill (s : State) (t : Team) (dst : Word) (n : Nat) (pat : Word) : Chk Plan :=
  (s.span t dst.toNat n 1 .engWrite).bind fun ls =>
    .ok { kind := .fill
          els := ls.zipIdx.map fun p => ⟨[p.1], 0, 8, .lit (byteOf pat (p.2 % 8)).toNat⟩
          foot := covering true [(dst.toNat, n)] }

/-! ## OLOAD and ASTORE (R200, R201, R209, R211) -/

/-- A window address of the executing column (R91). -/
def winAddr (col area off : Nat) : Nat := 4 * 2 ^ 60 + col * 2 ^ 51 + area * 2 ^ 48 + off
/-- A byte of a window, unchecked. -/
def winLoc (col area off : Nat) : Loc := ⟨.win, col * 2 ^ 51 + area * 2 ^ 48 + off⟩

/-- The 64 bytes of each row; in an FP6 slot bytes 48 to 63 become zeros when they are read (R59, R200). -/
def State.planOload (s : State) (t : Team) (slot n stride base : Nat) : Chk Plan :=
  let rows := (List.range (16 * n)).map fun r => (base + r * stride, 1024 * slot + 64 * r)
  (checkAll (fun (r : Nat × Nat) => s.span t r.1 64 1 .engRead) rows).bind fun srcs =>
    .ok { kind := .oload t.col slot n
          els := ((srcs.zip rows).map fun p => copyEls p.1 ((List.range 64).map fun k => winLoc t.col 2 (p.2.2 + k))).flatten
          foot := covering false (rows.map fun r => (r.1, 64)) ++ covering true [(winAddr t.col 2 (1024 * slot), 1024 * n)] }

/-- Bytes an element has in the accumulator, and delivered (R209). -/
def drainIn (code : Nat) : Nat := if code = 1 || code = 5 then 8 else 4
def drainOut (code : Nat) : Nat := if code = 1 then 8 else if code = 2 || code = 3 then 2 else 4

/-- A drained element's conversion (R209, R57). -/
def drainConv (code : Nat) (sat : Bool) (v : Nat) : Nat :=
  match code with
  | 2 => fBf16.deliver .rn sat (fF32.decode v).ex
  | 3 => fF16.deliver .rn sat (fF32.decode v).ex
  | 4 => fF32.deliver .rn false (FV.ofInt (toSigned 32 v)).ex
  | 5 => fF32.deliver .rn sat (fF64.decode v).ex
  | _ => v

/-- The pattern of an unallocated bank as an `n`-byte value (R216). -/
def unallocWord (n : Nat) : Nat := if n = 8 then 0x7FC000017FC00001 else 0x7FC00001

/-- Where element `e` of the drained rows lies in the accumulator. -/
def drainAt (code tile row0 e : Nat) : Nat := 1024 * tile + drainIn code * (16 * row0 + e)

def drainTiles (code tile : Nat) : List Nat := if drainIn code = 8 then [tile, tile + 1] else [tile]

/-- What ASTORE writes and where (R211): tile row i at A + i × stride. -/
def State.planAstore (s : State) (t : Team) (un : Bool) (code : Nat) (sat : Bool) (tile row0 nrows stride dst : Nat) : Chk Plan :=
  let n := drainOut code
  let st := if stride = 0 then 16 * n else stride
  let es := (List.range (16 * nrows)).map fun e => (e, dst + e / 16 * st + e % 16 * n)
  (s.span t dst n n .engWrite).bind fun _ =>
    if st % n != 0 then .flt (accFlt 0x13 .engWrite dst)
    else (checkAll (fun (p : Nat × Nat) => s.span t p.2 n n .engWrite) es).bind fun ds =>
      .ok { kind := .astore t.col tile (if un then 0 else (drainTiles code tile).length)
            els := (ds.zip es).map fun p => ⟨p.1, 0, 8 * n,
              if un then .lit (drainConv code sat (unallocWord (drainIn code)))
              else .acc t.col (drainAt code tile row0 p.2.1) (drainIn code) code sat⟩
            foot := covering false [(winAddr t.col 3 (drainAt code tile row0 0), 16 * nrows * drainIn code)] ++
              covering true (es.map fun p => (p.2, n)) }

/-! ## Recipes: a command as issued (R128) -/

def Recipe.plan (r : Recipe) (s : State) (t : Team) : Chk Plan :=
  match r with
  | .copy ms _ => s.planMoves t ms
  | .tile m a b block scale _ => s.planTile t m a b block scale
  | .fill dst n pat _ => s.planFill t dst n pat
  | .oload slot n stride base _ => s.planOload t slot n stride base
  | .astore un code sat c row0 nrows stride dst _ => s.planAstore t un code sat c row0 nrows stride dst

def Recipe.cw : Recipe → Word
  | .copy _ cw => cw
  | .tile _ _ _ _ _ cw => cw
  | .fill _ _ _ cw => cw
  | .oload _ _ _ _ cw => cw
  | .astore _ _ _ _ _ _ _ _ cw => cw

/-- A patch field takes count × multiplier, clamped (R128, R151); other commands have none. -/
def Recipe.patch (r : Recipe) (v : Nat) : Recipe :=
  match r with
  | .tile m a b block scale cw =>
    let e := (block.getD 3 0).toNat
    .tile m a b (block.set 3 (.ofNat 64 (e - e / 2 ^ 16 % 2 ^ 16 * 2 ^ 16 + min v 65535 * 2 ^ 16))) scale cw
  | .fill dst _ pat cw => .fill dst (min v (2 ^ 40)) pat cw
  | r => r

/-! ## Completion words (R130) -/

/-- A completion word before its address is checked. -/
inductive CwReq where
  | nothing
  | counter (scope addr : Nat)
  | barrier (b : Nat)

def parseCw (bars : Nat) (w : Word) : Option CwReq :=
  let n := w.toNat
  let scope := n / 2 ^ 59 % 8
  let space := n / 2 ^ 58 % 2
  let addr := n % 2 ^ 48
  if n / 2 ^ 48 % 2 ^ 10 != 0 then none
  else match n / 2 ^ 62 with
  | 0 => if n = 0 then some .nothing else none
  | 1 =>
    if scope = 7 || (space = 1 && addr / 2 ^ 27 != 0) then none
    else some (.counter scope (if space = 1 then 3 * 2 ^ 60 + addr else addr))
  | 2 => if scope != 0 || space != 0 || bars ≤ addr then none else some (.barrier addr)
  | _ => none

/-- The counter is checked as an 8-byte store checks it (R131). -/
def State.placeCw (s : State) (t : Team) : CwReq → Chk (Cw × List Foot)
  | .nothing => .ok (.none, [])
  | .barrier b => .ok (.barrier b, [])
  | .counter scope a =>
    (s.access t (.ofNat 64 a) 8 8 .engWrite).bind fun l => .ok (.counter scope l, covering true [(a, 8)])

/-! ## Entering the engine (R128, R131, R147 to R149, R357) -/

def guardOf (m : BitVec 10) : Option Nat := if m.getLsbD 8 then some (bits m 5 3) else none
def Group.guard (g : Group) (n : Nat) : Guard := Map.get .true g.guards n

/-- The lowest free held entry of a team, 0 when all 63 are taken (R149). -/
def State.freeHeld (s : State) (uid : Nat) : Nat :=
  ((List.range 64).drop 1 |>.find? fun k => !s.jobs.any fun j => j.team == uid && match j.st with
    | .held idx _ _ => idx == k
    | _ => false).getD 0

/-- A command that waits on a guard, or is held. -/
def Job.idle (j : Job) : Bool := match j.st with
  | .held .. => true
  | .queued => j.guard.isSome
  | .landing _ => false

/-- A command of the group waits on an open guard, and everything later waits behind it (R148). -/
def State.behindGuard (s : State) (grp id : Nat) : Bool :=
  s.jobs.any fun j => j.grp == grp && j.id < id && j.guard.isSome && j.st == JobSt.queued

/-! ## The places of commands (R92, R97) -/

def El.srcLocs (e : El) : List Loc := match e.src with
  | .at ls _ _ => ls
  | _ => []
/-- The places an element reads and writes. -/
def El.locs (e : El) : List Loc := e.dst ++ e.srcLocs
def Cw.locs : Cw → List Loc
  | .counter _ l => [l]
  | _ => []
def Job.locs (j : Job) : List Loc :=
  j.els.flatMap El.locs ++ j.cw.locs ++ match j.st with
    | .landing ps => ps.flatMap fun p => p.wr.flatMap (·.locs)
    | _ => []

/-- A command that waits on a guard, behind one, or held, with a place that `hit` picks, is placed anew when it goes on. -/
def State.staleAt (s : State) (hit : Loc → Bool) : State :=
  { s with jobs := s.jobs.map fun j =>
      if (j.idle || (j.st == JobSt.queued && s.behindGuard j.grp j.id)) && j.locs.any hit then { j with stale := true } else j }

/-- An access or a command numbered below `n` that has passed its checks is under way at a window place that `hit` picks: what it
names goes to nobody else before (R92; log entry 80). -/
def State.winBusy (s : State) (n : Nat) (hit : Loc → Bool) : Bool :=
  let at_ (l : Loc) : Bool := l.sp == .win && hit l
  s.pend.any (fun p => p.id < n && p.lanes.any fun x => x.res.isNone && at_ x.loc) ||
    s.jobs.any fun j => j.id < n && !j.idle && !s.behindGuard j.grp j.id && j.locs.any at_

/-- A window place in one of these slots, or banks, of a column. -/
def Loc.inSlots (col : Nat) (ns : List Nat) (l : Loc) : Bool := l.sp == .win && winCol l.a == col && winArea l.a == 2 && ns.contains (l.a / 1024 % 256)
def Loc.inBanks (col : Nat) (ns : List Nat) (l : Loc) : Bool := l.sp == .win && winCol l.a == col && winArea l.a == 3 && ns.contains (l.a / 8192 % 64)
/-- A window place in the registers of a group slot. -/
def Loc.inGroupSlot (col slot : Nat) (l : Loc) : Bool := l.sp == .win && winCol l.a == col && winArea l.a < 2 && winSlot l.a == slot

def Job.heldTag? (j : Job) : Option Nat := match j.st with
  | .held _ tag _ => some tag
  | _ => none

/-- Tags a tenant's live handles and command ids carry, in its teams and in its images. -/
def State.liveTags (s : State) (ten : Nat) : List Nat :=
  (((s.teams.filter fun t => t.ten == ten && !t.ended) ++ (s.images.map (·.team)).filter (·.ten == ten)).flatMap fun t => t.handles.map (·.tag)) ++
    ((s.jobs.filter fun j => (s.teamOf j.team).ten == ten) ++ (s.images.filter (·.team.ten == ten)).flatMap (·.jobs)).filterMap Job.heldTag?

/-- A tag of `m` from the tenant's counter, the next that none live carries: no two live handles share one (R107). -/
def State.drawTag (s : State) (ten m : Nat) : Nat × State :=
  match s.tenantOf? ten with
  | some t =>
    let live := s.liveTags ten
    let k := ((List.range (live.length + 1)).find? fun k => !live.contains ((t.tagCtr + k) % m)).getD 0
    ((t.tagCtr + k) % m, s.setTenant { t with tagCtr := t.tagCtr + k + 1 })
  | none => (0, s)

/-- A job of the executing group, joined to its open batch. -/
def State.job (s : State) (r : Recipe) (p : Plan) (cw : Cw) (cf : List Foot) (guard : Option Nat) (failed : Option Flt) : Job :=
  { id := s.nextId, grp := s.cur, team := s.grp.team, batch := s.grp.batchOpen, kind := p.kind, guard, failed
    st := .queued, recipe := r, els := p.els, cw, foot := p.foot ++ cf }

def State.enqueue (s : State) (j : Job) : State := { s with jobs := s.jobs ++ [j], nextId := s.nextId + 1 }

/-- The addresses of a team's command, its completion word last (R357). -/
def State.planned (s : State) (t : Team) (r : Recipe) (cw : CwReq) : Chk (Plan × Cw × List Foot) :=
  (r.plan s t).bind fun p => (s.placeCw t cw).bind fun c => .ok (p, c.1, c.2)

/-- They pass, or a Deliver answer the command got stands in their place (R131). -/
def State.plannedNow (s : State) (r : Recipe) (cw : CwReq) : Chk (Plan × Cw × List Foot) :=
  match s.split.denied with
  | some f => .flt f
  | none => s.planned s.team r cw

/-- A command with its places found anew. -/
def State.replan (s : State) (j : Job) : Chk Job :=
  let t := s.teamOf j.team
  (s.planned t j.recipe ((parseCw (s.launchOf t.ten t.launch).barriers j.recipe.cw).getD .nothing)).bind fun p =>
    .ok { j with kind := p.1.kind, els := p.1.els, cw := p.2.1, foot := p.1.foot ++ p.2.2, stale := false }

/-- The same for one that waits on a guard: a check it fails marks it failed (R131). -/
def State.freshen (s : State) (j : Job) : Chk Job :=
  if !j.stale then .ok j
  else match s.replan j with
    | .flt e => .ok { j with failed := some e, stale := false }
    | c => c

def Plan.empty : Plan := ⟨.copy, [], []⟩

/-- The executing split no longer carries a Deliver answer. -/
def State.undeny (s : State) : State := s.setSplit { s.split with denied := none }

/-- Issues an engine command: completion word, guard, addresses, then the engine (R357). -/
def State.submit (s : State) (i : Instr) (f : Fields) (r : Recipe) : State :=
  match parseCw s.launch.barriers (s.scalarSrc f.c) with
  | none => s.undeny.fault (fieldFault 3)
  | some cw =>
    let slot := guardOf f.mod
    let st := slot.map s.grp.guard
    if st = some .false then s.undeny.retire i
    else
      let defer := st == some .open
      match s.plannedNow r cw with
      | .ok (p, c, cf) => (s.undeny.enqueue (s.job r p c cf (if defer then slot else none) none)).retire i
      | .flt e => if defer then (s.undeny.enqueue (s.job r .empty .none [] slot (some e))).retire i else s.undeny.fault e
      | .wait t p m e => s.awaitAs t p m e defer

/-- Issues CPTILE or CPFILL: as `submit`, or held under an id (R149). A held command's guard applies from
its release on; its address checks are deferred unless it has none or its slot is true (log entry 11). -/
def State.submitRecipe (s : State) (i : Instr) (f : Fields) (r : Recipe) : State :=
  if !f.mod.getLsbD 9 then s.submit i f r
  else match parseCw s.launch.barriers (s.scalarSrc f.c) with
  | none => s.undeny.fault (fieldFault 3)
  | some cw =>
    let slot := guardOf f.mod
    let defer := slot.any fun n => s.grp.guard n != .true
    let accept (s : State) (p : Plan) (c : Cw) (cf : List Foot) (e : Option Flt) : State :=
      match s.freeHeld s.grp.team with
      | 0 => s.undeny.retS i f.dst 0
      | idx =>
        let (tag, s) := s.undeny.drawTag s.team.ten (2 ^ 26)
        (s.enqueue { s.job r p c cf slot e with st := .held idx tag false }).retS i f.dst (.ofNat 64 (idx + 64 * tag))
    match s.plannedNow r cw with
    | .ok (p, c, cf) => accept s p c cf none
    | .flt e => if defer then accept s .empty .none [] (some e) else s.undeny.fault e
    | .wait t p m e => s.awaitAs t p m e defer

/-! ## The copy commands -/

def blockFault : Flt := fieldFault 5

def cplSize (m : BitVec 10) : Nat := 4 * 2 ^ bits m 0 2

def execCpl (f : Fields) (s : State) : Out :=
  s.issue (.cpl f) f fun s =>
    let n := cplSize f.mod
    let ls := s.effLanes f.msk.toNat
    if ls.isEmpty then s.undeny.retire (.cpl f)
    else s.submit (.cpl f) f (.copy (ls.map fun l => ⟨l, (s.src64 f.b l).toNat, (s.src64 f.a l).toNat, n, n⟩) (s.scalarSrc f.c))

/-- The rows of CPGATHER: indexed place, packed place (R134). -/
def State.rows (s : State) (f : Fields) : List (Nat × Nat × Nat) :=
  let a := srcNum f.a
  let d := (s.rdS (a + 1)).toNat
  ((s.effLanes f.msk.toNat).filter (· < 32)).map fun l =>
    (l, (s.rdS a).toNat + (s.src32 f.b l).toNat * (d % 2 ^ 40), (s.rdS (a + 2)).toNat + l * (d / 2 ^ 40))

/-- Issues CPGATHER or CPSCATTER; S(a+1) holds the row length and stride. Lanes from 32 up move no row, and a command
whose effective lanes are all such is checked and completes with nothing moved (R357). -/
def State.submitRows (s : State) (i : Instr) (f : Fields) (mv : Nat → Nat × Nat × Nat → Move) : State :=
  let len := (s.rdS (srcNum f.a + 1)).toNat / 2 ^ 40
  let rs := s.rows f
  if (s.effLanes f.msk.toNat).isEmpty then s.undeny.retire i
  else if len = 0 || 4096 < len then s.undeny.fault blockFault
  else s.submit i f (.copy (rs.map (mv len)) (s.scalarSrc f.c))

def execCpgather (f : Fields) (s : State) : Out :=
  s.issue (.cpgather f) f fun s =>
    s.submitRows (.cpgather f) f fun n r => ⟨r.1, r.2.1, r.2.2, n, 1⟩

def execCpscatter (f : Fields) (s : State) : Out :=
  s.issue (.cpscatter f) f fun s =>
    s.submitRows (.cpscatter f) f fun n r => ⟨r.1, r.2.2, r.2.1, n, 1⟩

/-! ## Handles (R107) -/

/-- The team's live entry a handle value names. -/
def State.handle? (s : State) (v : Nat) : Option Handle :=
  s.team.handles.find? fun h => v == h.idx + 256 * h.tag

def handleFault (v : Word) : Flt := { code := 0x20, info32 := v.toNat % 2 ^ 32 }

def State.tensor? (s : State) (v : Nat) : Option (List Byte) :=
  match s.handle? v with
  | some ⟨_, _, .tensor r⟩ => some r
  | _ => none

def execCptile (f : Fields) (s : State) : Out :=
  s.issue (.cptile f) f fun s =>
    let a := srcNum f.a
    let block := (List.range 6).map fun k => s.rdS (a + k)
    let h := s.rdS a
    let hs := h.toNat % 2 ^ 32
    let hd := h.toNat / 2 ^ 32
    match s.tensor? hs, s.tensor? hd with
    | none, _ => s.fault (handleFault (.ofNat 64 hs))
    | _, none => s.fault (handleFault (.ofNat 64 hd))
    | some sr, some dr =>
      if (Tensor.ofRecord dr).flags % 2 = 1 then s.fault (handleFault (.ofNat 64 hd))
      else s.submitRecipe (.cptile f) f (.tile f.mod sr dr block (s.scalarSrc f.b) (s.scalarSrc f.c))

def execCpfill (f : Fields) (s : State) : Out :=
  s.issue (.cpfill f) f fun s =>
    let a := srcNum f.a
    let n := (s.rdS (a + 1)).toNat
    if 2 ^ 40 < n then s.fault blockFault
    else s.submitRecipe (.cpfill f) f (.fill (s.rdS a) n (s.scalarSrc f.b) (s.scalarSrc f.c))

/-! ## Batches and counters (R140 to R146) -/

def execAclose (f : Fields) (s : State) : Out :=
  s.issue (.aclose f) f fun s =>
    let n := s.grp.batchOpen
    (s.setGrp { s.grp with batchOpen := n + 1 }).retS (.aclose f) f.dst (.ofNat 64 (mod32 n))

/-- The first deferred 0x30 a target covers (R132, R143). -/
def State.coveredFault (s : State) (n : Nat) : Option Nat := s.grp.pend30.find? (covers n s.grp)

/-- An AWAIT whose target is reached raises a covered deferred error, or goes on (R143). -/
def State.endAwait (s : State) (n : Nat) (next : Word) : State :=
  match s.coveredFault n with
  | some b => s.raise30 b
  | none => s.goto next

/-- AWAIT, or its wait for the batch its target names now (R143). -/
def execAwait (f : Fields) (s : State) : Out :=
  s.issue (.await f) f fun s =>
    let n := (s.scalarSrc f.a).toNat
    if s.reached s.cur n then s.endAwait n (s.next (.await f))
    else s.beginWait (.await (batchTarget n s.grp.batchOpen) (s.next (.await f)))

def execAtest (f : Fields) (s : State) : Out :=
  s.issue (.atest f) f fun s =>
    let n := (s.scalarSrc f.a).toNat
    match s.coveredFault n with
    | some b => s.raise30 b
    | none => s.retS (.atest f) f.dst (if s.reached s.cur n then 1 else 0)

/-! ## Guards (R147, R148) -/

def State.waitsOn (s : State) (j : Job) (n : Nat) : Bool := j.grp == s.cur && j.guard == some n && j.st == .queued

/-- GSET (R147): resolves the slot for every command of the group that waits on it. Where a stale one waits for a page, GSET
waits, and a Deliver answer is GSET's own 0x10, the slot left open (log entry 66). -/
def execGset (f : Fields) (s : State) : Out :=
  s.issue (.gset f) f fun s =>
    let n := f.dst.toNat
    let set (g : Guard) (s : State) : State := s.setGrp { s.grp with guards := Map.set .true s.grp.guards n g }
    match (s.scalarSrc f.a).toNat with
    | 0 => (set .false { s with jobs := s.jobs.filter fun j => !s.waitsOn j n }).retire (.gset f)
    | 1 => s.checked (checkAll (fun j => if s.waitsOn j n then s.freshen j else .ok j) s.jobs) fun js =>
      let s' := set .true { s with
        jobs := js.filterMap fun j => if s.waitsOn j n then (if j.failed.isSome then none else some { j with guard := none }) else some j }
      match (js.filter (s.waitsOn · n)).filterMap (·.failed) with
      | e :: _ => s'.fault e
      | [] => s'.retire (.gset f)
    | 2 => if s.jobs.any fun j => s.waitsOn j n then s.fault { code := 0x22 } else (set .open s).retire (.gset f)
    | _ => s.fault (fieldFault 1)

/-! ## Cairn (R149 to R153) -/

def Team.bin (t : Team) (b : Nat) : BitVec 32 := Map.get 0 t.bins b
def Team.bumpBin (t : Team) (b : Nat) : Team := { t with bins := Map.set 0 t.bins b (t.bin b + 1) }

/-- Counts lanes in increasing order; each gets its bin's count before its own increment (R150). -/
def Team.countBins (t : Team) : List (Nat × Nat) → Team × List (Nat × Nat)
  | [] => (t, [])
  | (l, b) :: r =>
    let (t', rs) := (t.bumpBin b).countBins r
    (t', (l, (t.bin b).toNat) :: rs)

def execBncount (f : Fields) (s : State) : Out :=
  s.issue (.bncount f) f fun s =>
    let (t, rs) := s.team.countBins ((s.effLanes f.msk.toNat).map fun l => (l, (s.src32 f.a l).toNat % 256))
    ((s.setTeam t).wrLanes false f.dst.toNat rs).retire (.bncount f)

/-- The held command a valid id names (R149). -/
def State.heldJob? (s : State) (v : Word) : Option Job :=
  s.jobs.find? fun j => j.team == s.grp.team && match j.st with
    | .held idx tag _ => v.toNat == idx + 64 * tag
    | _ => false

def State.setJob (s : State) (j : Job) : State := { s with jobs := s.jobs.map fun x => if x.id = j.id then j else x }
def State.dropJob (s : State) (id : Nat) : State := { s with jobs := s.jobs.filter fun x => x.id != id }

def execBnpatch (f : Fields) (s : State) : Out :=
  s.issue (.bnpatch f) f fun s =>
    let b := (s.scalarSrc f.b).toNat
    let id := s.scalarSrc f.a
    if 255 < b then s.fault (fieldFault 2)
    else match s.heldJob? id with
    | some j => match j.st with
      | .held idx tag _ =>
        let v := min ((s.team.bin b).toNat * (s.scalarSrc f.c).toNat) (2 ^ 64 - 1)
        (s.setJob { j with recipe := j.recipe.patch v, st := .held idx tag true }).retire (.bnpatch f)
      | _ => s.fault (handleFault id)
    | none => s.fault (handleFault id)

/-- Releases a held job into its group's queue, last in it (R152). -/
def State.release (s : State) (j : Job) (guard : Option Nat) : State :=
  (s.dropJob j.id).enqueue { j with id := s.nextId, st := .queued, guard }

def Job.patched (j : Job) : Bool := match j.st with
  | .held _ _ p => p
  | _ => false

/-- BNREL (R151, R152): the guard applies from here, and one on an open slot of a group that has ended discards the command as
R250 does; a patched command's bytes are checked here, and a failed check, a Deliver answer too, discards it. -/
def execBnrel (f : Fields) (s : State) : Out :=
  s.issue (.bnrel f) f fun s =>
    let id := s.scalarSrc f.a
    let i : Instr := .bnrel f
    match s.heldJob? id with
    | none => s.fault (handleFault id)
    | some j =>
      let slot := j.guard.map (s.grpAt j.grp).guard
      let guard := if slot = some .open then j.guard else none
      if slot = some .false || (slot = some .open && (s.grpAt j.grp).ended) then (s.undeny.dropJob j.id).retire i
      else if j.patched || j.stale then
        match s.split.denied with
        | some e => (s.undeny.dropJob j.id).fault e
        | none => match s.replan { j with failed := none } with
          | .ok k => (s.release k guard).retire i
          | .flt e => (s.dropJob j.id).fault e
          | .wait t p m e => s.awaitAs t p m e true
      else match j.failed with
        | some e => if guard.isSome then (s.release j guard).retire i else (s.dropJob j.id).fault e
        | none => (s.release j guard).retire i

def execBnreset (f : Fields) (s : State) : Out :=
  s.issue (.bnreset f) f fun s => (s.setTeam { s.team with bins := [] }).retire (.bnreset f)

end Sys2Proof.Machine
end

