-- ==== Sys2Proof/Machine/Ctl.lean ====
section
/-!
DEFINITION. What a read of the device-control registers gives (R285, R303, R340, R344, R346, R356).
-/
namespace Sys2Proof.Machine

def State.port (s : State) (p : Nat) : Port := Map.get .empty s.ports p
def State.setPort (s : State) (p : Nat) (x : Port) : State := { s with ports := Map.set .empty s.ports p x }

def Link.state (l : Link) : Nat :=
  if l.training then 1 else if l.active == 0 then 0 else if l.active == 0xFF#8 then 2 else 3

/-- A link's status block (R340). -/
def Link.read (l : Link) (o : Nat) : Nat :=
  match o with
  | 0x00 => l.peerLink % 128 * 2 ^ 24 + l.peer % 256 * 2 ^ 16 + l.active.toNat * 2 ^ 8 + l.state
  | 0x08 => l.replays.toNat
  | 0x10 => l.downs.toNat
  | 0x18 => l.handbacks.toNat
  | 0x20 => l.berth
  | o => if 0x40 ≤ o && o < 0x80 then Map.get 0 l.berest ((o - 0x40) / 8) % 256 * 2 ^ 56 + Map.get 0 l.corrected ((o - 0x40) / 8) % 2 ^ 48 else 0

/-- The bring-up, firmware and attestation registers (R346 to R351). -/
def Boot.read (b : Boot) (o : Nat) : Nat :=
  match o with
  | 0x50000 => b.brstate
  | 0x50008 => b.fail.toNat
  | 0x50010 => b.fwstat
  | 0x50018 => Config.fwFloor.toNat * 2 ^ 32 + b.fwver % 2 ^ 32
  | 0x51028 => b.attstat
  | o =>
    if 0x51000 ≤ o && o < 0x51020 then Memory.rdN b.nonce (o - 0x51000) 8
    else if 0x51100 ≤ o && o < 0x51100 + 2768 then leNat ((b.report.drop (o - 0x51100)).take 8)
    else if 0x800000 ≤ o && o < 0x1000000 then Memory.rdN b.window (o - 0x800000) 8
    else 0

/-- An aligned 8-byte read of device control. `port` is none for a group on path 0xF, which reads the port
block as port 0 would (log entry 15). -/
def State.ctlRead (s : State) (port : Option Nat) (o : Nat) : Nat :=
  let p := port.getD 0
  let x := s.port p
  match o with
  | 0x10000 => s.gctl.target.toNat
  | 0x10008 => s.gctl.gsel.toNat
  | 0x10010 => s.gctl.seq.toNat
  | 0x10018 => s.gctl.act.toNat
  | 0x10020 => s.gctl.pc0.toNat
  | 0x10028 => s.gctl.pc1.toNat
  | 0x10048 => s.gctl.status
  | 0x40000 => s.ctlsem
  | 0x40008 => p * 2 ^ 48 + min x.rejects 0xFFFF * 2 ^ 32 + x.speed % 256 * 2 ^ 8 + 16
  | 0x40010 => (s.port 0).bar2ten % 32 * 2 ^ 48 + (s.port 0).bar2base % 2 ^ 12 * 2 ^ 36
  | 0x40018 => (s.port 1).bar2ten % 32 * 2 ^ 48 + (s.port 1).bar2base % 2 ^ 12 * 2 ^ 36
  | 0x60000 => (s.port 0).subaddr.toNat
  | 0x60008 => (s.port 0).subten.toNat
  | 0x60018 => if (s.port 0).subBusy then 2 ^ 63 else (s.port 0).subres.toNat
  | 0x60020 => (s.port 1).subaddr.toNat
  | 0x60028 => (s.port 1).subten.toNat
  | 0x60038 => if (s.port 1).subBusy then 2 ^ 63 else (s.port 1).subres.toNat
  | o =>
    if 0x20000 ≤ o && o < 0x21000 then (s.col ((o - 0x20000) / 8)).replays.toNat
    else if 0x30000 ≤ o && o < 0x34000 then (s.link ((o - 0x30000) / 128)).read ((o - 0x30000) % 128)
    else s.boot.read o

/-- An `n`-byte read of device control (log entry 15). -/
def State.ctlReadN (s : State) (port : Option Nat) (o n : Nat) : Nat :=
  (s.ctlRead port (o / 8 * 8) + s.ctlRead port (o / 8 * 8 + 8) * 2 ^ 64) / 2 ^ (8 * (o % 8)) % 2 ^ (8 * n)
/-- A byte a load reads: device control reads as its registers do. -/
def State.loadB (s : State) (l : Loc) : Byte := if l.sp = .ctl then .ofNat 8 (s.ctlReadN none l.a 1) else s.rdB l

end Sys2Proof.Machine
end

