-- ==== Sys2Proof/Machine/Succinct.lean ====
section
/-!
DEFINITION. Class 5, strings asked in memory (R102 to R127): SEAL and UNSEAL, the queries and their answers.
A query is queued at issue; its lanes are served one by one (EvMem).
-/
namespace Sys2Proof.Machine

/-! ## Records (R103 to R106, R135, R136) -/

/-- A leaf's placement in a memory stack: its stack number (R95). -/
def indexedStack (e : Nat) : Option Nat := if pteIX e && ptePlc e == 2 then some (pteTgt e) else none

/-- The 4 KiB pages a byte range lies in. -/
def pagesOf (a n : Nat) : List Nat :=
  if n = 0 then [] else (List.range ((a + n - 1) / 4096 + 1 - a / 4096)).map (a / 4096 + ·)

/-- The pages of a string: all indexed, of the tenant, in one stack, none past the generic space (R104); their frames,
and the stack. -/
def State.stringPages (s : State) (ten base bytes : Nat) : Option (List Nat × Nat) :=
  if 2 ^ 48 < base + bytes then none else
  let ls := (pagesOf base bytes).map fun p => match s.walk ten (4096 * p) with
    | .leaf e => if pteTen e = ten then (indexedStack e).map fun k => ((leafLoc e (4096 * p)).a, k) else none
    | _ => none
  match ls with
  | some (a, k) :: r => if r.all (fun x => x.any fun y => y.2 == k) then some (a :: r.filterMap (·.map (·.1)), k) else none
  | _ => none

/-- The pages of a trie array are present and of the tenant (R104). -/
def State.arrayPages (s : State) (ten base bytes : Nat) : Bool :=
  base + bytes ≤ 2 ^ 48 && (pagesOf base bytes).all fun p => match s.walk ten (4096 * p) with
    | .leaf e => pteTen e == ten
    | _ => false

def allZero (bs : List Byte) (lo n : Nat) : Bool := ((bs.drop lo).take n).all (· == 0)

/-- A directory's size: 7% of the string in whole superblocks, and a 256-byte header (R111; log entry 12). -/
def dirBytes (len : Nat) : Nat := ((len + 4095) / 4096 * 512 * 7 + 99) / 100 + 256

/-- R112: a stack's directory area has room for one more. -/
def State.dirRoom (s : State) (stack len : Nat) : Bool :=
  let ds := s.dirs.filter (·.stack == stack)
  ds.length < 4096 && ds.foldl (fun n d => n + dirBytes d.len) 0 + dirBytes len ≤ s.set.dirArea

/-- The lowest free index of a team's handle table, 0 when it is full (R107). -/
def Team.freeHandle (t : Team) : Nat :=
  ((List.range 256).drop 1 |>.find? fun k => !t.handles.any fun h => h.idx == k).getD 0

/-! ## Strings (R102) -/

def State.dir? (s : State) (id : Nat) : Option Dir := s.dirs.find? (·.id == id)

/-- The home place of byte `k` of a string. -/
def Dir.loc (d : Dir) (k : Nat) : Loc :=
  ⟨.mem true true, d.pages.getD ((d.base + k) / 4096 - d.base / 4096) 0 + (d.base + k) % 4096⟩

/-- The bits of a string as they stand (R102, R115). -/
def State.bits (s : State) (d : Dir) : List Bool :=
  (List.range d.len).map fun i => (s.rdB (d.loc (i / 8))).getLsbD (i % 8)

/-- Ones before position `p`. -/
def ones (b : List Bool) (p : Nat) : Nat := (b.take p).count true
/-- E(i) (R121). -/
def excess (b : List Bool) (i : Nat) : Int := 2 * (ones b i : Int) - i

/-! ## Directories (R111, R114, R118) -/

/-- Bits `lo` to `hi - 1`. -/
def slice (b : List Bool) (lo hi : Nat) : List Bool := (b.take hi).drop lo
def onesIn (b : List Bool) (lo hi : Nat) : Nat := (slice b lo hi).count true

/-- How many pieces of `n` bits a string of `len` has. -/
def pieces (len n : Nat) : Nat := (len + n - 1) / n

def hyperOnes (b : List Bool) : List Nat := (List.range (pieces b.length (2 ^ 20))).map fun h => onesIn b (2 ^ 20 * h) (2 ^ 20 * (h + 1))

/-- The least power of two in a positive number. -/
def lowBit : Nat → Nat → Nat
  | 0, k => k
  | fuel + 1, k => if k % 2 = 1 then 1 else 2 * lowBit fuel (k / 2)

/-- A Fenwick tree over a list: node k holds the sum of the elements k − lowbit(k) to k − 1. -/
def fenwick (ds : List Int) : List Int :=
  (List.range ds.length).map fun k =>
    let n := lowBit 64 (k + 1)
    ((ds.take (k + 1)).drop (k + 1 - n)).foldl (· + ·) 0

/-- Least and greatest excess at the positions after bits `lo` to `hi - 1`, relative to the excess at `lo`. R111 states none for
a block wholly past the string's end: here its minimum is 65,536 (log entry 74). -/
def excessRange (b : List Bool) (lo hi : Nat) : Int × Int :=
  (slice b lo hi).foldl (fun (x : Int × Int × Int) v =>
      let e := x.1 + (if v then 1 else -1)
      (e, min x.2.1 e, max x.2.2 e)) (0, 64 * 2 ^ 10, -64 * 2 ^ 10) |>.2

/-- One level of the tree of minima and maxima: the pairs of 16 children at a time. -/
def fanIn (xs : List (Int × Int)) : List (Int × Int) :=
  (List.range (pieces xs.length 16)).map fun k =>
    let c := (xs.take (16 * (k + 1))).drop (16 * k)
    (c.foldl (fun m x => min m x.1) (c.headD (0, 0)).1, c.foldl (fun m x => max m x.2) (c.headD (0, 0)).2)
def fanLevels : Nat → List (Int × Int) → List (List (Int × Int))
  | 0, _ => []
  | fuel + 1, xs => if xs.length ≤ 1 then [] else fanIn xs :: fanLevels fuel (fanIn xs)

/-- Positions of every 8,192nd of the wanted bits. -/
def samples (b : List Bool) (v : Bool) : List Nat :=
  ((List.range b.length).filter fun i => b.getD i false == v).zipIdx.filterMap fun p => if (p.2 + 1) % 8192 = 0 then some p.1 else none

/-- The exact parts of a directory on the bits as they stand, `sealed` the ones of each hyperblock at SEAL. The
samples guide the search only. -/
def dirParts (kind : Nat) (sealedOnes : List Nat) (b : List Bool) : DirParts :=
  let sup := List.range (pieces b.length 4096)
  let abs (k : Nat) : Int × Int :=
    let r := excessRange b (4096 * k) (4096 * (k + 1))
    let e := 2 * (onesIn b 0 (4096 * k) : Int) - 4096 * k
    (e + r.1, e + r.2)
  { rank := sup.map fun k =>
      ((sealedOnes.take (k / 256)).foldl (· + ·) 0 + onesIn b (2 ^ 20 * (k / 256)) (4096 * k),
       (List.range 7).map fun j => onesIn b (4096 * k) (4096 * k + 512 * (j + 1)))
    tree := fenwick ((hyperOnes b).zipIdx.map fun p => (p.1 : Int) - sealedOnes.getD p.2 0)
    ones := samples b true
    zeros := samples b false
    excess := if kind = 1 then sup.map fun k =>
        ((List.range 8).map fun j => (excessRange b (4096 * k + 512 * j) (4096 * k + 512 * (j + 1))).1,
         excessRange b (4096 * k) (4096 * (k + 1))) else []
    levels := if kind = 1 then fanLevels 8 (sup.map abs) else [] }

/-- The directory's parts on its string as it stands. -/
def State.partsOf (s : State) (d : Dir) : DirParts := dirParts d.kind d.sealedOnes (s.bits d)

/-- The physical ranges a string lies in, page by page. -/
def Dir.spans (d : Dir) : List (Nat × Nat) :=
  let n := d.base % 4096 + (d.len + 7) / 8
  d.pages.zipIdx.map fun p => (p.1 + (if p.2 = 0 then d.base % 4096 else 0), p.1 + min 4096 (n - 4096 * p.2))
/-- A byte of a string lies in a range of memory. -/
def Dir.touches (d : Dir) (l : Loc) (n : Nat) : Bool := l.sp.key == 0 && d.spans.any fun r => r.1 < l.a + n && l.a < r.2
/-- Two strings have a byte in common. -/
def Dir.meets (d e : Dir) : Bool := d.spans.any fun r => e.spans.any fun t => r.1 < t.2 && t.1 < r.2

/-- A string lies in the 4 KiB page of a place. -/
def Dir.holds (d : Dir) (l : Loc) : Bool := d.pages.contains (l.a / 4096 * 4096)
def Loc.indexed (l : Loc) : Bool := match l.sp with
  | .mem ix _ => ix
  | _ => false

/-- A string write brings the built directories of every string it touches up to date in the same step (R114). -/
def State.keepDirs (s : State) (ls : List Loc) : State :=
  let hit := ls.filter Loc.indexed
  if hit.isEmpty then s
  else { s with dirs := s.dirs.map fun d => if d.built && hit.any d.holds then { d with parts := s.partsOf d } else d }

/-- A write by an agent of a job at its home: logged where it must be (R310), directories kept exact (R114). -/
def State.homeWrite (s : State) (ten : Nat) (job : Word) (l : Loc) (n v : Nat) : State :=
  (s.jobWrite ten job l n v).keepDirs [l]

/-- The string or the directory lies in a DRAM bank whose activations are throttled (R118). Which bank a line or a
directory lies in is the part's (log entry 59). -/
def State.dirThrottled (s : State) (d : Dir) : Bool :=
  s.throttled.any fun b => Config.dirBank d.id b ||
    (List.range ((d.len + 511) / 512)).any fun k => Config.lineBank ((d.loc (64 * k)).a / 64) == b

/-- The checks of R136 on a tensor record, in order; 0 when all pass. -/
def tensorStatus (r : List Byte) : Nat :=
  let t := Tensor.ofRecord r
  let w := elemW t.elem
  let at_ (xs : List Nat) (d : Nat) : Nat := xs.getD d 0
  let beyond := (List.range 4).filter fun d => t.rank ≤ d
  let path := t.base / 2 ^ 60
  let low := t.base % 2 ^ 60
  let span := (List.range 4).foldl (fun n d => n + if d = 0 then 0 else (at_ t.dims d - 1) * at_ t.strides d) 0
  let last := low + span + (at_ t.dims 0 * w + 7) / 8 - 1
  let pathBad := 2 ^ 60 ≤ last || match path with
    | 3 => low / 2 ^ 27 != 0 || 2 ^ 27 ≤ last
    | 4 => !winLayout low || !winLayout last || winCol last != winCol low || winArea last != winArea low
    | 5 => low / 2 ^ 48 % 16 != 0 || 2 ^ 48 ≤ last % 2 ^ 52 || last / 2 ^ 52 != low / 2 ^ 52
    | p => 5 < p || low / 2 ^ 48 != 0 || 2 ^ 48 ≤ last
  if field r 8 1 / 16 != 0 || t.flags / 2 != 0 || !allZero r 11 5 || !allZero r 52 11 then 16
  else if t.rank = 0 || 4 < t.rank then 17
  else if t.dims.any (· == 0) || beyond.any (fun d => at_ t.dims d != 1 || at_ t.strides d != 0) then 18
  else if at_ t.strides 0 != 0 || (8 ≤ w && (t.base % (w / 8) != 0 || t.strides.any fun x => x % (w / 8) != 0)) then 19
  else if pathBad then 20
  else 0

/-- The checks of R106 on a bit-string record up to its pages, in order. -/
def stringStatus (r : List Byte) : Nat :=
  let kind := field r 16 1
  let len := field r 8 8
  let nodes := field r 40 8
  let hi (a : Nat) : Bool := a / 2 ^ 48 != 0
  if 2 < kind then 3
  else if !allZero r 17 7 || !allZero r 48 15 || (kind != 2 && !allZero r 24 24) then 2
  else if len = 0 || 2 ^ 39 < len || (kind == 2 && (len != 2 * nodes + 1 || nodes = 0 || 2 ^ 31 < nodes)) then 4
  else if hi (field r 0 8) || field r 0 8 % 64 != 0 || hi (field r 24 8) || hi (field r 32 8) || field r 32 8 % 4 != 0 then 5
  else 0

/-- SEAL's result word (R106). -/
def sealResult (status handle : Nat) : Word := .ofNat 64 (status * 2 ^ 32 + handle)

/-- Enters a record in the team's handle table. -/
def State.addHandle (s : State) (idx : Nat) (k : HKind) : Nat × State :=
  let (tag, s) := s.drawTag s.team.ten (2 ^ 24)
  let t := s.team
  (idx + 256 * tag, s.setTeam { t with handles := t.handles ++ [⟨idx, tag, k⟩] })

/-- SEAL's status and handle, its effect applied (R105 to R108, R136). -/
def State.sealRecord (s : State) (r : List Byte) : Word × State :=
  let idx := s.team.freeHandle
  let no (st : Nat) : Word × State := (sealResult st 0, s)
  match field r 63 1 with
  | 1 =>
    let len := field r 8 8
    let ten := s.team.ten
    let nodes := field r 40 8
    let kind := field r 16 1
    let arrays := kind != 2 || (s.arrayPages ten (field r 24 8) (nodes - 1) && s.arrayPages ten (field r 32 8) (4 * nodes))
    match stringStatus r with
    | 0 => match s.stringPages ten (field r 0 8) ((len + 7) / 8) with
      | none => no 6
      | some (pages, stack) =>
        if !arrays then no 6
        else if idx = 0 then no 7
        else if !s.dirRoom stack len then no 8
        else
          let (id, s) := s.newId
          let d : Dir :=
            { id, ten, base := field r 0 8, len, kind, labels := field r 24 8, values := field r 32 8, nodes, stack, pages
              built := false, sealedOnes := [], parts := .empty }
          let d := { d with sealedOnes := hyperOnes (s.bits d) }
          let (h, s) := ({ s with dirs := s.dirs ++ [d] }).addHandle idx (.bits id)
          (sealResult 0 h, s)
    | k => no k
  | 2 =>
    if idx = 0 then no 7
    else match tensorStatus r with
    | 0 =>
      let (h, s) := s.addHandle idx (.tensor r)
      (sealResult 0 h, s)
    | k => no k
  | _ => no 1

/-- Bytes at places; a peer's memory gives free values (log entry 6). -/
def State.readLocs (s : State) : List Loc → List Byte × State
  | [] => ([], s)
  | l :: r =>
    let (b, s) := match l.sp with
      | .remote _ => let (w, s) := s.fresh; (w.setWidth 8, s)
      | _ => (s.loadB l, s)
    let (bs, s) := s.readLocs r
    (b :: bs, s)

/-- The group's accesses are complete, and what a release the read observes covers, before a record is read (R105). -/
def State.afterStores (s : State) (ls : List Loc) (k : State → State) : State :=
  if !s.drained s.cur || ls.any fun l => s.owes (.split s.cur) 4 l 1 then s.waitAt .drain else k s

def execSealStr (f : Fields) (s : State) : Out :=
  s.issue (.sealStr f) f fun s =>
    s.checked (s.access s.team (s.scalarSrc f.a) 64 64 .read) fun l => s.withFlash [l] fun s => s.afterStores (Run.locs ⟨l, 64⟩) fun s =>
      let (r, s) := s.readLocs (Run.locs ⟨l, 64⟩)
      let (v, s) := s.sealRecord r
      s.retS (.sealStr f) f.dst v

def execUnsealStr (f : Fields) (s : State) : Out :=
  s.issue (.unsealStr f) f fun s =>
    match s.handle? (s.scalarSrc f.a).toNat with
    | none => s.retS (.unsealStr f) f.dst 1
    | some h =>
      let t := s.team
      ((s.setTeam { t with handles := t.handles.filter (·.idx != h.idx) }).gcDirs).retS (.unsealStr f) f.dst 0

/-! ## Plain answers (R121, R122) -/

def qRank1 (b : List Bool) (p : Nat) : Option Nat := if p ≤ b.length then some (ones b p) else none
def qRank0 (b : List Bool) (p : Nat) : Option Nat := if p ≤ b.length then some (p - ones b p) else none
def qSel1 (b : List Bool) (k : Nat) : Option Nat :=
  if 1 ≤ k ∧ k ≤ ones b b.length then (List.range b.length).find? fun i => ones b (i + 1) == k else none
def qSel0 (b : List Bool) (k : Nat) : Option Nat :=
  if 1 ≤ k ∧ k ≤ b.length - ones b b.length then (List.range b.length).find? fun i => i + 1 - ones b (i + 1) == k else none
def qFclose (b : List Bool) (p : Nat) : Option Nat :=
  if b.getD p false then
    ((List.range b.length).drop (p + 1)).find? fun j => excess b (j + 1) == excess b p
  else none
def qFopen (b : List Bool) (p : Nat) : Option Nat :=
  if b.length ≤ p || b.getD p false then none
  else (List.range p).reverse.find? fun i => excess b i == excess b (p + 1)
def qEncl (b : List Bool) (p : Nat) : Option Nat :=
  if b.length ≤ p then none
  else
    let e := if b.getD p false then excess b p else excess b (p + 1)
    (List.range p).reverse.find? fun i => excess b i == e - 1
/-- The smallest position of a list at which a measure is least. -/
def leastAt (m : Nat → Int) : Nat → List Nat → Nat
  | best, [] => best
  | best, x :: r => leastAt m (if m x < m best then x else best) r
def qExmin (b : List Bool) (p q : Nat) : Option Nat :=
  if q < p || b.length ≤ q then none
  else some (leastAt (fun i => excess b (i + 1)) p ((List.range (q + 1)).drop (p + 1)))

/-- A query's answer on a string of a kind, by opcode (R119, R121, R122). -/
def qAnswer (op kind : Nat) (b : List Bool) (x y : Nat) : Option Nat :=
  match op with
  | 0x282 => qRank1 b x
  | 0x283 => qRank0 b x
  | 0x284 => qSel1 b x
  | 0x285 => qSel0 b x
  | 0x286 => if kind = 1 then qFclose b x else none
  | 0x287 => if kind = 1 then qFopen b x else none
  | 0x288 => if kind = 1 then qEncl b x else none
  | _ => if kind = 1 then qExmin b x y else none

/-- A result at the query's width; none is all ones (R120). -/
def qDeliver (wide : Bool) (r : Option Nat) : Nat :=
  let none_ := if wide then 2 ^ 64 - 1 else 2 ^ 32 - 1
  match r with
  | some v => if v < none_ then v else none_
  | none => none_

/-! ## TKMATCH and UTFCUT (R124 to R127) -/

/-- t(a, L), from the last bytes, last first (R127). -/
def utfTail : Nat → List Byte → Nat
  | _, [] => 0
  | j, b :: r =>
    let n := b.toNat
    if n / 64 = 2 then utfTail (j + 1) r
    else
      let need := if n / 32 = 6 then 2 else if n / 16 = 14 then 3 else if n / 8 = 30 then 4 else 1
      if j < need then j else 0
def utfT (bs : List Byte) : Nat := utfTail 1 (bs.reverse.take 3)

/-- The walk's start: the root, no token yet, and the depth it may reach (R126). -/
def Trie.start (len : Nat) (input : List Byte) : Trie :=
  ⟨0, 0, none, 0xFFFFFFFF, 0, if 4096 < len then 4096 - utfT input else len, input⟩

/-- One query read of TKMATCH's walk (R126): SEL0 finds a node's first child, RANK1 at a child's position its node.
It goes on, or ends with the id and the length. Where the second SEL0 has no answer, of a malformed or rewritten string, the node
has no child: R126 does not say what that answer plus one is (log entry 90). -/
def trieStep (b : List Bool) (nodes : Nat) (label value : Nat → Nat) (ctl : Bool) (t : Trie) : Trie ⊕ (Nat × Nat) :=
  match t.c with
  | none => if t.limit ≤ t.d then .inr (t.id, t.len) else .inl { t with c := some ((qSel0 b (t.v + 1)).elim b.length (· + 1)) }
  | some p =>
    if p < b.length && b.getD p false then
      let u := ones b p
      if 1 ≤ u && u < nodes && label u == (t.input.getD t.d 0).toNat then
        let e := value u
        let t := { t with v := u, d := t.d + 1, c := none }
        .inl (if e % 2 ^ 31 != 0x7FFFFFFF && (e < 2 ^ 31 || ctl) then { t with id := e % 2 ^ 31, len := t.d } else t)
      else .inl { t with c := some (p + 1) }
    else .inr (t.id, t.len)

/-- A virtual byte of a tenant as the walk finds it now; a walk reads one only once its check has passed. -/
def State.virtByte (s : State) (ten va : Nat) : Nat :=
  match s.walk ten va with
  | .leaf e => (s.rdB (leafLoc e va)).toNat
  | _ => (Config.freeValue s.freeCtr).toNat % 256
def State.virtNat (s : State) (ten va : Nat) : Nat → Nat
  | 0 => 0
  | n + 1 => s.virtByte ten va + 256 * s.virtNat ten (va + 1) n

/-- The label the next query read of a walk looks at, and, where it is the input's byte, the value: their places, checked as a
load's (R96, R98, R125). -/
def State.tkReads (s : State) (d : Dir) (t : Trie) : Chk (List Loc) :=
  let b := s.bits d
  let at_ (va : Nat) : Chk Loc := s.translate d.ten va va .read false
  match t.c with
  | none => .ok []
  | some p =>
    let u := ones b p
    if !(p < b.length && b.getD p false && 1 ≤ u && u < d.nodes) then .ok []
    else (at_ (d.labels + u - 1)).bind fun l =>
      if s.granuleReady l && (s.rdB l).toNat == (t.input.getD t.d 0).toNat then
        (checkAll (fun k => at_ (d.values + 4 * u + k)) (List.range 4)).bind fun vs => .ok (l :: vs)
      else .ok [l]

/-- One query read of a lane's walk on the string, labels and values as they stand (R125, R126). -/
def State.tkstep (s : State) (d : Dir) (ctl : Bool) (t : Trie) : Trie ⊕ (Nat × Nat) :=
  trieStep (s.bits d) d.nodes (fun u => s.virtByte d.ten (d.labels + u - 1)) (fun v => s.virtNat d.ten (d.values + 4 * v) 4) ctl t

/-! ## What a lane of a query reads (R116, R125, R228) -/

/-- The places of a virtual range of a tenant, page by page. -/
def State.virtSpans (s : State) (ten base n : Nat) : List (Loc × Nat) :=
  (pagesOf base n).filterMap fun p => match s.walk ten (4096 * p) with
    | .leaf e =>
      let lo := max base (4096 * p)
      some (leafLoc e lo, min (base + n) (4096 * (p + 1)) - lo)
    | _ => none

/-- Every range a lane may read: its input, its string, and for TKMATCH the label and value arrays; with whether the path is
0x5 in this module itself. Which labels and values a walk meets is not known beforehand: it counts as reading all (log entry 76). -/
def State.laneSpans (s : State) (q : Query) (x : QLane) : List (Bool × Loc × Nat) :=
  x.src.map (fun l => (x.own5, l, 1)) ++ match s.dir? q.dir with
    | none => []
    | some d => d.spans.map (fun r => (false, ⟨.mem true true, r.1⟩, r.2 - r.1)) ++
        (if q.op = 0x28A then s.virtSpans d.ten d.labels (d.nodes - 1) ++ s.virtSpans d.ten d.values (4 * d.nodes) else []).map fun r => (false, r.1, r.2)

/-- Bytes a lane of a query may read lie at a place. -/
def State.laneReads (s : State) (q : Query) (x : QLane) (l : Loc) (n : Nat) (own5 : Bool) : Bool :=
  (s.laneSpans q x).any fun r => r.1 == own5 && r.2.1.overlaps r.2.2 l n
/-- Two lanes may read a byte in common. -/
def State.laneShares (s : State) (q : Query) (x : QLane) (r : Query) (y : QLane) : Bool :=
  (s.laneSpans q x).any fun a => s.laneReads r y a.2.1 a.2.2 a.1

/-! ## Issue (R119, R120, R125) -/

/-- The query's handle names a live bit string of an accepted kind. -/
def State.queryDir? (s : State) (v : Word) (only2 : Bool) : Option Dir :=
  match s.handle? v.toNat with
  | some ⟨_, _, .bits id⟩ => (s.dir? id).filter fun d => !only2 || d.kind == 2
  | _ => none

def State.pushQuery (s : State) (f : Fields) (op : Nat) (wide : Bool) (dir : Nat) (cut : Bool) (lanes : List QLane) : State :=
  { s with
    nextId := s.nextId + 1
    queries := s.queries ++ [{ id := s.nextId, grp := s.cur, sp := s.curSplit, pc := s.split.pc, op, wide, dir, dst := f.dst.toNat
                               lanes, cut, ctl := s.launch.ctl, region := s.grp.regionOpen }] }

/-- The shared form of the eight queries: one query read per effective lane. -/
def query (i : Instr) (f : Fields) (op : Nat) (s : State) : Out :=
  s.issue i f fun s =>
    let h := s.scalarSrc f.a
    let wide := f.mod.getLsbD 0
    let ls := s.effLanes f.msk.toNat
    if ls.isEmpty then s.retire i
    else match s.queryDir? h false with
    | none => s.fault (handleFault h)
    | some d =>
      (s.pushQuery f op wide d.id false (ls.map fun l => { lane := l, x := s.vsrc wide f.b l, y := s.vsrc wide f.c l, src := [], res := none })).retire i

def execRank1 (f : Fields) (s : State) : Out := query (.rank1 f) f 0x282 s
def execRank0 (f : Fields) (s : State) : Out := query (.rank0 f) f 0x283 s
def execSel1 (f : Fields) (s : State) : Out := query (.sel1 f) f 0x284 s
def execSel0 (f : Fields) (s : State) : Out := query (.sel0 f) f 0x285 s
def execFclose (f : Fields) (s : State) : Out := query (.fclose f) f 0x286 s
def execFopen (f : Fields) (s : State) : Out := query (.fopen f) f 0x287 s
def execEncl (f : Fields) (s : State) : Out := query (.encl f) f 0x288 s
def execExmin (f : Fields) (s : State) : Out := query (.exmin f) f 0x289 s

/-- The input bytes of a lane, checked as a load's; paths 0x4 and 0xF raise 0x11 (R125). -/
def State.inputLocs (s : State) (l : Nat) (a : Word) (n : Nat) : Chk (List Loc) :=
  let p := a.toNat / 2 ^ 60
  if n = 0 then .ok []
  else if p = 4 || p = 15 then (Chk.flt (accFlt 0x11 .read a.toNat)).lane l
  else (s.span s.team a.toNat n 1 .read).lane l

/-- Checks every lane's input, then queues the query. `rng` gives a lane's first address and byte count. -/
def inputQuery (i : Instr) (f : Fields) (op dir : Nat) (len : Nat → Nat) (rng : Nat → Word × Nat) (s : State) : State :=
  let ls := s.effLanes f.msk.toNat
  if ls.isEmpty then s.retire i
  else s.checked (checkAll (fun l => (s.inputLocs l (rng l).1 (rng l).2).bind fun xs =>
      .ok ({ lane := l, x := 0, y := len l, src := xs, res := none, own5 := (rng l).1.toNat / 2 ^ 60 == 5 } : QLane)) ls)
    fun qs => ((s.wantFlash (qs.flatMap (·.src))).pushQuery f op (op == 0x28A) dir (ls.any fun l => 4096 < len l) qs).retire i

def execTkmatch (f : Fields) (s : State) : Out :=
  s.issue (.tkmatch f) f fun s =>
    let h := s.scalarSrc f.a
    if (s.effLanes f.msk.toNat).isEmpty then s.retire (.tkmatch f)
    else match s.queryDir? h true with
    | none => s.fault (handleFault h)
    | some d =>
      let len (l : Nat) : Nat := (s.src32 f.c l).toNat
      inputQuery (.tkmatch f) f 0x28A d.id len (fun l => (s.src64 f.b l, min (len l) 4096)) s

def execUtfcut (f : Fields) (s : State) : Out :=
  s.issue (.utfcut f) f fun s =>
    let len (l : Nat) : Nat := (s.src32 f.b l).toNat
    inputQuery (.utfcut f) f 0x28B 0 len
      (fun l => (s.src64 f.a l + .ofNat 64 (len l - min 3 (len l)), min 3 (len l))) s

/-! ## IXSTAT (R123) -/

def State.dirStat (s : State) (d : Dir) : Nat := d.built.toNat * 16 + d.kind * 4 + (if s.dirThrottled d then 2 else if d.built then 1 else 0)

def execIxstat (f : Fields) (s : State) : Out :=
  s.issue (.ixstat f) f fun s =>
    s.retS (.ixstat f) f.dst (match s.queryDir? (s.scalarSrc f.a) false with
      | some d => .ofNat 64 (s.dirStat d)
      | none => 15)

end Sys2Proof.Machine
end

