-- ==== Sys2Proof/Machine/Counter.lean ====
section
/-!
DEFINITION. Class 4: CWAITGE, which waits for a counter in memory (R144).
-/
namespace Sys2Proof.Machine

/-- Split `k` of a group may read its counter at a scope: the group's earlier accesses and queries of it, its own earlier acquires
and path 0xF accesses (R228, R236), what a barrier orders before it (R239), and what a release it observes covers, are complete
(R229). -/
def State.mayPoll (s : State) (gi k : Nat) (a : Word) (l : Loc) (scope : Nat) : Bool :=
  let own5 := a.toNat / 2 ^ 60 == 5
  s.pend.all (fun p => !(p.grp == gi && ((p.acq && p.sp == k) ||
    p.lanes.any fun y => y.res.isNone && y.own5 == own5 && y.loc.overlaps p.n l 8))) &&
    s.queries.all (fun q => !(q.grp == gi && q.lanes.any fun y => s.laneReads q y l 8 own5)) &&
    s.synced gi s.nextId && !s.owes (.split gi) scope l 8

/-- Its read of a peer's counter is under way. -/
def State.polling (s : State) (gi k : Nat) : Bool :=
  s.remote.any fun x => x.grp == gi && x.sp == k && match x.who with
    | .poll .. => true
    | _ => false

/-- The read of a peer's counter: eight bytes of its line (R338). -/
def State.sendPoll (s : State) (peer : Nat) (a target : Nat) (next : Word) : State :=
  s.sendRemote { peer, addr := a / 128 * 128, op := .access (.read ((List.range 8).map (a % 128 + ·))), resent := false
                 who := .poll target next, grp := s.cur, sp := s.curSplit, pc := s.split.pc, batch := 0 }

/-- CWAITGE's wait looks at its counter: the address is checked again, as its page may have changed, and the granule may have gone
from the staging cache; at the target the split goes on. What it waits for stands since it issued (R42, R144). -/
def State.endCwait (s : State) (a : Word) (target scope : Nat) (next : Word) : State :=
  let stay (s : State) : State := s.waitAt (.cwait a target scope next)
  match s.access s.team a 8 8 .read with
  | .flt f => s.fault f
  | .wait t p m f => (s.setSplit { s.split with resume := .cwait a target scope next }).await t p m f
  | .ok l =>
    let ok := s.mayPoll s.cur s.curSplit a l scope
    if !s.granuleReady l then stay (s.wantFlash [l])
    else match l.sp with
      | .remote p => stay (if ok && !s.polling s.cur s.curSplit then s.sendPoll p l.a target next else s)
      | _ => if ok && target ≤ s.rdN l 8 then s.goto next else stay s

/-- CWAITGE reads the counter as an acquire at its scope, through the staging cache (R77); below the target it waits. A peer's
counter is read by a transaction, whose answer ends the wait or has the split ask again (R144). -/
def execCwaitge (f : Fields) (s : State) : Out :=
  s.issue (.cwaitge f) f fun s =>
    let a := s.scalarSrc f.a
    let target := (s.scalarSrc f.b).toNat
    let scope := bits f.mod 6 3
    if a.toNat / 2 ^ 60 = 4 || a.toNat / 2 ^ 60 = 15 then s.fault (accFlt 0x11 .read a.toNat)
    else s.checked (s.access s.team a 8 8 .read) fun l => s.withFlash [l] fun s =>
      let ok := s.mayPoll s.cur s.curSplit a l scope
      match l.sp with
      | .remote p =>
        (if ok && !s.polling s.cur s.curSplit then s.sendPoll p l.a target (s.next (.cwaitge f)) else s).beginWait
          (.cwait a target scope (s.next (.cwaitge f)))
      | _ => if ok && target ≤ s.rdN l 8 then s.retire (.cwaitge f) else s.beginWait (.cwait a target scope (s.next (.cwaitge f)))

end Sys2Proof.Machine
end

