-- ==== Sys2Proof/Machine/Flash.lean ====
section
/-!
DEFINITION. Class 4, page moves and flash installs at issue (R74 to R82). The flash logic dies carry an
install on (EvEngine).
-/
namespace Sys2Proof.Machine

/-! ## PGMOVE (R74, R76) -/

def unitBytes : Nat := 2 ^ 21

/-- Placement and target number a PGMOVE target means: PLC and TGT; none when invalid. -/
def moveTarget (t col : Nat) : Option (Nat × Nat) :=
  if t < 0x200 then some (1, t)
  else if 0x200 ≤ t && t ≤ 0x20F then some (2, t - 0x200)
  else if t = 0x210 then some (0, 0)
  else if t = 0x3FF then some (1, col)
  else none

/-- A page the hardware may move (R74). -/
def moveEligible (e : Nat) : Bool := pteSize e ≤ 3 && !pteIX e && !pteD e && !pteF e

/-- The page number (4 KiB units) of the page that holds `va` under its leaf. -/
def pageBase (e va : Nat) : Nat := va / 4096 / pageUnits (pteSize e) * pageUnits (pteSize e)

def State.setPin (s : State) (ten page : Nat) (pin : Bool) : State :=
  let r := s.pinned.filter (· != (ten, page))
  { s with pinned := if pin then (ten, page) :: r else r }

/-! ### Capacities (R2, R3) -/

/-- Frames of 4 KiB of a vault, and of a memory stack less the staging cache's and the directories' shares (R77, R112). The staging
cache takes a sixteenth of its size from each of the sixteen stacks: R3 does not say how it is divided among them (log entry 89). -/
def vaultFrames : Nat := 2 ^ 18
def State.stackFrames (s : State) : Nat := 2 ^ 24 - (s.set.stagingSize / 16 + s.set.dirArea) / 4096

/-- Where a placement's frames are counted: a vault's column, 512 and the stack, or 528 for interleaved pages. -/
def placeKey (plc tgt : Nat) : Nat := if plc = 1 then tgt else if plc = 2 then 512 + tgt % 16 else 528
/-- Frames that ranges of first frame and count cover, each once, the ranges by rising first frame. -/
def covered : Nat → List (Nat × Nat) → Nat
  | _, [] => 0
  | at_, (lo, n) :: r => (lo + n - max lo at_) + covered (max at_ (lo + n)) r
def insertRange (x : Nat × Nat) : List (Nat × Nat) → List (Nat × Nat)
  | [] => [x]
  | y :: r => if x.1 ≤ y.1 then x :: y :: r else y :: insertRange x r
/-- Frames in use: one that several leaves place counts once. -/
def State.framesOf (s : State) (k : Nat) : Nat :=
  covered 0 (((s.placed.filter (·.key == k)).map fun p => (p.lo, p.n)).foldr insertRange [])

/-- A placement has room for `units` more frames; interleaved pages lie in every stack alike. -/
def State.hasRoom (s : State) (plc tgt units : Nat) : Bool :=
  if plc = 1 then s.framesOf tgt + units ≤ vaultFrames
  else if plc = 2 then s.framesOf (512 + tgt) + (s.framesOf 528 + 15) / 16 + units ≤ s.stackFrames
  else (List.range 16).all fun k => s.framesOf (512 + k) + (s.framesOf 528 + units + 15) / 16 ≤ s.stackFrames

/-- A leaf of a tenant's tables takes its frames where it places them, or gives them up. -/
def State.countLeaf (s : State) (ten e : Nat) (add : Bool) : State :=
  let p : Placed := ⟨ten, placeKey (ptePlc e) (pteTgt e), pteFrame e, pageUnits (pteSize e)⟩
  if pteF e then s else { s with placed := if add then p :: s.placed else s.placed.erase p }

def State.dropMigration (s : State) (ten va : Nat) : State :=
  { s with migrations := s.migrations.filter fun m => !(m.ten == ten && m.va == va) }

/-- A target with no room has no free frame; with room, whether one is free for the tenant is the part's to say (log
entry 13). A pin at the target ends an earlier move of the page (R74). -/
def State.pgmove (s : State) (pin : Bool) (a t : Word) : Nat × State :=
  let ten := s.team.ten
  if a.toNat / 2 ^ 48 != 0 then (5, s)
  else match s.walk ten a.toNat with
  | .leaf e =>
    if pteTen e != ten then (5, s)
    else match moveTarget t.toNat s.team.col with
    | none => (4, s)
    | some (plc, tgt) =>
      let page := pageBase e a.toNat
      if !moveEligible e then (2, s)
      else if ptePlc e == plc && pteTgt e == tgt then (1, (if pin then s.dropMigration ten (4096 * page) else s).setPin ten page pin)
      else if !s.hasRoom plc tgt (pageUnits (pteSize e)) then (3, s)
      else
        let (w, s) := s.fresh
        if w.getLsbD 0 then (3, s)
        else
          let s := (s.dropMigration ten (4096 * page)).setPin ten page pin
          (0, { s with migrations := s.migrations ++ [⟨ten, 4096 * page, plc * 512 + tgt, false⟩] })
  | _ => (5, s)

def execPgmove (f : Fields) (s : State) : Out :=
  s.issue (.pgmove f) f fun s =>
    let (v, s) := s.pgmove (f.mod.getLsbD 0) (s.scalarSrc f.a) (s.scalarSrc f.b)
    s.retS (.pgmove f) f.dst (.ofNat 64 v)

/-! ## WINSTALL and WSTAT (R78 to R82) -/

def State.region? (s : State) (n : Nat) : Option Region := s.regions.find? (·.n == n)
def State.setRegion (s : State) (r : Region) : State :=
  { s with regions := s.regions.map fun x => if x.n = r.n then r else x }

/-- The region tests at issue: a failing code, or the region accepted (R80). -/
def State.regionTest (s : State) (ten n : Nat) : Nat ⊕ Region :=
  match s.region? n with
  | none => .inl 6
  | some r =>
    if r.ten != ten then .inl 6
    else if r.installing then .inl 5
    else if r.budget < r.consumed + r.units.length then .inl 3
    else .inr r

/-- The record's address, checked as a store of 16 bytes; a path that is not generic raises 0x11. R79 asks for the
generic path: paths 0x1 and 0x2, which lead to the same memory, are taken as an access on them is, so a record on the
read-only path raises 0x14 (log entry 13). -/
def State.recordLoc (s : State) (a : Word) : Chk Loc :=
  let p := a.toNat / 2 ^ 60
  if (3 ≤ p && p ≤ 5) || p = 15 then .flt (accFlt 0x11 .engWrite a.toNat)
  else s.access s.team a 16 16 .engWrite

def execWinstall (f : Fields) (s : State) : Out :=
  s.issue (.winstall f) f fun s =>
    let src := (s.scalarSrc f.a).toNat
    let n := (s.scalarSrc f.b).toNat
    let rec_ := s.scalarSrc f.c
    s.checked (s.recordLoc rec_) fun l =>
      let ten := s.team.ten
      let test := s.regionTest ten n
      let units := (s.region? n).elim 0 (·.units.length)
      let foot := covering false [(src, units * unitBytes)] ++ [{ space := 4, lo := n, hi := n + 1, wr := true }] ++
        covering true [(rec_.toNat, 16)]
      let code := match test with
        | .inl c => some c
        | .inr _ => none
      let i : Install :=
        { id := s.nextId, grp := s.cur, team := s.grp.team, batch := s.grp.batchOpen, ten, region := n, src, record := l, recordAt := rec_, issuedAt := s.clock, code
          started := false, committed := false, news := [], bad := 0, tries := 0, data := [], foot }
      let s := match test with
        | .inl _ => s
        | .inr r => s.setRegion { r with installing := true }
      ({ s with nextId := s.nextId + 1, installs := s.installs ++ [i] }).retire (.winstall f)

/-- Highest program count of a region's current units, per mille of the rated 3,000 (R82). -/
def State.wearMille (s : State) (r : Region) : Nat :=
  min 0xFFFF (r.units.foldl (fun m u => max m (Map.get 0 s.wear u * 1000 / 3000)) 0)

def State.wstat (s : State) (n : Nat) (sel : Nat) : Word :=
  match s.region? n with
  | some r =>
    if r.ten != s.team.ten then BitVec.allOnes 64
    else if sel = 0 then
      .ofNat 64 ((r.budget - r.consumed) * 2 ^ 32 + s.wearMille r * 2 ^ 16 + min r.retired 255 * 2 ^ 8 + r.installing.toNat * 8 + r.lastCode % 8)
    else .ofNat 64 (r.installs % 2 ^ 32 * 2 ^ 32 + r.units.length)
  | none => BitVec.allOnes 64

def execWstat (f : Fields) (s : State) : Out :=
  s.issue (.wstat f) f fun s =>
    s.retS (.wstat f) f.dst (s.wstat (s.scalarSrc f.a).toNat (f.b.litVal.getD 0))

end Sys2Proof.Machine
end

