-- ==== Sys2Proof/Machine/Matrix.lean ====
section
/-!
DEFINITION. Class 4, the matrix engine (R58 to R64, R196 to R223). Quarter operations and AZERO join the
column's queue and are applied in matrix order (EvEngine); OLOAD and ASTORE are engine jobs.
-/
namespace Sys2Proof.Machine

/-! ## Formats (R58) -/

inductive ScaleKind where
  | unscaled
  | tile
  | per32
  | per8
  | per8Band
  | perRow

/-- Element code and scales of an MMA format. -/
def mmaElem : Nat → Nat × ScaleKind
  | 16 => (5, .tile)
  | 17 => (6, .tile)
  | 18 => (5, .per32)
  | 19 => (6, .per32)
  | 20 => (7, .per32)
  | 21 => (8, .per32)
  | 22 => (9, .per32)
  | 23 => (9, .per8)
  | 24 => (9, .per8Band)
  | 25 => (5, .per8Band)
  | 26 => (7, .per8Band)
  | 27 => (10, .perRow)
  | 28 => (12, .per8)
  | 29 => (12, .per8Band)
  | 30 => (13, .per32)
  | 31 => (10, .tile)
  | c => (c, .unscaled)

/-- Tile depth k (R58): how many elements of the format a 64-byte row holds; 64 for the 6-bit ones. -/
def mmaDepth (elem : Nat) : Nat := if elemW elem = 6 then 64 else 512 / elemW elem

/-- The scale registers a format reads, from Vs (R58). -/
def mmaScaleRegs (fmt : Nat) : List Nat :=
  let deep := mmaDepth (mmaElem fmt).1 == 128
  match (mmaElem fmt).2 with
  | .unscaled => []
  | .tile => [0, 1]
  | .perRow => [0]
  | .per32 => if deep then [0, 1, 2, 3] else [0, 2]
  | .per8 => [0, 1, 2, 3]
  | .per8Band => if deep then [0, 1, 2, 3, 4] else [0, 2, 4]

/-- Formats usable at a width of 16: those whose scale map names no lane above 15 (R205). -/
def mmaNarrow (fmt : Nat) : Bool := fmt < 18 || fmt == 31

/-! ## One quarter operation (R61, R63) -/

def scaleLane (sc : Map Lane) (reg lane : Nat) : Nat := (Map.get 0 sc (128 * reg + lane)).toNat

/-- The scale of row or column `r` at `k`; `b` is 0 for A and 1 for B. -/
def mmaScale (fmt bs q : Nat) (sc : Map Lane) (b r k : Nat) : FV :=
  let lane8 (j : Nat) : FV := e3m5 (scaleLane sc (2 * b + j / 8) (r + 16 * (j / 4 % 2)) / 2 ^ (8 * (j % 4)))
  match (mmaElem fmt).2 with
  | .unscaled => .fin false 1 0
  | .tile => fF32.decode (scaleLane sc b q)
  | .perRow => fF32.decode (scaleLane sc 0 (16 * b + r))
  | .per32 => e8m0 (scaleLane sc (2 * b + k / 32 / 2) (r + 16 * (k / 32 % 2)) / 2 ^ (8 * bs))
  | .per8 => lane8 (k / 8)
  | .per8Band => (lane8 (k / 8)).mul (fBf16.decode (scaleLane sc 4 q / 2 ^ (16 * b)))

/-- Element `k` of row `r` of a slot (R55, R59). -/
def slotElem (slots : Memory) (elem slot r k : Nat) : Nat :=
  let w := elemW elem
  Memory.rdN slots (1024 * slot + 64 * r) 64 / 2 ^ (k * w) % 2 ^ w

/-- One chunk of k: the exact total of its products and the accumulator, rounded once (R61). -/
def mmaChunk (f : Fmt) (terms : List FV) (acc : Option Nat) : Nat :=
  f.deliver .rn false (sumEx ((acc.map fun a => [f.decode a]).getD [] ++ terms) false)

/-- All chunks of one element, in increasing k. -/
def mmaChunks (f : Fmt) (chunk : Nat) (term : Nat → FV) : Nat → Nat → Option Nat → Option Nat
  | 0, _, acc => acc
  | n + 1, k, acc => mmaChunks f chunk term n (k + chunk) (some (mmaChunk f ((List.range chunk).map fun d => term (k + d)) acc))

/-- C(i, j) after a quarter operation, from its value before. Where integer elements have scales (codes 27 to 31) a
product of 0 takes its sign from the elements' signs, as R61 has it for the factors, though an integer 0 has none
(log entry 58). -/
def mmaElement (slots : Memory) (fmt bs q aslot bslot : Nat) (sc : Map Lane) (i j : Nat) (ov : Bool) (old : Nat) : Nat :=
  let e := (mmaElem fmt).1
  let depth := mmaDepth e
  let a (k : Nat) : Nat := slotElem slots e aslot i k
  let b (k : Nat) : Nat := slotElem slots e bslot j k
  if 10 ≤ fmt && fmt ≤ 15 then
    let t := (List.range depth).foldl (fun (t : Int) k => t + elemInt e (a k) * elemInt e (b k)) (if ov then 0 else (old : Int))
    (t % (2 ^ 32 : Nat)).toNat
  else
    let f := if fmt = 0 then fF64 else fF32
    let chunk := min depth (if fmt = 0 then 8 else 32)
    let term (k : Nat) : FV :=
      (((elemVal e (a k)).mul (elemVal e (b k))).mul (mmaScale fmt bs q sc 0 i k)).mul (mmaScale fmt bs q sc 1 j k)
    (mmaChunks f chunk term (depth / chunk) 0 (if ov then none else some old)).getD 0

/-- Bytes of an accumulator element (R60). -/
def accBytes (fmt : Nat) : Nat := if fmt = 0 then 8 else 4

/-- A quarter operation applied whole to its tile (R61, R62). -/
def applyQuarter (slots accum : Memory) (q fmt bs : Nat) (ov : Bool) (aslot bslot tile : Nat) (sc : Map Lane) : Memory :=
  let n := accBytes fmt
  (List.range 256).foldl (fun m e =>
    let p := 1024 * tile + n * e
    Memory.wrN m p n (mmaElement slots fmt bs q aslot bslot sc (e / 16) (e % 16) ov (Memory.rdN accum p n))) accum

/-- The tiles an operation writes, and the slots it reads (R198). -/
def MxKind.tiles : MxKind → List Nat
  | .quarter _ fmt _ _ _ _ t _ => if fmt = 0 then [t, t + 1] else [t]
  | .zero t n => (List.range n).map (t + ·)
  | .drain code _ t _ _ _ _ _ => if drainIn code = 8 then [t, t + 1] else [t]
  | .claim _ bs _ => bs.flatMap fun b => (List.range 8).map (8 * b + ·)
def MxKind.claims : MxKind → Bool
  | .claim .. => true
  | _ => false
def MxKind.slots : MxKind → List Nat
  | .quarter _ _ _ _ a b _ _ => [a, b]
  | .zero _ _ => []
  | .drain .. => []
  | .claim ss _ _ => ss

/-- Element codes of FP6 formats (R54). -/
def isFp6 (elem : Nat) : Bool := elem == 7 || elem == 8
/-- Slots are used with, or filled with, elements of a format: they count as FP6 slots from here, or no longer (R59; log entry 32). -/
def Column.markFp6 (c : Column) (elem : Nat) (ns : List Nat) : Column :=
  let rest := c.fp6.filter fun k => !ns.contains k
  { c with fp6 := if isFp6 elem then rest ++ ns.eraseDups else rest }

/-- Slots are zeroed, and so are banks. -/
def Column.clear (c : Column) (ss bs : List Nat) : Column :=
  { c with
    slots := ss.foldl (fun m n => Memory.wrN m (1024 * n) 1024 0) c.slots
    accum := bs.foldl (fun m n => Memory.wrN m (8192 * n) 8192 0) c.accum
    fp6 := c.fp6.filter fun k => !ss.contains k }

/-- An operation's effect on the column's slots and tiles. -/
def Column.applyOp (c : Column) (k : MxKind) : Column :=
  match k with
  | .quarter q fmt bs ov a b t sc => { c with accum := applyQuarter c.slots c.accum q fmt bs ov a b t sc }.markFp6 (mmaElem fmt).1 [a, b]
  | .zero t n => { c with accum := Memory.wrN c.accum (1024 * t) (1024 * n) 0 }
  | .drain .. => c
  | .claim ss bs _ => c.clear ss bs

/-! ## Claims and the matrix order (R197 to R199) -/

def State.myCol (s : State) : Column := s.col s.team.col
/-- A holder number: the team's number plus one. -/
def State.me (s : State) : Nat := s.grp.team + 1
def Column.slotOf (c : Column) (n : Nat) : Nat := Map.get 0 c.slotHeld n
def Column.bankOf (c : Column) (n : Nat) : Nat := Map.get 0 c.bankHeld n

/-- Operations not yet applied that name one of these slots: queued quarters and OLOADs. -/
def State.slotWork (s : State) (col : Nat) (ns : List Nat) : List Nat :=
  (((s.col col).ops.filter fun o => o.kind.slots.any ns.contains).map (·.id)) ++
    ((s.jobs.filter fun j => match j.kind with
      | .oload c s n => c == col && ns.any fun k => s ≤ k && k < s + n
      | _ => false).map (·.id))

/-- Operations not yet applied that write one of these tiles: what a drain into registers reads after (R210). -/
def State.tileOps (s : State) (col : Nat) (ts : List Nat) : List Nat :=
  ((s.col col).ops.filter fun o => o.kind.tiles.any ts.contains).map (·.id)

/-- Operations not yet applied that name one of these tiles: queued ones, and ASTOREs that have not read. -/
def State.tileWork (s : State) (col : Nat) (ts : List Nat) : List Nat :=
  s.tileOps col ts ++
    ((s.jobs.filter fun j => match j.kind, j.st with
      | .astore c t n, .queued => c == col && ts.any fun k => t ≤ k && k < t + n
      | _, _ => false).map (·.id))

/-- Adds operations to the column's queue, in order. -/
def State.pushOps (s : State) (ks : List MxKind) : State :=
  ks.foldl (fun s k =>
    let c := s.myCol
    let s' := s.setCol s.team.col { c with ops := c.ops ++ [⟨s.nextId, s.cur, s.grp.batchOpen, k⟩] }
    { s' with nextId := s.nextId + 1 }) s

/-- All four sub-arrays of the column are fenced: 0x30 at issue, after the checks of counts and values (R220, R355). -/
def State.unlessFenced (s : State) (k : State → State) : State :=
  if s.myCol.fenced == 15#4 then s.fault { code := 0x30, info32 := s.grp.idemRetry } else k s

/-- The elements of a range, or none when it is empty or passes `top` (status 2, R199). -/
def claimRange (first count top : Nat) : Option (List Nat) :=
  if count = 0 || top < first + count then none else some ((List.range count).map (first + ·))

/-- Slots or banks are a holder's. -/
def Column.holdSlots (c : Column) (me : Nat) (ns : List Nat) : Column :=
  { c with slotHeld := ns.foldl (fun m n => Map.set 0 m n me) c.slotHeld }
def Column.holdBanks (c : Column) (me : Nat) (ns : List Nat) : Column :=
  { c with bankHeld := ns.foldl (fun m n => Map.set 0 m n me) c.bankHeld }
/-- Takes a list of slots for a holder and zeroes them. -/
def Column.takeSlots (c : Column) (me : Nat) (ns : List Nat) : Column := (c.holdSlots me ns).clear ns []
def Column.takeBanks (c : Column) (me : Nat) (ns : List Nat) : Column := (c.holdBanks me ns).clear [] ns
def Column.dropSlots (c : Column) (ns : List Nat) : Column :=
  ns.foldl (fun c n => { c with slotHeld := Map.set 0 c.slotHeld n 0 }) c
/-- AREL also ends all band ownership of its banks (R199). -/
def Column.dropBanks (c : Column) (ns : List Nat) : Column :=
  ns.foldl (fun c n => { c with
    bankHeld := Map.set 0 c.bankHeld n 0, rowOwner := c.rowOwner.filter fun p => p.1 / 16 != n }) c

/-- The shared form of OCLAIM and ACLAIM. Every later check finds the team the holder; where operations on what it takes, or
window accesses of it that have passed their checks, are still under way, the zeroing and the status come after them in the matrix
order (R197, R198, R215). -/
def claim (i : Instr) (f : Fields) (top : Nat) (holder : Column → Nat → Nat) (hold : Column → Nat → List Nat → Column)
    (busy : State → List Nat → Bool) (kind : List Nat → Option Nat → MxKind) (s : State) : Out :=
  s.issue i f fun s =>
    let c := s.myCol
    match claimRange (s.scalarSrc f.a).toNat (s.scalarSrc f.b).toNat top with
    | none => s.retS i f.dst 2
    | some ns =>
      if ns.any fun n => holder c n != 0 && holder c n != s.me then s.retS i f.dst 1
      else
        let fresh := ns.filter fun n => holder c n == 0
        let held := hold c s.me fresh
        if busy s fresh then ((s.setCol s.team.col held).pushOps [kind fresh (some f.dst.toNat)]).retire i
        else (s.setCol s.team.col (held.applyOp (kind fresh none))).retS i f.dst 0

/-- The shared form of OREL and AREL. Work already issued on what is released is still applied to its
bytes, and a later claim waits for it; a command that waits on a guard with a place there is checked again. -/
def unclaim (i : Instr) (f : Fields) (top : Nat) (holder : Column → Nat → Nat) (drop : Column → List Nat → Column)
    (place : Nat → List Nat → Loc → Bool) (s : State) : Out :=
  s.issue i f fun s =>
    let c := s.myCol
    match claimRange (s.scalarSrc f.a).toNat (s.scalarSrc f.b).toNat top with
    | none => s.retS i f.dst 2
    | some ns =>
      if ns.any fun n => holder c n != s.me then s.retS i f.dst 1
      else ((s.staleAt (place s.team.col ns)).setCol s.team.col (drop c ns)).retS i f.dst 0

def bankTiles (ns : List Nat) : List Nat := ns.flatMap fun b => (List.range 8).map (8 * b + ·)

/-- Something on these slots, or banks, of a column is under way. -/
def State.slotsBusy (s : State) (col : Nat) (ns : List Nat) : Bool := !(s.slotWork col ns).isEmpty || s.winBusy s.nextId (Loc.inSlots col ns)
def State.banksBusy (s : State) (col : Nat) (ns : List Nat) : Bool :=
  !(s.tileWork col (bankTiles ns)).isEmpty || s.winBusy s.nextId (Loc.inBanks col ns)

def execOclaim (f : Fields) (s : State) : Out :=
  claim (.oclaim f) f 256 Column.slotOf Column.holdSlots (fun s ns => s.slotsBusy s.team.col ns) (fun ns d => .claim ns [] d) s

def execOrel (f : Fields) (s : State) : Out :=
  unclaim (.orel f) f 256 Column.slotOf Column.dropSlots Loc.inSlots s

def execAclaim (f : Fields) (s : State) : Out :=
  claim (.aclaim f) f 64 Column.bankOf Column.holdBanks (fun s ns => s.banksBusy s.team.col ns) (fun ns d => .claim [] ns d) s

def execArel (f : Fields) (s : State) : Out :=
  unclaim (.arel f) f 64 Column.bankOf Column.dropBanks Loc.inBanks s

/-! ## OLOAD (R200, R201) -/

def execOload (f : Fields) (s : State) : Out :=
  s.issue (.oload f) f fun s =>
    let spec := (s.scalarSrc f.a).toNat
    let slot := spec % 256
    let n := spec / 256 % 16 + 1
    if spec / 2 ^ 12 % 2 ^ 12 != 0 || 256 < slot + n then s.fault (fieldFault 1)
    else s.unlessFenced fun s => match ((List.range n).map (slot + ·)).find? fun k => s.myCol.slotOf k != s.me with
    | some k => s.fault { code := 0x21, info32 := k }
    | none => s.submit (.oload f) f (.oload slot n (spec / 2 ^ 24) (s.scalarSrc f.b).toNat (s.scalarSrc f.c))

/-! ## AZERO and MMA (R202 to R206) -/

def execAzero (f : Fields) (s : State) : Out :=
  s.issue (.azero f) f fun s =>
    let first := (s.scalarSrc f.a).toNat
    let n := (s.scalarSrc f.b).toNat
    if 511 < first then s.fault (fieldFault 1)
    else if n = 0 || 512 < first + n then s.fault (fieldFault 2)
    else s.unlessFenced fun s => match ((List.range n).map (first + ·)).find? fun t => s.myCol.bankOf (t / 8) != s.me with
    | some t => s.fault { code := 0x23, info32 := t }
    | none => (s.pushOps [.zero first n]).retire (.azero f)

/-- Lanes of quarter `q` (R204). -/
def quarterLanes (w q : Nat) : Mask := allLanes (w / 4) <<< (q * (w / 4))

/-- The quarters this split issues, and MQPART. -/
def mmaQuarters (m0 : Mask) (w msk : Nat) : List Nat × Bool :=
  let sel := (List.range 4).filter fun q => msk.testBit q
  (sel.filter fun q => quarterLanes w q &&& ~~~m0 == 0,
   sel.any fun q => quarterLanes w q &&& ~~~m0 != 0 && quarterLanes w q &&& m0 != 0)

/-- Step 3 of R205 for one quarter. -/
def State.quarterFault (s : State) (fmt : Nat) (a b c : Nat) (q : Nat) : Option Flt :=
  let aslot := a % 256 + q * (a / 256 % 256)
  let tile := c % 1024 + q * (c / 2 ^ 16 % 1024)
  let top := if fmt = 0 then 510 else 511
  if a / 2 ^ 16 != 0 || 255 < aslot then some (fieldFault 1)
  else if b / 256 != 0 then some (fieldFault 2)
  else if c / 2 ^ 26 != 0 || c / 2 ^ 10 % 64 != 0 || top < tile || (fmt == 0 && tile % 2 == 1) then some (fieldFault 3)
  else if s.myCol.slotOf aslot != s.me then some { code := 0x21, info32 := aslot }
  else if s.myCol.slotOf b != s.me then some { code := 0x21, info32 := b }
  else if s.myCol.bankOf (tile / 8) != s.me then some { code := 0x23, info32 := tile }
  else none

/-- The scales as read at issue (R206). -/
def State.mmaScales (s : State) (vs fmt : Nat) : Map Lane :=
  (mmaScaleRegs fmt).foldl (fun m j =>
    (List.range 32).foldl (fun m l => Map.set 0 m (128 * j + l) (s.grp.rdV (vs + j) l)) m) []

def execMma (f : Fields) (s : State) : Out :=
  s.issue (.mma f) f fun s =>
    let fmt := bits f.mod 0 5
    let vs := f.dst.toNat
    let a := (s.scalarSrc f.a).toNat
    let b := (s.scalarSrc f.b).toNat
    let c := (s.scalarSrc f.c).toNat
    let qs := mmaQuarters s.split.m0 s.width f.msk.toNat
    if (mmaScaleRegs fmt).any fun j => s.regCount ≤ vs + j then s.fault (fieldFault 0)
    else if !qs.1.isEmpty && s.width == 16 && !mmaNarrow fmt then s.fault (fieldFault 4)
    else match qs.1.findSome? (s.quarterFault fmt a b c) with
    | some e => if e.code = 0x03 then s.fault e else s.unlessFenced fun s => s.fault e
    | none => s.unlessFenced fun s =>
      let sc := s.mmaScales vs fmt
      let s := s.setGrp { s.grp with mqpart := qs.2 }
      (s.pushOps (qs.1.map fun q =>
        .quarter q fmt (bits f.mod 5 2) (f.mod.getLsbD 7) (a % 256 + q * (a / 256 % 256)) (b % 256)
          (c % 1024 + q * (c / 2 ^ 16 % 1024)) sc)).retire (.mma f)

/-! ## Band ownership (R208) -/

def Column.ownerOf (c : Column) (b r : Nat) : Nat := Map.get 0 c.rowOwner (16 * b + r)
def rowsOf (m : Nat) : List Nat := (List.range 16).filter fun r => m.testBit r

def execAband (f : Fields) (s : State) : Out :=
  s.issue (.aband f) f fun s =>
    let b := (s.scalarSrc f.a).toNat
    let m := (s.scalarSrc f.b).toNat
    let c := s.myCol
    let own := s.cur + 1
    if 63 < b then s.fault (fieldFault 1)
    else if m / 2 ^ 16 != 0 then s.fault (fieldFault 2)
    else if c.bankOf b != s.me then s.fault { code := 0x24, info32 := b }
    else if (rowsOf m).any fun r => c.ownerOf b r != 0 && c.ownerOf b r != own then s.fault { code := 0x24, info32 := b }
    else
      let v := if f.mod.getLsbD 0 then 0 else own
      (s.setCol s.team.col { c with rowOwner := (rowsOf m).foldl (fun o r => Map.set 0 o (16 * b + r) v) c.rowOwner }).retire (.aband f)

/-! ## Drains (R209 to R216) -/

/-- Bank rows whose bytes a drain reads (R212). -/
def drainRows (code row0 nrows : Nat) : List Nat :=
  (List.range nrows).flatMap fun i =>
    if drainIn code = 8 then [2 * (row0 + i) % 16, 2 * (row0 + i) % 16 + 1] else [row0 + i]

/-- Steps 3 and 4 of R212: a fault, or whether the bank is unallocated. -/
def State.drainCheck (s : State) (code tile row0 nrows : Nat) : Flt ⊕ Bool :=
  let c := s.myCol
  let b := tile / 8
  let h := c.bankOf b
  if h = 0 then .inr true
  else if h != s.me then
    .inl (if (s.teamOf (h - 1)).ten != s.team.ten then { code := 0x11 } else { code := 0x24, info32 := tile / 8 })
  else if (drainRows code row0 nrows).any fun r => c.ownerOf b r != s.cur + 1 then .inl { code := 0x24, info32 := tile / 8 }
  else .inr false

/-- A tile number a drain accepts. -/
def drainTileOk (code tile : Nat) : Bool := tile ≤ 511 && !(drainIn code == 8 && tile % 2 == 1)
def drainRowsOk (row0 nrows : Nat) : Bool := 1 ≤ nrows && row0 + nrows ≤ 16

def State.setUnalloc (s : State) (b : Bool) : State := s.setGrp { s.grp with unalloc := s.grp.unalloc || b }

/-- Elements per lane of a drain (R210). -/
def drainPack (code : Nat) : Nat := if code = 2 || code = 3 then 2 else 1

/-- The value of one drained lane: elements `e` to `e + p − 1`, those past `total` as zero. -/
def drainLane (elemAt : Nat → Nat) (p e total : Nat) : Nat :=
  (List.range p).foldl (fun v t => v + (if e + t < total then elemAt (e + t) else 0) * 2 ^ (16 * t)) 0

/-- A drain of tiles reads them later: earlier operations on them, or what a barrier or an observed release orders before it, are under
way. Its results then return under the scoreboard (R198, R210, R235). -/
def State.drainLate (s : State) (ts : List Nat) : Bool :=
  !(s.tileOps s.team.col ts).isEmpty || !s.synced s.cur s.nextId ||
    ts.any fun t => s.owes (.split s.cur) 4 (winLoc s.team.col 3 (1024 * t)) 1024

/-- A queued drain reads, and its lanes are written (R209, R210). -/
def Group.putDrain (g : Group) (accum : Memory) (code : Nat) (sat : Bool) (tile row0 nrows dst w : Nat) (ls : List Nat) : Group :=
  let p := drainPack code
  let elemAt (e : Nat) : Nat := drainConv code sat (Memory.rdN accum (drainAt code tile row0 e) (drainIn code))
  (List.range ((16 * nrows + p * w - 1) / (p * w))).foldl (fun g m =>
    g.wrLanes (code == 1) (dst + (if code == 1 then 2 * m else m))
      ((ls.filter fun l => p * (w * m + l) < 16 * nrows).map fun l => (l, drainLane elemAt p (p * (w * m + l)) (16 * nrows)))) g

/-- What an applied operation returns to its group's registers. -/
def Group.putOp (g : Group) (c : Column) : MxKind → Group
  | .drain code sat tile row0 nrows dst w ls => g.putDrain c.accum code sat tile row0 nrows dst w ls
  | .claim _ _ (some d) => g.wrS d 0
  | _ => g

def execAdrain (f : Fields) (s : State) : Out :=
  s.issue (.adrain f) f fun s =>
    let code := bits f.mod 0 3
    let tile := (s.scalarSrc f.a).toNat
    let r := (s.scalarSrc f.b).toNat
    let row0 := r % 16
    let nrows := r / 256 % 32
    let wide := code == 1
    let p := drainPack code
    let w := s.width
    let nreg := (16 * nrows + p * w - 1) / (p * w)
    let tooHigh := s.regCount < f.dst.toNat + nreg * (if wide then 2 else 1)
    if (s.effLanes f.msk.toNat).isEmpty then (if drainRowsOk row0 nrows && tooHigh then s.fault (fieldFault 0) else s.retire (.adrain f))
    else if !drainTileOk code tile then s.fault (fieldFault 1)
    else if r / 2 ^ 13 != 0 || r / 16 % 16 != 0 || !drainRowsOk row0 nrows then s.fault (fieldFault 2)
    else if tooHigh then s.fault (fieldFault 0)
    else s.unlessFenced fun s => match s.drainCheck code tile row0 nrows with
    | .inl e => s.fault e
    | .inr un =>
      let ls := s.effLanes f.msk.toNat
      if !un && s.drainLate (drainTiles code tile) then
        (s.pushOps [.drain code (f.mod.getLsbD 3) tile row0 nrows f.dst.toNat w ls]).retire (.adrain f)
      else
        let accum := s.myCol.accum
        let elemAt (e : Nat) : Nat :=
          drainConv code (f.mod.getLsbD 3) (if un then unallocWord (drainIn code) else Memory.rdN accum (drainAt code tile row0 e) (drainIn code))
        let s := s.setUnalloc un
        ((List.range nreg).foldl (fun s m =>
          s.wrLanes wide (f.dst.toNat + (if wide then 2 * m else m))
            ((ls.filter fun l => p * (w * m + l) < 16 * nrows).map fun l => (l, drainLane elemAt p (p * (w * m + l)) (16 * nrows)))) s).retire (.adrain f)

/-- An ASTORE that a false guard drops sets UNALLOC all the same: its check is made in every case (R147, R216; log entry 83). -/
def execAstore (f : Fields) (s : State) : Out :=
  s.issue (.astore f) f fun s =>
    let code := bits f.mod 0 3
    let dst := (s.scalarSrc f.a).toNat
    let sp := (s.scalarSrc f.b).toNat
    let tile := sp % 1024
    let row0 := sp / 2 ^ 16 % 16
    let nrows := sp / 2 ^ 24 % 32
    if dst / 2 ^ 60 != 3 then s.fault (fieldFault 1)
    else if sp / 2 ^ 10 % 64 != 0 || sp / 2 ^ 20 % 16 != 0 || sp / 2 ^ 29 % 8 != 0 || !drainTileOk code tile || !drainRowsOk row0 nrows then
      s.fault (fieldFault 2)
    else s.unlessFenced fun s => match s.drainCheck code tile row0 nrows with
    | .inl e => s.fault e
    | .inr un =>
      let s' := s.submit (.astore f) f (.astore un code (f.mod.getLsbD 3) tile row0 nrows (sp / 2 ^ 32) dst (s.scalarSrc f.c))
      if s'.split.pc == s.split.pc then s' else s'.setUnalloc un

/-! ## MSTAT (R218) -/

/-- A word with bit `k` set where `p k`. -/
def bitWord (n : Nat) (p : Nat → Bool) : Word := .ofNat 64 ((List.range n).foldl (fun v k => v + if p k then 2 ^ k else 0) 0)

def State.mstat (s : State) (sel : Nat) (bank : Word) : Word :=
  let c := s.myCol
  match sel with
  | 0 => s.mqstat
  | 1 => bitWord 64 fun b => c.bankOf b == s.me
  | 6 =>
    let b := bank.toNat
    if 63 < b then BitVec.allOnes 64
    else if c.bankOf b != s.me then 0
    else bitWord 33 fun k =>
      if k < 16 then c.ownerOf b k == s.cur + 1
      else if k < 32 then c.ownerOf b (k - 16) != 0 && c.ownerOf b (k - 16) != s.cur + 1
      else true
  | 7 => .ofNat 64 (c.fenced.toNat + c.proofs % 2 ^ 32 * 2 ^ 32)
  | k => bitWord 64 fun i => c.slotOf (64 * (k - 2) + i) == s.me

def execMstat (f : Fields) (s : State) : Out :=
  s.issue (.mstat f) f fun s =>
    let sel := (f.a.litVal.getD 0)
    let v := s.mstat sel (s.scalarSrc f.b)
    (if sel = 0 then s.setGrp { s.grp with unalloc := false } else s).retS (.mstat f) f.dst v

end Sys2Proof.Machine
end

