-- ==== Sys2Proof/Machine/Sched.lean ====
section
/-!
DEFINITION. Launches, records, teams and their ends (R250, R264 to R273), with EXIT, TSPAWN, TJOIN, LSPAWN,
LCANCEL and LCOUNT. Dispatch, saving and restoring are events (EvSched).
-/
namespace Sys2Proof.Machine

/-! ## Fault records of the device's own actions (R268, R271) -/

/-- A DEVACT record: no group, no instruction. -/
def State.devRecord (s : State) (ten launch team : Nat) (addr : Word) (code : Nat) : FRec :=
  { ten, launch, team, grp := none, gslot := 0xFF, gid := 0xFF, col := 0xFFFF, flags := 16, pc := 0
    gen := s.genOf ten (s.launchOf ten launch).job, flt := { code, addr, info32 := 2 } }
def State.postDev (s : State) (ten launch team : Nat) (addr : Word) (code : Nat) : State :=
  { s with posts := s.posts ++ [s.devRecord ten launch team addr code] }

/-! ## Memory of a tenant, by virtual address -/

/-- The checks of an ATOM of `n` bytes made by the device for a tenant (R187, R191). -/
def State.devAccess (s : State) (ten : Nat) (a : Word) (n : Nat) : Chk Loc :=
  if a.toNat / 2 ^ 48 != 0 then .flt (accFlt 0x12 .atomic a.toNat)
  else if a.toNat % n != 0 then .flt (accFlt 0x13 .atomic a.toNat)
  else s.translate ten a.toNat a.toNat .atomic false

/-- `n` bytes a tenant can read from a generic address; none where a page is missing or not its own, or past 2⁴⁸. -/
def State.virtRead? (s : State) (ten a : Nat) : Nat → Option Nat
  | 0 => some 0
  | n + 1 =>
    if 2 ^ 48 ≤ a then none
    else match s.walk ten a with
    | .leaf e => if pteTen e = ten then (s.virtRead? ten (a + 1) n).map fun r => (s.rdB (leafLoc e a)).toNat + 256 * r else none
    | _ => none

/-- Places of those bytes in flash that the staging cache does not hold (R77). -/
def State.virtMiss (s : State) (ten a n : Nat) : List Loc :=
  (List.range n).filterMap fun k => if 2 ^ 48 ≤ a + k then none else match s.walk ten (a + k) with
    | .leaf e => if pteTen e == ten && !s.granuleReady (leafLoc e (a + k)) then some (leafLoc e (a + k)) else none
    | _ => none

/-- Writes bytes at a tenant's generic address where a writable page of it stands; for a job, whose durable lines are
logged (R310), or for none. -/
def State.virtWrite (s : State) (ten : Nat) (job : Option Word) (a : Nat) : Nat → Nat → State
  | 0, _ => s
  | n + 1, v =>
    let s := if 2 ^ 48 ≤ a then s else match s.walk ten a with
      | .leaf e =>
        if pteTen e == ten && !pteRO e && !pteF e then
          match job with
          | some j => s.homeWrite ten j (leafLoc e a) 1 (v % 256)
          | none => (s.wrB (leafLoc e a) (.ofNat 8 v)).keepDirs [leafLoc e a]
        else s
      | _ => s
    s.virtWrite ten job (a + 1) n (v / 256)

/-! ## Counts (R271) -/

def State.queued (s : State) (ten launch : Nat) : List Item := s.items.filter fun i => i.ten == ten && i.launch == launch
def Item.isRecord (i : Item) : Bool := match i.work with
  | .record .. => true
  | .image _ => false
/-- Records in a launch's queue. -/
def State.queueLen (s : State) (ten launch : Nat) : Nat := ((s.queued ten launch).filter Item.isRecord).length

/-- Records queued, here or at a peer, or not yet written, teams resident or suspended in an image, and ended teams
whose accesses or whose join are not complete. -/
def State.outstanding (s : State) (l : Launch) : Nat :=
  (if l.cancelled then 0 else l.nteams - l.next) + ((s.queued l.ten l.id).filter Item.isRecord).length +
    (s.away.filter fun p => p.2.isRecord && p.2.ten == l.ten && p.2.launch == l.id).length +
    (s.teams.filter fun t => !t.ended && t.ten == l.ten && t.launch == l.id).length +
    (s.joinWaits.filter fun j => !j.tjoin && j.ten == l.ten && j.launch == l.id).length

/-- DONE's counter address, none when it asks for nothing (R264). -/
def doneAddr (w : Word) : Option Word := match parseCw 0 w with
  | some (.counter _ a) => some (.ofNat 64 a)
  | _ => none

/-- Serves a complete launch's DONE word: adds 1, waits for a page, or posts the fault (R271). -/
def State.serveDone (s : State) (l : Launch) : State :=
  match doneAddr l.done with
  | none => s
  | some a => match s.devAccess l.ten a 8 with
    | .ok p => s.homeWrite l.ten l.job p 8 ((s.rdN p 8 + 1) % 2 ^ 64)
    | .flt f => s.postDev l.ten l.id 0xFFFFFFFF a f.code
    | .wait t pg m _ => { s.report t pg m with dones := s.dones ++ [(l.ten, l.id, pg)] }

/-- A launch whose outstanding count has reached 0 completes, once; a peer's launch has its DONE served at the peer. -/
def State.checkLaunch (s : State) (ten id : Nat) : State :=
  let l := s.launchOf ten id
  if l.complete || s.outstanding l != 0 then s
  else
    let s := s.setLaunch { l with complete := true }
    if l.guest.isSome then s else s.serveDone l

/-! ## Ends of lanes, splits, groups and teams (R250) -/

/-- Releases what an ended team still holds of its column, once its matrix work is applied (R197). -/
def State.settle (s : State) (uid : Nat) : State :=
  let t := s.teamOf uid
  let busy := (s.col t.col).ops.any (fun o => (s.grpAt o.grp).team == uid) ||
    s.jobs.any fun j => j.team == uid && match j.kind with
      | .oload .. => true
      | .astore .. => true
      | _ => false
  if !t.ended || busy then s
  else
    let c := s.col t.col
    let held (m : Map Nat) : List Nat := (m.filter fun p => p.2 == uid + 1).map (·.1)
    (s.staleAt fun l => l.inSlots t.col (held c.slotHeld) || l.inBanks t.col (held c.bankHeld)).setCol t.col
      ((c.dropSlots (held c.slotHeld)).dropBanks (held c.bankHeld))

/-- An access of a team is still under way. -/
def State.teamBusy (s : State) (uid : Nat) : Bool := (s.groupsOf uid).any s.inFlight

def Item.teamId (i : Item) : Nat := match i.work with
  | .record _ t => t
  | .image m => m.team.id

def State.launchNo (s : State) (ten id : Nat) : Nat := ((s.launches.find? fun l => l.ten == ten && l.id == id).map Launch.no).getD id

/-- A peer's record that ran here has ended: the peer learns of it (R276). -/
def State.tellPeer (s : State) (ten launch team : Nat) (counts : Bool) : State :=
  match s.arrivals.find? fun p => p.2.ten == ten && p.2.launch == launch && p.2.teamId == team with
  | none => s
  | some p =>
    ({ s with arrivals := s.arrivals.filter (· != p) } : State).sendRemote
      { peer := p.1, addr := 0, op := .access (.ended (s.launchNo ten launch) team counts), resent := false, who := .nobody, grp := 0, sp := 0, pc := 0, batch := 0 }

/-- A record is over: counted, and with the last one of its launch the launch is complete (R271). -/
def State.finishRecord (s : State) (ten launch team : Nat) (counts : Bool) : State :=
  let l := s.launchOf ten launch
  ((if counts then s.setLaunch { l with completed := l.completed + 1 } else s).tellPeer ten launch team counts).checkLaunch ten launch

/-- The team ends: handles revoked, held commands discarded (R107, R250). Once its accesses are complete its record is
over: it joins its parent where `joins`, and is counted where `counts` (R268, R271). A peer's record joins at the peer. -/
def State.endTeam (s : State) (uid : Nat) (joins counts : Bool) : State :=
  let t := s.teamOf uid
  let s := s.setTeam { t with ended := true, handles := [], requests := [] }
  let s := { s with jobs := s.jobs.filter fun j => !(j.team == uid && match j.st with
    | .held .. => true
    | _ => false) }
  let s := (s.gcDirs).settle uid
  let addr := if joins && (s.launchOf t.ten t.launch).guest.isNone then t.parent else 0
  if addr != 0 || s.teamBusy uid then
    { s with joinWaits := s.joinWaits ++ [{ ten := t.ten, launch := t.launch, team := t.id, addr, pushing := false, page := none, tjoin := false
                                            who := none, uid, counts, die := dieOf t.col }] }
  else s.finishRecord t.ten t.launch t.id counts

/-- The group has ended: results dropped, commands on its open slots discarded, others' that wait with a place in its registers to be
checked again, band ownership over. -/
def State.endGroup (s : State) (gi : Nat) (joins counts : Bool) : State :=
  let g := s.grpAt gi
  let s := s.setGrpAt gi { g with ended := true, stopped := false, regionOpen := false, s0 := .empty, s1 := .empty, lanes := 0 }
  let s := s.dropResults gi
  let s := { s with jobs := s.jobs.filter fun j => !(j.grp == gi && j.guard.isSome && j.st == JobSt.queued) }
  let col := (s.teamOf g.team).col
  let c := s.col col
  let s := ((s.staleAt (Loc.inGroupSlot col g.slot)).setCol col { c with rowOwner := c.rowOwner.filter fun p => p.2 != gi + 1 }).abandonFor gi 0 true
  if (s.groupsOf g.team).all fun i => (s.grpAt i).ended then s.endTeam g.team joins counts else s

/-- A suspended team that ends takes its image out of its queue, and its commands on slots and tiles with it. -/
def State.dropImage (s : State) (uid : Nat) : State :=
  { s with
    items := s.items.filter fun i => !i.image?.any (·.team.uid == uid)
    jobs := s.jobs.filter fun j => !(j.team == uid && 512 ≤ (s.teamOf uid).col && match j.kind with
      | .oload .. => true
      | .astore .. => true
      | _ => false) }

/-- Every group of a team ends as by EXIT of every lane, and parents are not joined: a cancellation, which is not counted
as a completion (R273), or a group-control command, which is (R271, R286). -/
def State.killTeam (s : State) (uid : Nat) (counts : Bool) : State :=
  (s.groupsOf uid).foldl (fun s i => if (s.grpAt i).ended then s else s.endGroup i false counts) (s.dropImage uid)

/-- A split left without lanes is no longer live; a partner waiting at JOIN goes on at its own J (R246). -/
def State.freeSplit (s : State) (gi k : Nat) : State :=
  let g := s.grpAt gi
  let p := g.sp (1 - k)
  let p' := match p.wait with
    | .join j => { p with pc := j, wait := .none, since := s.tick + 1 }
    | _ => p
  s.setGrpAt gi ((g.setSp k .empty).setSp (1 - k) p')

/-- EXIT ends the lanes of its effective mask for good (R250, R259). -/
def execExit (f : Fields) (s : State) : Out :=
  s.issue (.exit f) f fun s =>
    let gi := s.cur
    let k := s.curSplit
    let e := s.eff f.msk.toNat
    let g := s.grp
    let m := s.split.m0 &&& ~~~e
    if e = 0 then s.retire (.exit f)
    else
      let s := s.setGrp ({ g with lanes := g.lanes &&& ~~~e }.setSp k { s.split with m0 := m })
      let s := if m = 0 then s.freeSplit gi k else s.retire (.exit f)
      let g' := s.grpAt gi
      if !g'.s0.live && !g'.s1.live then s.endGroup gi true true else s.abandonFor gi e false

/-! ## Task records (R268, R269) -/

/-- A task record's fields. -/
structure TaskRec where
  code : Nat
  frame : Nat
  join : Nat
  flags : Nat
  parent : Nat

def TaskRec.ofNat (n : Nat) : TaskRec :=
  { code := n % 2 ^ 64, frame := n / 2 ^ 64 % 2 ^ 64, join := n / 2 ^ 128 % 2 ^ 32, flags := n / 2 ^ 160 % 2 ^ 32, parent := n / 2 ^ 192 % 2 ^ 64 }
def TaskRec.prio (r : TaskRec) : Nat := r.flags % 4
def TaskRec.groups (r : TaskRec) : Nat := r.flags / 4 % 16 + 1
def TaskRec.vregs (r : TaskRec) : Nat := (r.flags / 64 % 32 + 1) * 8
def TaskRec.toNat (r : TaskRec) : Nat := r.code + r.frame * 2 ^ 64 + r.join * 2 ^ 128 + r.flags * 2 ^ 160 + r.parent * 2 ^ 192
def TaskRec.mk' (code frame prio groups vregs : Nat) : TaskRec := ⟨code, frame, 0, prio + (groups - 1) * 4 + (vregs / 8 - 1) * 64, 0⟩

/-- TSPAWN's status 1 (R269). -/
def TaskRec.bad (r : TaskRec) (l : Launch) : Bool :=
  r.flags / 2 ^ 11 != 0 || r.code % 8 != 0 || r.parent % 32 != 0 || l.groups < r.groups || l.vregs < r.vregs || l.prio < r.prio

def dieFailed (s : State) (die : Nat) : Bool := s.boot.fail.getLsbD die

/-- A die that has not failed: the one named, else the lowest (R353). -/
def State.liveDie (s : State) (die : Nat) : Nat :=
  if dieFailed s die then ((List.range 8).find? fun d => !dieFailed s d).getD die else die

/-- A record enters its launch's queue: its bytes in the next place of the queue area, its item on a die
(log entry 14). A push is a write of the launch's job (R310), an initial record the device's own. -/
def State.enterRecord (s : State) (l : Launch) (r : TaskRec) (team die : Nat) (push : Bool) : State :=
  let s := s.virtWrite l.ten (if push then some l.job else none) (l.rqbase.toNat + 32 * (l.enq % l.rqcap)) 32 r.toNat
  let s := s.setLaunch { l with enq := l.enq + 1 }
  { s with
    nextId := s.nextId + 1
    items := s.items ++ [{ id := s.nextId, die := s.liveDie die, ten := l.ten, launch := l.id, prio := r.prio, pushTime := s.clock, queuedAt := s.clock, aged := 0, passes := 0
                           work := .record r.toNat team }] }

/-- A push by TSPAWN or a join: the next TEAMID (R268). -/
def State.pushRecord (s : State) (l : Launch) (r : TaskRec) (die : Nat) : Nat × State :=
  let team := (l.nteams + l.pushes) % 2 ^ 32
  let l := { l with pushes := l.pushes + 1 }
  (team, (s.setLaunch l).enterRecord l r team die true)

/-- Paths 0x2 to 0x5 and 0xF raise 0x11 for TSPAWN, TJOIN and LSPAWN (R269). -/
def spawnPath (a : Word) (u : Use) : Option Flt :=
  let p := a.toNat / 2 ^ 60
  if (2 ≤ p && p ≤ 5) || p = 15 then some (accFlt 0x11 u a.toNat) else none

/-- A spawn instruction's address: path, alignment, then its bytes in pieces of `n` (R269). -/
def State.spawnAddr (s : State) (a : Word) (align n count : Nat) (off : Nat) (u : Use) : Chk (List Loc) :=
  match spawnPath a u with
  | some f => .flt f
  | none =>
    if 6 ≤ a.toNat / 2 ^ 60 || a.toNat % 2 ^ 60 / 2 ^ 48 != 0 then .flt (accFlt 0x12 u a.toNat)
    else if a.toNat % align != 0 then .flt (accFlt 0x13 u a.toNat)
    else checkAll (fun k => s.access s.team (a + .ofNat 64 (off + n * k)) n n u) (List.range count)

def execTspawn (f : Fields) (s : State) : Out :=
  s.issue (.tspawn f) f fun s =>
    s.checked (s.spawnAddr (s.scalarSrc f.a) 32 32 1 0 .read) fun ls => s.withFlash ls fun s => s.afterStores (Run.locs ⟨ls.headD ⟨.ctl, 0⟩, 32⟩) fun s =>
      let l := s.launch
      let r := TaskRec.ofNat ((ls.map fun p => s.rdN p 32).headD 0)
      if r.bad l then s.retS (.tspawn f) f.dst (.ofNat 64 (2 ^ 32))
      else if l.cancelled then s.retS (.tspawn f) f.dst (.ofNat 64 (4 * 2 ^ 32))
      else if l.rqcap - 64 ≤ s.queueLen l.ten l.id then s.retS (.tspawn f) f.dst (.ofNat 64 (3 * 2 ^ 32))
      else
        let (t, s) := s.pushRecord l r (dieOf s.team.col)
        s.retS (.tspawn f) f.dst (.ofNat 64 t)

/-- TJOIN (R269): the decrement; the last one pushes the record, or waits for an entry. -/
def execTjoin (f : Fields) (s : State) : Out :=
  s.issue (.tjoin f) f fun s =>
    let a := s.scalarSrc f.a
    s.checked (s.spawnAddr a 32 4 1 16 .atomic) fun ls => s.afterStores (Run.locs ⟨ls.headD ⟨.ctl, 0⟩, 4⟩) fun s =>
      let p := ls.headD ⟨.ctl, 0⟩
      let old := s.rdN p 4
      let l := s.launch
      if old = 0 then s.retS (.tjoin f) f.dst 0
      else
        let s := s.homeWrite s.team.ten l.job p 4 (old - 1)
        if old = 1 && !l.cancelled then
          if l.rqcap ≤ s.queueLen l.ten l.id then
            { s.waitAt .push with
              joinWaits := s.joinWaits ++ [{ ten := l.ten, launch := l.id, team := s.team.id, addr := a, pushing := true, page := none
                                             tjoin := true, who := some (s.cur, s.curSplit, f.dst.toNat, s.next (.tjoin f))
                                             uid := s.team.uid, counts := false, die := dieOf s.team.col }] }
          else
            let r := TaskRec.ofNat (s.rdN { p with a := p.a - 16 } 32)
            (s.pushRecord l r (dieOf s.team.col)).2.retS (.tjoin f) f.dst 1
        else s.retS (.tjoin f) f.dst (.ofNat 64 old)

/-! ## Launch descriptors (R264 to R266) -/

/-- A field of a descriptor. -/
def dfield (d lo n : Nat) : Nat := d / 2 ^ (8 * lo) % 2 ^ (8 * n)

/-- The launch a descriptor asks for. -/
def launchOfDesc (d ten id die : Nat) (bank : Map Word) : Launch :=
  { id, ten, code := .ofNat 64 (dfield d 0 8), const := .ofNat 64 (dfield d 8 8), nteams := dfield d 16 4, scratch := dfield d 20 4, vregs := dfield d 24 2
    groups := dfield d 26 1, width := 16 * 2 ^ dfield d 27 1, barriers := dfield d 28 1, prio := dfield d 29 1 % 4
    span := (dfield d 29 1).testBit 2, ctl := (dfield d 29 1).testBit 3, heat := dfield d 30 1
    graph := .ofNat 64 (dfield d 32 8), phase := .ofNat 64 (dfield d 40 8), job := .ofNat 64 (dfield d 48 8)
    faultq := .ofNat 64 (dfield d 56 8), frame := .ofNat 64 (dfield d 64 8), fstride := dfield d 72 4
    done := .ofNat 64 (dfield d 80 8), rqbase := .ofNat 64 (dfield d 88 8), rqcap := dfield d 96 4, bank
    next := 0, die, pushes := 0, enq := 0, completed := 0, cancelled := false, complete := false, bkpt := false }

/-- A descriptor that breaks R264 or R265. -/
def descBad (d : Nat) : Bool :=
  let hi (lo : Nat) : Bool := dfield d lo 8 / 2 ^ 48 != 0
  let doneOk := match parseCw 0 (.ofNat 64 (dfield d 80 8)) with
    | some .nothing => true
    | some (.counter _ a) => a / 2 ^ 60 == 0 && a % 8 == 0
    | _ => false
  let w := dfield d 27 1
  hi 0 || dfield d 0 8 % 8 != 0 || hi 8 || dfield d 8 8 % 8 != 0 || dfield d 16 4 == 0 ||
    dfield d 20 4 % 4096 != 0 || 134217728 < dfield d 20 4 ||
    dfield d 24 2 < 8 || 256 < dfield d 24 2 || dfield d 24 2 % 8 != 0 ||
    dfield d 26 1 == 0 || 16 < dfield d 26 1 || 3 < w || 16 < dfield d 28 1 ||
    15 < dfield d 29 1 || 3 < dfield d 30 1 || dfield d 31 1 != 0 || dfield d 76 4 != 0 || dfield d 100 28 != 0 ||
    !doneOk || hi 88 || dfield d 88 8 % 32 != 0 || dfield d 96 4 < 128 || 2 ^ 24 < dfield d 96 4 ||
    2 ^ 20 < dfield d 24 2 * npass (16 * 2 ^ w) * 128 * dfield d 26 1

/-- The constant bank, none where a byte of it cannot be read (R266). -/
def State.readBank (s : State) (ten a : Nat) : Option (Map Word) :=
  (s.virtRead? ten a 2048).map fun n =>
    (List.range 256).foldl (fun m k => Map.set 0 m k (.ofNat 64 (n / 2 ^ (64 * k)))) []

/-- Cancelled graphs, phases and jobs of a tenant (R273). -/
def State.cancelledId (s : State) (ten level : Nat) (id : Word) : Bool :=
  (s.tenantOf? ten).any fun t => t.cancelled.contains (level, id.toNat)
def State.levelsCancelled (s : State) (l : Launch) : Bool :=
  s.cancelledId l.ten 1 l.graph || s.cancelledId l.ten 2 l.phase || s.cancelledId l.ten 3 l.job

/-- A job's recovery state at its first launch (R305). -/
def RJob.start (ten : Nat) (id : Word) : RJob :=
  { ten, id, hasArea := false, area := 0, slotSize := 0, undoCap := 0, undo := [], gen := 1, highest := 1, rpgen := 0, rpman := 0
    rpprev := 0, rpprevman := 0, norb := false, want := false, state := 0, last := 0, progress := none, rolling := false, sealed := [] }

/-- A LAUNCHID: 32 bits, not zero, and of no launch of the tenant that is kept (R266); which of them is the model's choice, the next of a
counter (log entry 93). -/
def State.launchId (s : State) (t : Tenant) : Nat :=
  let used := (s.launches.filter (·.ten == t.n)).map (·.id)
  (((List.range (used.length + 2)).map fun k => (t.nextLaunch + k) % 2 ^ 32).find? fun i => i != 0 && !used.contains i).getD 0

/-- The next initial record enters the queue while that holds fewer than RQCAP − 64 (R266, R267). -/
def State.initialRecord (s : State) (ten id : Nat) : State :=
  let l := s.launchOf ten id
  if l.cancelled || l.nteams ≤ l.next || l.rqcap - 64 ≤ s.queueLen ten id then s
  else
    let r := TaskRec.mk' l.code.toNat ((l.frame.toNat + l.next * l.fstride) % 2 ^ 64) l.prio l.groups l.vregs
    let k := { l with next := l.next + 1 }
    (s.setLaunch k).enterRecord k r l.next l.die false
/-- Acceptance writes them in increasing order, as many as there is room for. -/
def State.initialRecords (s : State) (ten id : Nat) : Nat → State
  | 0 => s
  | n + 1 =>
    let l := s.launchOf ten id
    if l.nteams ≤ l.next || l.rqcap - 64 ≤ s.queueLen ten id then s else (s.initialRecord ten id).initialRecords ten id n

/-- The constant bank of a descriptor that is in order, as far as it waits for the staging cache. -/
def State.descMiss (s : State) (ten d : Nat) : List Loc := if descBad d then [] else s.virtMiss ten (dfield d 8 8) 2048

/-- Submits a descriptor for a tenant; `by_` is the issuing launch of LSPAWN. The result as R269 lays it out. -/
def State.submitLaunch (s : State) (ten d : Nat) (by_ : Option Launch) (die : Nat) : Word × State :=
  let no (k : Nat) : Word × State := (.ofNat 64 (k * 2 ^ 32), s)
  match s.tenantOf? ten with
  | none => no 1
  | some t =>
    if descBad d then no 1
    else match s.readBank ten (dfield d 8 8) with
    | none => no 1
    | some bank =>
      let l := launchOfDesc d ten (s.launchId t) die bank
      if by_.any fun p => p.prio < l.prio || (l.ctl && !p.ctl) then no 2
      else if s.levelsCancelled l then no 4
      else if 4096 ≤ (s.launches.filter fun x => x.ten == ten && !x.complete).length then no 3
      else
        let s := s.setTenant { t with nextLaunch := (l.id + 1) % 2 ^ 32 }
        let s := { s with launches := s.launches ++ [l] }
        let s := if (s.rjob? ten l.job).isSome then s else { s with rjobs := s.rjobs ++ [RJob.start ten l.job] }
        (.ofNat 64 l.id, s.initialRecords ten l.id l.nteams)

def execLspawn (f : Fields) (s : State) : Out :=
  s.issue (.lspawn f) f fun s =>
    s.checked (s.spawnAddr (s.scalarSrc f.a) 64 64 2 0 .read) fun ls => s.withFlash ls fun s => s.afterStores (ls.flatMap fun l => Run.locs ⟨l, 64⟩) fun s =>
      let d := (ls.map fun p => s.rdN p 64).zipIdx.foldl (fun n p => n + p.1 * 2 ^ (512 * p.2)) 0
      s.withFlash (s.descMiss s.team.ten d) fun s =>
        let (v, s) := s.submitLaunch s.team.ten d (some s.launch) (dieOf s.team.col)
        s.retS (.lspawn f) f.dst v

/-! ## Levels (R271 to R273) -/

/-- The id a level has in a launch: 0 launch, 1 graph, 2 phase, 3 job. -/
def Launch.level (l : Launch) : Nat → Word
  | 0 => .ofNat 64 l.no
  | 1 => l.graph
  | 2 => l.phase
  | _ => l.job

/-- The launches of a tenant under a level's id; a launch's own id is one of the module the issuing team's launch is of (R266). -/
def State.underLevel (s : State) (ten level : Nat) (id : Word) : List Launch :=
  s.launches.filter fun l => l.ten == ten && l.level level == id && (level != 0 || l.guest.map (·.1) == s.launch.guest.map (·.1))

/-- Id 0 names the issuing team's own (R272). -/
def State.levelId (s : State) (level : Nat) (id : Word) : Word := if id = 0 then s.launch.level level else id

/-- A launch id has bits 63 to 32 zero, which every LAUNCHID has; another id is unknown. -/
def State.lcount (s : State) (level : Nat) (id : Word) : Word :=
  let ten := s.team.ten
  let ls := s.underLevel ten level id
  match ls with
  | [] => BitVec.allOnes 64
  | l :: _ =>
    let (c, o, d) :=
      if level = 0 then (l.cancelled, s.outstanding l, l.completed)
      else (s.cancelledId ten level id, (ls.filter (!·.complete)).length, (ls.filter (·.complete)).length)
    .ofNat 64 (c.toNat * 2 ^ 63 + min o (2 ^ 31 - 1) * 2 ^ 32 + d % 2 ^ 32)

def execLcount (f : Fields) (s : State) : Out :=
  s.issue (.lcount f) f fun s =>
    let level := bits f.mod 0 2
    s.retS (.lcount f) f.dst (s.lcount level (s.levelId level (s.scalarSrc f.a)))

/-- A request for a team to stop at its yield checks (R291). Splits already waiting at one end their waits. -/
def State.ask (s : State) (uid : Nat) (w : Why) : State :=
  let t := s.teamOf uid
  if t.ended || t.requests.contains w then s
  else (s.setTeam { t with requests := t.requests ++ [w] }).mapSplits uid Split.endWait

/-- A suspended team's image is at a peer (R276). -/
def State.isAway (s : State) (uid : Nat) : Bool := s.away.any fun p => p.2.image?.any (·.team.uid == uid)

/-- Cancels one launch: drops its queued work, asks its teams to end; one already stopped and saved ends
where it stands (R273). What a peer holds leaves when the peer has applied the cancel. -/
def State.cancelLaunch (s : State) (ten id : Nat) : State :=
  let l := s.launchOf ten id
  let s := s.setLaunch { l with cancelled := true }
  let s := ({ s with items := s.items.filter fun i => !(i.ten == ten && i.launch == id) } : State).gcDirs
  let s := s.teams.foldl (fun s t =>
    if t.ten == ten && t.launch == id && !t.ended && !s.isAway t.uid then (if t.stopped then s.killTeam t.uid false else s.ask t.uid .cancel) else s) s
  s.checkLaunch ten id

def State.lcancel (s : State) (level : Nat) (id : Word) : Nat × State :=
  let ten := s.team.ten
  match s.underLevel ten level id with
  | [] => (1, s)
  | l :: r =>
    if level = 0 then (if l.cancelled then (2, s) else (0, s.cancelLaunch ten l.id))
    else if s.cancelledId ten level id then (2, s)
    else match s.tenantOf? ten with
    | none => (1, s)
    | some t =>
      let s := s.setTenant { t with cancelled := (level, id.toNat) :: t.cancelled }
      (0, (l :: r).foldl (fun s l => if (s.launchOf ten l.id).cancelled then s else s.cancelLaunch ten l.id) s)

/-- Peers that hold work of cancelled launches of a tenant, and those launches. -/
def State.cancelAt (s : State) (ten : Nat) : List (Nat × Nat) :=
  (s.away.filterMap fun p => if p.2.ten == ten && (s.launchOf ten p.2.launch).cancelled then some (p.1, p.2.launch) else none).foldr
    (fun x r => if r.contains x then r else x :: r) []

/-- Peers whose launches, of which work runs here, were cancelled since `old`, and their ids there. -/
def State.cancelHomes (s old : State) (ten : Nat) : List (Nat × Nat) :=
  (s.launches.filter fun l => l.ten == ten && l.cancelled && !(old.launchOf ten l.id).cancelled).filterMap (·.guest)

/-- A message of the executing instruction, which waits until the peer has it. -/
def State.sendTold (s : State) (peer : Nat) (op : TxOp) : State :=
  s.sendRemote { peer, addr := 0, op, resent := false, who := .told, grp := s.cur, sp := s.curSplit, pc := s.split.pc, batch := 0 }

/-- The status is written at once, or, where peers hold work of what was cancelled or its launch is a peer's, once each of the modules
has applied the cancel: the launch's own passes it on to the others. -/
def execLcancel (f : Fields) (s : State) : Out :=
  s.issue (.lcancel f) f fun s =>
    let level := bits f.mod 0 2
    let (v, t) := s.lcancel level (s.levelId level (s.scalarSrc f.a))
    let ps := if v = 0 then t.cancelAt t.team.ten else []
    let hs := if v = 0 then t.cancelHomes s t.team.ten else []
    if ps.isEmpty && hs.isEmpty then t.retS (.lcancel f) f.dst (.ofNat 64 v)
    else
      let t := ps.foldl (fun t p => t.sendTold p.1 (.cancel t.team.ten p.2)) t
      (hs.foldl (fun t p => t.sendTold p.1 (.access (.cancelHome p.2))) t).waitAt (.peers f.dst.toNat v (t.next (.lcancel f)) hs)

end Sys2Proof.Machine
end

