-- ==== Sys2Proof/Machine/SystemOps.lean ====
section
/-!
DEFINITION. Class 7 (R287 to R290, R306, R309) and the device-control registers, as a group on path 0xF and
a host port on BAR 0 reach them (R285, R303, R340, R344, R346, R356).
-/
namespace Sys2Proof.Machine

/-! ## TRAP, BKPT, SSETS -/

def execTrap (f : Fields) (s : State) : Out :=
  s.issue (.trap f) f fun s =>
    let c := (s.scalarSrc f.a).toNat
    if c / 2 ^ 16 != 0 then s.fault (fieldFault 1) else s.fault { code := 0x41, info32 := c }

def execBkpt (f : Fields) (s : State) : Out :=
  s.issue (.bkpt f) f fun s =>
    if s.launch.bkpt then s.fault { code := 0x40, info32 := f.a.litVal.getD 0 } else s.retire (.bkpt f)

/-- SSETS (R290): privilege, selector, value, in this order. -/
def execSsets (f : Fields) (s : State) : Out :=
  s.issue (.ssets f) f fun s =>
    let sel := f.a.litVal.getD 0
    let v := s.scalarSrc f.b
    let i : Instr := .ssets f
    if !s.isSuper then s.fault { code := 0x11 }
    else match sel with
    | 0 => if v.toNat / 2 ^ 48 != 0 || v.toNat % 64 != 0 then s.fault (fieldFault 2) else (s.setLaunch { s.launch with faultq := v }).retire i
    | 1 => if 1 < v.toNat then s.fault (fieldFault 2) else (s.setLaunch { s.launch with bkpt := v == 1 }).retire i
    | 2 => if 3 < v.toNat then s.fault (fieldFault 2) else ((s.setTeam { s.team with heat := v.toNat }).charged s s.team.col).retire i
    | _ => s.fault (fieldFault 1)

/-! ## Checkpoint requests (R304 to R307, R314) and RPREAD (R309) -/

/-- The lowest slot that holds neither RPGEN's nor RPPREV's generation (R304). -/
def RJob.nextSlot (j : RJob) : Nat :=
  let held (k : Nat) : Bool := (j.rpgen != 0 && j.rpman / max j.slotSize 1 == k) || (j.rpprev != 0 && j.rpprevman / max j.slotSize 1 == k)
  ((List.range 3).find? fun k => !held k).getD 0

/-- The teams of a job that still run. -/
def State.jobTeams (s : State) (ten : Nat) (job : Word) : List Team :=
  s.teams.filter fun t => !t.ended && t.ten == ten && (s.launchOf t.ten t.launch).job == job

/-- A message to a peer that nobody here waits for. -/
def State.tell (s : State) (peer : Nat) (op : RemoteOp) : State :=
  s.sendRemote { peer, addr := 0, op := .access op, resent := false, who := .nobody, grp := 0, sp := 0, pc := 0, batch := 0 }
/-- Peers that hold work of a job, each once (R276). -/
def State.jobPeers (s : State) (ten : Nat) (job : Word) : List Nat :=
  ((s.away.filter fun p => p.2.ten == ten && (s.launchOf ten p.2.launch).job == job).map (·.1)).eraseDups

/-- The request for a job's checkpoint, sent to a peer that holds work of it; `who` waits for it to be there. -/
def State.tellCkpt (s : State) (who : TxWho) (job : Word) (peer : Nat) : State :=
  s.sendRemote { peer, addr := 0, op := .access (.checkpoint job), resent := false, who, grp := s.cur, sp := s.curSplit, pc := s.split.pc, batch := 0 }

/-- Starts a checkpoint of a job that has none in progress and is not rolling back: every team of it is asked, and every peer that
holds work of it (R307, R312). -/
def State.startCkpt (s : State) (ten : Nat) (job : Word) (entry : Bool) (who : TxWho := .nobody) : State :=
  match s.rjob? ten job with
  | none => s
  | some j =>
    if j.rolling then s
    else if j.progress.isSome then
      (if entry then s.setRJob { j with progress := j.progress.map fun c => { c with entry := true } } else s)
    else
      let ps := s.jobPeers ten job
      let c : Ckpt := { gen := j.gen, slot := j.nextSlot, images := [], items := [], launches := [], known := [], joins := [], entry, committed := false, len := 0, waiting := ps, peers := ps }
      let s := ps.foldl (fun s p => s.tellCkpt who job p) (s.setRJob { j with progress := some c, state := 1, last := j.gen })
      (s.jobTeams ten job).foldl (fun s t => s.ask t.uid .checkpoint) s

def ckptResult (status gen : Nat) : Word := .ofNat 64 (status * 2 ^ 32 + gen % 2 ^ 32)

/-- CKPT's result is written, then the request reaches the team itself (R306); where peers hold work of the job, the result waits
until each has the request for its teams (R330). -/
def execCkpt (f : Fields) (s : State) : Out :=
  s.issue (.ckpt f) f fun s =>
    let i : Instr := .ckpt f
    let ten := s.team.ten
    let job := s.launch.job
    match s.rjob? ten job with
    | none => s.retS i f.dst (ckptResult 2 0)
    | some j =>
      match j.progress with
      | some c => s.retS i f.dst (ckptResult 1 c.gen)
      | none =>
        if !j.hasArea then s.retS i f.dst (ckptResult 2 0)
        else if (s.jobPeers ten job).isEmpty || j.rolling then (s.retS i f.dst (ckptResult 0 j.gen)).startCkpt ten job false
        else (s.startCkpt ten job false .told).waitAt (.peers f.dst.toNat (ckptResult 0 j.gen).toNat (s.next i) [])

def RJob.read (j : RJob) (sel : Nat) : Word :=
  if !j.hasArea then 0
  else match sel with
  | 0 => .ofNat 64 j.rpgen
  | 1 => .ofNat 64 j.rpman
  | 2 => .ofNat 64 j.rpprev
  | 3 => .ofNat 64 j.rpprevman
  | _ => .ofNat 64 (j.last % 2 ^ 32 * 2 ^ 32 + j.norb.toNat * 8 + j.state % 8)

def execRpread (f : Fields) (s : State) : Out :=
  s.issue (.rpread f) f fun s =>
    s.retS (.rpread f) f.dst (((s.rjob? s.team.ten s.launch.job).map fun j => j.read (f.a.litVal.getD 0)).getD 0)

/-! ## A submission's reads (R77, R356) -/

/-- The tenant and the address of the descriptor a port submits, where they are in order. -/
def Port.desc? (p : Port) : Option (Nat × Nat) :=
  let a := p.subaddr.toNat
  if a / 2 ^ 60 ≤ 1 && a % 2 ^ 60 / 2 ^ 48 == 0 && a % 64 == 0 && p.subten.toNat < 32 then some (p.subten.toNat, a % 2 ^ 60) else none
/-- What the acceptance of a port's submission still needs of flash: the descriptor, then the constant bank. -/
def State.submissionMiss (s : State) (port : Nat) : List Loc := match (s.port port).desc? with
  | none => []
  | some (ten, a) => match s.virtMiss ten a 128 with
    | [] => ((s.virtRead? ten a 128).map (s.descMiss ten)).getD []
    | ls => ls

/-! ## Group control (R285, R286) -/

/-- The next address of the word at `pc`, as memory shows it: a full form with L = 1 is two words. -/
def State.nextAddr (s : State) (ten : Nat) (pc : Word) : Word :=
  match s.virtRead? ten pc.toNat 8 with
  | some w => if !w.testBit 63 && w.testBit 10 then pc + 16 else pc + 8
  | none => pc + 8

/-- Where a split goes on after a wait it stands in. `next` gives the next address of a word. -/
def Split.past (x : Split) (w : Wait) (next : Word → Word) : Word :=
  match w with
  | .bar _ _ n => n
  | .barw _ _ n => n
  | .nap _ => x.pc
  | .await _ n => n
  | .cwait _ _ _ n => n
  | _ => next x.pc

/-- One split's action. A split that took no fault keeps its place, but by action 1 one in a wait, or stopped for
pre-emption out of one, goes on after it; one whose instruction has yet to take effect, or that is inside TJOIN or
LCANCEL, is at a boundary. -/
def Split.resumeBy (x : Split) (act : Nat) (pcN : Word) (next : Word → Word) (tick : Nat) : Split :=
  let go (pc : Word) : Split :=
    { x with pc, wait := .none, fault := none, named := none, resume := .none, denied := none, since := tick + 1 }
  if !x.live then x
  else match act, x.fault with
  | 2, _ => go pcN
  | 1, some (pc, _) => go (next pc)
  | 1, none =>
    if x.wait.isYieldCheck then go (x.past x.wait next)
    else if x.wait = .yielded ∧ x.resume ≠ .none then { x with pc := x.past x.resume next, resume := .none, denied := none }
    else { x with since := tick + 1 }
  | _, some (pc, _) => go pc
  | _, none => { x with since := tick + 1 }

/-- The split's fault is 0x30 or 0x31 and its action 0 or 1 (status 4). -/
def Split.badAction (x : Split) (act : Nat) : Bool :=
  x.live && act < 2 && match x.fault with
    | some (_, c) => c == 0x30 || c == 0x31
    | none => false

/-- Where the command finds its group, resident or suspended here, by index; one whose image is at a peer is found there (R276). -/
def State.gctlGroup? (s : State) : Option Nat :=
  let la := s.gctl.target.toNat / 2 ^ 32
  let te := s.gctl.target.toNat % 2 ^ 32
  let gi := s.gctl.gsel.toNat % 16
  (List.range s.groups.length).find? fun i =>
    let g := s.grpAt i
    let t := s.teamOf g.team
    !t.ended && !s.isAway t.uid && s.launchNo t.ten t.launch == la && t.id == te && g.gid == gi

def State.gctlStatus (s : State) : Nat :=
  let c := s.gctl
  let a0 := c.act.toNat % 4
  let a1 := c.act.toNat / 256 % 4
  let badPc (p : Word) : Bool := p.toNat / 2 ^ 48 != 0 || p.toNat % 8 != 0
  match s.gctlGroup? with
  | none => 1
  | some i =>
    let g := s.grpAt i
    if !g.stopped || g.seq != some c.seq.toNat then 2
    else if (g.s0.live && a0 == 2 && badPc c.pc0) || (g.s1.live && a1 == 2 && badPc c.pc1) then 3
    else if g.s0.badAction a0 || g.s1.badAction a1 then 4
    else if c.gsel.toNat / 16 != 0 || c.act &&& ~~~0x303#64 != 0 then 5
    else 0

/-- What a split waited for no longer sets its place: TJOIN's push, a peer's counter, peers' cancels. -/
def State.detach (s : State) (gi k : Nat) : State :=
  { s with
    joinWaits := s.joinWaits.map fun j => if j.who.any fun w => w.1 == gi && w.2.1 == k then { j with who := none } else j
    remote := s.remote.map fun x => if x.grp = gi ∧ x.sp = k then (match x.who with
      | .poll .. => { x with who := .nobody }
      | .told => { x with who := .nobody }
      | _ => x) else x }

/-- The command (R286). A saved group takes its actions with its image: it is found among the groups, the
team stopped, and runs again once restored. -/
def State.groupControl (s : State) : State :=
  let st := s.gctlStatus
  let s' := { s with gctl := { s.gctl with status := st } }
  if st != 0 then s'
  else match s.gctlGroup? with
  | none => s'
  | some i =>
    let g := s.grpAt i
    let t := s.teamOf g.team
    let a0 := s.gctl.act.toNat % 4
    let a1 := s.gctl.act.toNat / 256 % 4
    if (g.s0.live && a0 == 3) || (g.s1.live && a1 == 3) then s'.killTeam g.team true
    else
      let next := s.nextAddr t.ten
      let x0 := g.s0.resumeBy a0 s.gctl.pc0 next s.tick
      let x1 := g.s1.resumeBy a1 s.gctl.pc1 next s.tick
      let s' := if x0.wait = g.s0.wait then s' else s'.detach i 0
      let s' := if x1.wait = g.s1.wait then s' else s'.detach i 1
      s'.setGrpAt i { g with stopped := false, saved := false, seq := none, s0 := x0, s1 := x1 }

/-! ## Device-control registers -/

/-- A port whose link is up, the device not asleep. -/
def State.portOk (s : State) (port : Nat) : Bool := port < 2 && (s.port port).up && s.biv.phase != 2
/-- A write that is dropped and counted (R344, R345, R348). -/
def State.reject (s : State) (port : Nat) : State := s.setPort port { s.port port with rejects := (s.port port).rejects + 1 }

/-- A line's part of a write lands as one string write (R114); the last of a peer's transaction answers it. -/
def State.landLine (s : State) (w : LineWrite) : State :=
  let s := ((w.locs.zip w.bytes).foldl (fun s p => (s.wrB p.1 p.2).coverDebts p.1 1 none) s).keepDirs w.locs
  match w.tell with
  | some p => { s with told := .remoteAnswer p 0 0 :: s.told }
  | none => s
/-- The queued lines land in order, up to the last that `hit` picks: no write of a port passes one before it (R343). -/
def State.flushLines (s : State) (hit : LineWrite → Bool) : State :=
  let n := s.lines.zipIdx.foldl (fun n p => if hit p.1 then p.2 + 1 else n) 0
  (s.lines.take n).foldl State.landLine { s with lines := s.lines.drop n }

/-- The posted writes of a port that have not landed do so, in their order (R343). -/
def State.posted (s : State) (port : Nat) : State := s.flushLines fun w => w.port == some port

/-- A command of a port that needs no semaphore: the writes the port made before it are visible first (R343); one that the
device does not take before it runs is dropped and counted (R348). -/
def State.command (s : State) (port : Nat) (k : State → State) : State :=
  if !s.portOk port then s
  else
    let s := s.posted port
    if s.boot.brstate = 5 then k s else s.reject port

/-- Claim and release of the semaphore by a port (R344). -/
def State.semWrite (s : State) (p : Nat) (v : Nat) : State :=
  if v = 1 then (if s.ctlsem = 0 then { s with ctlsem := p + 1 } else s)
  else if v = 0 then (if s.ctlsem = p + 1 then { s with ctlsem := 0 } else s)
  else s

/-- FWGO (R350): taken in BRSTATE 3 or 6 only. -/
def State.fwGo (s : State) (len : Nat) : State :=
  if s.boot.brstate = 3 || s.boot.brstate = 6 then { s with boot := { s.boot with brstate := 4, fwlen := len } }
  else { s with boot := { s.boot with fwstat := 6 } }

/-- ATTGO (R351): ignored while a report is being signed; 32,768 reports in a life. -/
def State.attGo (s : State) : State :=
  let b := s.boot
  if b.brstate < 3 || 6 < b.brstate then s
  else if b.signing then { s with boot := { b with attstat := 2 } }
  else if 32768 ≤ b.attCount then { s with boot := { b with attstat := 3 } }
  else { s with boot := { b with signing := true } }

/-- The group-control block is being written through a port, or by a group. -/
def GCtl.wroteBy (g : GCtl) (port : Option Nat) : GCtl := { g with port := port.getD g.port }

/-- An aligned 8-byte write of device control, by a port or by a privileged group (R236, R285, R343). -/
def State.ctlWrite (s : State) (port : Option Nat) (o v : Nat) : State :=
  let w : Word := .ofNat 64 v
  let g := s.gctl.wroteBy port
  match o with
  | 0x10000 => { s with gctl := { g with target := w } }
  | 0x10008 => { s with gctl := { g with gsel := w } }
  | 0x10010 => { s with gctl := { g with seq := w } }
  | 0x10018 => { s with gctl := { g with act := w } }
  | 0x10020 => { s with gctl := { g with pc0 := w } }
  | 0x10028 => { s with gctl := { g with pc1 := w } }
  | 0x10040 => s.groupControl
  | 0x40000 => match port with
    | some p => s.semWrite p v
    | none => s
  | 0x40010 => s.setPort 0 { s.port 0 with bar2ten := v / 2 ^ 48 % 32, bar2base := v / 2 ^ 36 % 2 ^ 12 }
  | 0x40018 => s.setPort 1 { s.port 1 with bar2ten := v / 2 ^ 48 % 32, bar2base := v / 2 ^ 36 % 2 ^ 12 }
  | 0x50020 => s.fwGo v
  | 0x51020 => s.attGo
  | 0x60000 => s.setPort 0 { s.port 0 with subaddr := w }
  | 0x60008 => s.setPort 0 { s.port 0 with subten := w }
  | 0x60010 => s.setPort 0 { s.port 0 with subBusy := true }
  | 0x60020 => s.setPort 1 { s.port 1 with subaddr := w }
  | 0x60028 => s.setPort 1 { s.port 1 with subten := w }
  | 0x60030 => s.setPort 1 { s.port 1 with subBusy := true }
  | o =>
    if 0x30000 ≤ o && o < 0x34000 && (o - 0x30000) % 128 == 0x20 && 30 ≤ v && v ≤ 90 then
      s.setLink ((o - 0x30000) / 128) { s.link ((o - 0x30000) / 128) with berth := v }
    else if 0x51000 ≤ o && o < 0x51020 then { s with boot := { s.boot with nonce := Memory.wrN s.boot.nonce (o - 0x51000) 8 v } }
    else if 0x800000 ≤ o && o < 0x1000000 && s.boot.brstate != 4 then
      { s with boot := { s.boot with window := Memory.wrN s.boot.window (o - 0x800000) 8 v } }
    else s

/-- An `n`-byte write inside a register: the register's other bytes keep (log entry 15). -/
def State.ctlWriteN (s : State) (port : Option Nat) (o n v : Nat) : State :=
  if n = 16 then (s.ctlWrite port o (v % 2 ^ 64)).ctlWrite port (o + 8) (v / 2 ^ 64)
  else if n = 8 then s.ctlWrite port o v
  else
    let old := s.ctlRead port (o / 8 * 8)
    let lo := 8 * (o % 8)
    s.ctlWrite port (o / 8 * 8) (old - old / 2 ^ lo % 2 ^ (8 * n) * 2 ^ lo + v % 2 ^ (8 * n) * 2 ^ lo)

end Sys2Proof.Machine
end

