-- ==== Sys2Proof/Machine/EvMem.lean ====
section
/-!
DEFINITION. Events of the homes, the query engines, the page walkers and memory (R68 to R75, R95 to R101,
R108, R114 to R118, R226 to R241), and what peers ask. An event whose condition does not hold changes nothing.
-/
namespace Sys2Proof.Machine

/-! ## Which access a home may serve (R188, R228 to R231) -/

def Pend.open (p : Pend) : Bool := p.lanes.any (·.res.isNone)

/-- Lane `x` of access `p` must wait for the earlier access `q` of its group: for one location on the same path, for an
acquire of its split, as a release (which below the system's scope lets earlier stores follow it, R229), and as a write
for its split's reads. A read is under way until its result has returned. Two lanes of one ST that reach a byte by a translated path
and by path 0x5 to this module are left unordered: R188 names the highest lane and R234 gives the pair no order (log entry 75). -/
def Pend.holds (q p : Pend) (x : PLane) : Bool :=
  q.lanes.any (fun y => y.res.isNone && y.own5 == x.own5 && y.loc.overlaps q.n x.loc p.n) || (q.acq && q.sp == p.sp) ||
    (p.rel && (5 ≤ p.scope || q.acc.reads)) || (p.acc.writes && q.acc.reads && q.sp == p.sp)

/-- Staging copies of granules that meet ranges are dropped (R77, R302). -/
def State.unstageRuns (s : State) (rs : List (Loc × Nat)) : State :=
  { s with staged := s.staged.filter fun g => !rs.any fun r => r.1.sp == .flash && r.1.a < 2 ^ 21 * (g + 1) && 2 ^ 21 * g < r.1.a + r.2 }
def State.unstage (s : State) (ls : List Loc) : State := s.unstageRuns (ls.map fun l => (l, 1))

/-- A matrix operation names the slot or tile of a window place. -/
def MxOp.names (o : MxOp) (l : Loc) : Bool :=
  match winArea l.a with
  | 2 => o.kind.slots.contains (l.a / 1024 % 256)
  | 3 => o.kind.tiles.contains (l.a / 1024 % 512)
  | _ => false
/-- Matrix operations that a barrier orders before a window access on their slot or tile are applied (R198, R234), and so is a claim
of it that came before: nobody reads what a slot or bank held before (R197). -/
def State.syncClear (s : State) (grp id : Nat) (l : Loc) : Bool :=
  l.sp != .win ||
    ((s.col (winCol l.a)).ops.all fun o => !(o.id < id && o.kind.claims && o.names l)) &&
    (s.grpAt grp).syncs.all fun y =>
      id < y.after || (s.col (winCol l.a)).ops.all fun o => !(o.grp == y.grp && o.id < y.upTo && o.names l)

/-- The edges of R228 to R231 and the staging cache (R77) allow lane `x` of `p` to be served now. -/
def State.mayServe (s : State) (p : Pend) (x : PLane) : Bool :=
  s.granuleReady x.loc && s.synced p.grp p.id &&
    s.pend.all (fun q => !(q.grp == p.grp && q.id < p.id && q.holds p x)) &&
    s.queries.all (fun q => !(q.grp == p.grp && q.id < p.id && (p.rel || (p.acc.writes && q.sp == p.sp) ||
      q.lanes.any fun y => y.res.isNone && s.laneReads q y x.loc p.n x.own5))) &&
    s.syncClear p.grp p.id x.loc && !(p.acc.reads && s.owes (.split p.grp) p.scope x.loc p.n)

def bytesOf (n v : Nat) : List Byte := (List.range n).map fun k => .ofNat 8 (v / 2 ^ (8 * k))

def Acc.sx : Acc → Bool
  | .load b => b
  | _ => false

/-! ## Transactions to a peer (R338) -/

/-- Lanes of an access that touch one line of a peer, and may be served now, go in one transaction with `x`. An atomic's goes alone. -/
def State.lineOf (s : State) (p : Pend) (x : PLane) : List PLane :=
  match p.acc with
  | .atom _ => [x]
  | _ => p.lanes.filter fun y => y.res.isNone && !y.sent && y.loc.sp == x.loc.sp && y.loc.a / 128 == x.loc.a / 128 && (y == x || s.mayServe p y)

def Pend.remoteOp (p : Pend) (x : PLane) (xs : List PLane) : RemoteOp :=
  match p.acc with
  | .load _ => .read (xs.flatMap fun y => (List.range p.n).map (y.loc.a % 128 + ·))
  | .store => .write (xs.flatMap fun y => (bytesOf p.n y.data).zipIdx.map fun b => (y.loc.a % 128 + b.2, b.1))
  | .atom op => .atomic op (p.n == 8) (.ofNat 64 x.data) (.ofNat 64 x.cmp)

def State.setPend (s : State) (p : Pend) : State := { s with pend := s.pend.map fun q => if q.id = p.id then p else q }
def State.dropPend (s : State) (id : Nat) : State := { s with pend := s.pend.filter (·.id != id) }
def State.pend? (s : State) (id : Nat) : Option Pend := s.pend.find? (·.id == id)

/-- The transaction of lane `x`, with the lanes merged into it: an atomic's is sent to its own address. -/
def State.sendLine (s : State) (p : Pend) (x : PLane) : State :=
  match x.loc.sp with
  | .remote peer =>
    let xs := s.lineOf p x
    let s := s.setPend { p with lanes := p.lanes.map fun y => if xs.contains y then { y with sent := true } else y }
    s.sendRemote
      { peer, addr := (match p.acc with
          | .atom _ => x.loc.a
          | _ => x.loc.a / 128 * 128)
        op := .access (p.remoteOp x xs), resent := false, who := .lanes p.id (xs.map (·.lane)), grp := p.grp, sp := p.sp, pc := p.pc, batch := 0 }
  | _ => s

/-- Every line of a load that lies at a peer is asked for. -/
def State.sendLoad (s : State) (id : Nat) : List Nat → State
  | [] => s
  | k :: r =>
    (match s.pend? id with
    | some p => match p.lanes[k]? with
      | some x => if x.res.isNone && !x.sent then s.sendLine p x else s
      | none => s
    | none => s).sendLoad id r

/-! ## Serving (R68, R191) -/

/-- A window address in an accumulator bank of nobody's (R92). -/
def State.openBank (s : State) (a : Nat) : Bool := winArea a == 3 && s.bankFree (winCol a) (a % 2 ^ 19 / 8192)

/-- A write that is a release below the system's scope, or follows a FENCE of its split there, with earlier stores still under
way: who observes it within its scope, and the FENCE's, waits for them; and so where it comes over an earlier release of its own
group (R228, R229). -/
def State.noteDebt (s : State) (p : Pend) (l : Loc) : State :=
  let marks := (s.grpAt p.grp).fences.filter fun m => m.sp == p.sp && m.upTo ≤ p.id
  let olds := s.debts.filter fun d => d.grp == p.grp && d.job.isNone && d.loc.overlaps d.n l p.n
  let all := (if p.rel && p.scope < 5 then [(p.scope, p.id)] else []) ++ (marks.map fun m => (min p.scope m.scope, m.upTo)) ++
    olds.map fun d => (p.scope, d.upTo)
  { s with debts := ((all.filter fun x => s.busyBefore p.grp x.2).map fun x => ⟨l, p.n, p.grp, x.1, x.2, none⟩) ++ s.debts }

/-- Serves one lane at its home in this module: the value it read, and the state after. A load of an unallocated bank
sets MQSTAT.UNALLOC (R92). -/
def State.serve (s : State) (ten : Nat) (job : Word) (p : Pend) (x : PLane) : Nat × State :=
  let n := p.n
  let old : Nat × State := match x.loc.sp with
    | .ctl => (s.ctlReadN none x.loc.a n, s)
    | .win => (s.rdN x.loc n, if s.openBank x.loc.a && p.acc == .load p.acc.sx then s.setGrpAt p.grp { s.grpAt p.grp with unalloc := true } else s)
    | _ => (s.rdN x.loc n, s)
  let put (s : State) (v : Nat) : State := match x.loc.sp with
    | .ctl => s.ctlWriteN none x.loc.a n v
    | _ => s.homeWrite ten job x.loc n v
  match p.acc with
  | .load _ => old
  | .store => (0, ((put old.2 x.data).coverDebts x.loc n (some p.grp)).noteDebt p x.loc)
  | .atom op => (old.1, (put old.2 (atomResult op n old.1 x.data x.cmp)).noteDebt p x.loc)

def PLane.served (x : PLane) (v : Nat) : PLane := { x with res := some v }

/-- Marks the first lane that is neither served nor sent. -/
def serveFirst (v : Nat) : List PLane → List PLane
  | [] => []
  | x :: r => if x.res.isNone && !x.sent then x.served v :: r else x :: serveFirst v r

/-- A served access leaves once nothing of it is awaited. -/
def State.retirePend (s : State) (p : Pend) : State :=
  if !p.open && (p.acc == .store || p.dst == .none) then s.dropPend p.id else s.setPend p

def State.jobOfGroup (s : State) (gi : Nat) : Nat × Word :=
  let t := s.teamOf (s.grpAt gi).team
  (t.ten, (s.launchOf t.ten t.launch).job)

/-- Serves the next lane of a store or atomic whose place is of the kind `ok`, or sends it to its peer. -/
def State.homeStep (s : State) (id : Nat) (ok : Pend → PLane → Bool) : State :=
  match s.pend? id with
  | none => s
  | some p => match p.lanes.find? fun x => x.res.isNone && !x.sent with
    | none => s
    | some x =>
      if p.acc.writes && ok p x && s.mayServe p x then
        if x.loc.isRemote then s.sendLine p x
        else
          let j := s.jobOfGroup p.grp
          let (v, s) := s.serve j.1 j.2 p x
          s.retirePend { p with lanes := serveFirst v p.lanes }
      else s

def Pend.rcv (p : Pend) : Bool := p.rel && p.scope == 6

/-- A home serves one lane of a store or atomic outside indexed pages (R68, R226). -/
def execHomeWrite (id : Nat) (s : State) : Out := .next (s.homeStep id fun p x => !x.loc.indexed && !p.rcv)
/-- A home serves a string write, its directories staying exact (R114). -/
def execStringWrite (id : Nat) (s : State) : Out := .next (s.homeStep id fun p x => x.loc.indexed && !p.rcv)
/-- A release at recovery scope is applied, everything before it in the checkpoint domain (R240). -/
def execRcvReleaseApply (id : Nat) (s : State) : Out := .next (s.homeStep id fun p _ => p.rcv)

/-! ## Results (R42, R185, R189) -/

/-- A loaded value brought to the register's width (R185). -/
def extend (sx : Bool) (n w v : Nat) : Nat := if sx && n * 8 < w then wrapTo w (toSigned (8 * n) v) else v

def Group.putLane (g : Group) (r l n v : Nat) : Group :=
  if n = 16 then (g.wrV64 r l (.ofNat 64 v)).wrV64 (r + 2) l (.ofNat 64 (v / 2 ^ 64))
  else if n = 8 then g.wrV64 r l (.ofNat 64 v)
  else g.wrV r l (.ofNat 32 v)

/-- The results of a served access are written. -/
def Group.putResults (g : Group) (p : Pend) : Group :=
  let sx := p.acc.sx
  p.lanes.foldl (fun g x =>
    let v := x.res.getD 0
    match p.dst with
    | .none => g
    | .sca r => g.wrS r (.ofNat 64 (extend sx p.n 64 v))
    | .vec r => g.putLane r x.lane p.n (extend sx p.n 32 v)) g

/-- Serves every remaining lane of a load at once, where the edges allow. -/
def State.serveAll (s : State) (p : Pend) : List PLane → List PLane × State
  | [] => ([], s)
  | x :: r =>
    let j := s.jobOfGroup p.grp
    let (x, s) := if x.res.isNone then (let (v, s) := s.serve j.1 j.2 p x; (x.served v, s)) else (x, s)
    let (xs, s) := s.serveAll p r
    (x :: xs, s)

def flt30 (g : Group) : Flt := { code := 0x30, info32 := g.idemRetry }

/-- The places of an access's lanes. -/
def Pend.locs (p : Pend) : List Loc := p.lanes.map (·.loc)

/-! ## Fetch and the staging cache (R27 to R29, R77, R302) -/

/-- The word at an address, through the generic path with the executable attribute. Where code is rewritten under a running
group R29 allows the old or the new contents of each word, fetched up to 16 words ahead; here a word is read as memory stands
when it issues (log entry 65). A program counter beyond the generic path, which CODE of a record may give, raises 0x12 (log
entry 77). -/
def State.fetchAt (s : State) (t : Team) (pc : Word) : Chk (Loc × Word) :=
  if pc.toNat / 2 ^ 48 != 0 then .flt (accFlt 0x12 .fetch pc.toNat)
  else if pc.toNat % 8 != 0 then .flt (accFlt 0x13 .fetch pc.toNat)
  else (s.translate t.ten pc.toNat pc.toNat .fetch false).bind fun l => .ok (l, .ofNat 64 (s.rdN l 8))

/-- The word at a program counter, the word after it where it is a literal word, and their places. Where the word itself fails a
decode check and its literal word cannot be fetched, the fetch's fault is raised: R28 does not order the two (log entry 68). -/
def State.fetch (s : State) (t : Team) (pc : Word) : Chk (Word × Word × List Loc) :=
  (s.fetchAt t pc).bind fun (l, w) =>
    if hasLit w then (s.fetchAt t (pc + 8)).bind fun (l', v) => .ok (w, v, [l, l']) else .ok (w, 0, [l])

/-- Words of a flash page not in the staging cache come with its fill (R77). -/
def State.unstaged (s : State) (ls : List Loc) : Bool := ls.any fun l => !s.granuleReady l

def Loc.inGranule (g : Nat) (l : Loc) : Bool := l.sp == .flash && l.a / 2 ^ 21 == g

/-- A split waits for a granule to fetch its next word. -/
def State.fetchWaits (s : State) (p : Nat × Nat) (granule : Nat) : Bool :=
  let g := s.grpAt p.1
  let x := s.spAt p
  x.live && !g.stopped && x.wait == .none && match s.fetch (s.teamOf g.team) x.pc with
    | .ok (_, _, ls) => ls.any (Loc.inGranule granule)
    | _ => false

/-- The group owes a 0x30 for a batch (R132). -/
def State.owe30 (s : State) (gi batch : Nat) : State :=
  let g := s.grpAt gi
  s.setGrpAt gi { g with pend30 := if g.pend30.contains batch then g.pend30 else g.pend30 ++ [batch] }

/-- The word a split would issue next comes with an uncorrectable error: 0x30 at it, and no staging copy of it is kept (R77, R302). -/
def State.fetchError (s : State) (p : Nat × Nat) : State :=
  let g := s.grpAt p.1
  let x := s.spAt p
  if !x.live || g.stopped || x.wait != .none then s
  else match s.fetch (s.teamOf g.team) x.pc with
    | .ok (_, _, ls) => (s.unstage ls).takeFault p.1 p.2 x.pc false (flt30 g)
    | _ => s

/-! ## Results return -/

/-- The results of a load or atomic return, or an uncorrectable error does: then no lane is written and the group takes
0x30 at the instruction (R189, R279). R189 does not say whether an atomic's memory has changed then: here its home has written it
(log entry 84). A load asks peers for their bytes and waits for the answers; one that waits for a
granule the staging cache has dropped asks for it again (R77). Numbers not handed out yet name instruction fetches, split k of group
g by 2 g + k from the next number on: an error on one is R302's (log entry 78). -/
def execLoadResultReturn (id : Nat) (err : Bool) (s : State) : Out :=
  .next <| match s.pend? id with
  | none => if err && s.nextId ≤ id then s.fetchError ((id - s.nextId) / 2, (id - s.nextId) % 2) else s
  | some p =>
    if p.acc == .store || (p.acc.writes && p.open) then s
    else if !(p.lanes.all fun x => x.res.isSome || x.sent || s.mayServe p x) then
      s.wantFlash ((p.lanes.filter (·.res.isNone)).map (·.loc))
    else if p.lanes.any fun x => x.res.isNone && !x.sent && x.loc.isRemote then s.sendLoad p.id (List.range p.lanes.length)
    else if p.lanes.any fun x => x.res.isNone && x.sent then s
    else if err then ((s.dropPend id).unstage p.locs).takeFault p.grp p.sp p.pc false (flt30 (s.grpAt p.grp))
    else
      let (xs, s) := s.serveAll p p.lanes
      (s.setGrpAt p.grp ((s.grpAt p.grp).putResults { p with lanes := xs })).dropPend id

/-! ## Queries (R108, R115, R116, R120) -/

def State.setQuery (s : State) (q : Query) : State := { s with queries := s.queries.map fun x => if x.id = q.id then q else x }

/-- What an agent's query read would see of a release below the system's scope waits for what it covers (R229). -/
def State.queryOwes (s : State) (q : Query) (x : QLane) : Bool :=
  s.debts.any fun d => s.laneReads q x d.loc d.n x.own5 && s.owes (.split q.grp) 4 d.loc d.n

/-- A lane of a query may be served: the build has ended, the group's earlier accesses to what it may read are done, an
acquire of its split before it too, and earlier queries that may read a byte of the same (R228, R230). -/
def State.mayAsk (s : State) (q : Query) (x : QLane) : Bool :=
  (q.dir == 0 || (s.dir? q.dir).any (·.built)) && s.synced q.grp q.id &&
    s.pend.all (fun p => !(p.grp == q.grp && p.id < q.id && ((p.acq && p.sp == q.sp) ||
      p.lanes.any fun y => y.res.isNone && s.laneReads q x y.loc p.n y.own5))) &&
    s.queries.all (fun r => !(r.grp == q.grp && r.id < q.id && r.lanes.any fun y => y.res.isNone && s.laneShares q x r y)) &&
    !s.queryOwes q x

/-- What a lane reads next: its input first, then what its walk looks at, checked then. -/
def State.queryNext (s : State) (q : Query) (x : QLane) : Chk (List Loc) :=
  match x.walk, s.dir? q.dir with
  | none, _ => .ok x.src
  | some t, some d => (s.tkReads d t).lane x.lane
  | some _, none => .ok []
/-- Some lane's next read lies in a granule. -/
def State.queryIn (s : State) (q : Query) (granule : Nat) : Bool :=
  q.lanes.any fun x => x.res.isNone && match s.queryNext q x with
    | .ok ls => ls.any fun l => l.sp == .flash && l.a / 2 ^ 21 == granule
    | _ => false

/-- A query ends without its results, in a fault of its group at its instruction. -/
def State.dropQuery (s : State) (id : Nat) : State := ({ s with queries := s.queries.filter (·.id != id) } : State).gcDirs
def State.failQuery (s : State) (q : Query) (f : Flt) : State := (s.dropQuery q.id).takeFault q.grp q.sp q.pc false f

/-- One query read of a lane on the bits as they stand (R115, R121, R126, R127): its answer, or TKMATCH's next. -/
def State.ask1 (s : State) (q : Query) (x : QLane) : QLane × State :=
  match q.op, x.walk with
  | 0x28A, none =>
    let (input, s) := s.readLocs x.src
    ({ x with walk := some (Trie.start x.y input) }, s)
  | 0x28A, some t => match s.dir? q.dir with
    | some d => match s.tkstep d q.ctl t with
      | .inl t => ({ x with walk := some t }, s)
      | .inr r => ({ x with res := some r }, s)
    | none => ({ x with res := some (0, 0) }, s)
  | 0x28B, _ =>
    let (input, s) := s.readLocs x.src
    ({ x with res := some (x.y - utfT input, 0) }, s)
  | op, _ => ({ x with res := some (qDeliver q.wide ((s.dir? q.dir).bind fun d => qAnswer op d.kind (s.bits d) x.x x.y), 0) }, s)

/-- The list without later repeats. -/
def distinct {α : Type} [DecidableEq α] : List α → List α
  | [] => []
  | x :: r => x :: (distinct r).filter (· != x)

/-- Peer lines among places: peer, line, and the offsets asked for (R338). -/
def peerLines (ls : List Loc) : List (Nat × Nat × List Nat) :=
  let far := ls.filterMap fun l => match l.sp with
    | .remote p => some (p, l.a)
    | _ => none
  (distinct (far.map fun x => (x.1, x.2 / 128))).map fun k =>
    (k.1, k.2 * 128, distinct ((far.filter fun x => x.1 == k.1 && x.2 / 128 == k.2).map (·.2 % 128)))

/-- Asks peers for bytes, one read a line. -/
def State.askPeers (s : State) (ls : List Loc) (who : TxWho) (grp sp : Nat) (pc : Word) (batch : Nat) : State :=
  (peerLines ls).foldl (fun s k =>
    s.sendRemote { peer := k.1, addr := k.2.1, op := .access (.read k.2.2), resent := false, who, grp, sp, pc, batch }) s

/-- Lanes of a query that ask peers for input now: none of them has, each may be served, and what lies in flash is there. They ask
together, once for each line (R338). -/
def State.askingLanes (s : State) (q : Query) : List Nat :=
  (List.range q.lanes.length).filter fun k => match q.lanes[k]? with
    | some x => x.res.isNone && x.walk.isNone && !x.asked && x.src.any Loc.isRemote && x.src.all s.granuleReady && s.mayAsk q x
    | none => false

/-- A query read: lane number `k` of the query is served (R115), or asks for bytes of its own at a peer or in flash. A label or
value on a page that fails its check faults the query, and one on a page that is not present is reported and waits (R96, R98). -/
def execQueryRead (id k : Nat) (s : State) : Out :=
  .next <| match s.queries.find? (·.id == id) with
  | none => s
  | some q => match q.lanes[k]? with
    | none => s
    | some x =>
      if x.res.isSome then s
      else match s.queryNext q x with
      | .flt f => s.failQuery q f
      | .wait t p m _ => s.report t p m
      | .ok next =>
      if !next.all s.granuleReady then s.wantFlash next
      else if !s.mayAsk q x then s
      else if x.walk.isNone && !x.asked && x.src.any Loc.isRemote then
        let ks := s.askingLanes q
        (s.setQuery { q with lanes := q.lanes.zipIdx.map fun p => if ks.contains p.2 then { p.1 with asked := true } else p.1 }).askPeers
          ((q.lanes.zipIdx.filter fun p => ks.contains p.2).flatMap (·.1.src)) (.queryRead id ks) q.grp q.sp q.pc 0
      else if s.remote.any fun t => match t.who with
          | .queryRead n ks => n == id && ks.contains k
          | _ => false then s
      else
        let (y, s) := s.ask1 q x
        s.setQuery { q with lanes := q.lanes.set k y }

/-- The none value a lane's answer is compared with (R120, R126). -/
def Query.isNone (q : Query) (r : Nat × Nat) : Bool :=
  if q.op = 0x28A then r.1 == 0xFFFFFFFF else r.1 == (if q.wide then 2 ^ 64 - 1 else 2 ^ 32 - 1)

def Group.putAnswers (g : Group) (q : Query) : Group :=
  let g := q.lanes.foldl (fun g x =>
    let r := x.res.getD (0, 0)
    if q.op = 0x28A then (g.wrV q.dst x.lane (.ofNat 32 r.1)).wrV (q.dst + 1) x.lane (.ofNat 32 r.2)
    else g.wrLane q.wide q.dst x.lane r.1) g
  if q.op = 0x28B then g
  else { g with
    qnone := q.lanes.any fun x => x.res.any q.isNone
    cut := if q.op = 0x28A then q.cut else g.cut }

/-- The answers return, and set GSTAT.QNONE and CUT; an uncorrectable error raises 0x30 (R120, R126). -/
def execQueryResultReturn (id : Nat) (err : Bool) (s : State) : Out :=
  .next <| match s.queries.find? (·.id == id) with
  | none => s
  | some q =>
    if q.lanes.any (·.res.isNone) then s
    else
      if err then (s.unstageRuns ((q.lanes.flatMap (s.laneSpans q)).map (·.2))).failQuery q (flt30 (s.grpAt q.grp))
      else (s.setGrpAt q.grp ((s.grpAt q.grp).putAnswers q)).dropQuery id

def State.setDir (s : State) (id : Nat) (k : Dir → Dir) : State := { s with dirs := s.dirs.map fun d => if d.id = id then k d else d }

/-- The build ends: the parts hold, on the string as it stands, what SEAL counted (R108, R111). -/
def execDirectoryBuildEnd (dir : Nat) (s : State) : Out :=
  .next (s.setDir dir fun d => if d.built then d else { d with built := true, parts := s.partsOf d })
/-- R118: activations of a DRAM bank are throttled, and no longer. -/
def execActivationAlert (bank : Nat) (s : State) : Out := .next (if s.throttled.contains bank then s else { s with throttled := bank :: s.throttled })
def execActivationThrottleEnd (bank : Nat) (s : State) : Out := .next { s with throttled := s.throttled.filter (· != bank) }

/-! ## Translation (R97 to R99) -/

/-- A walk ends: a leaf is cached, 2,048 of them to a column, an absent or malformed entry is reported (R98). -/
def execPageWalkComplete (col ten va : Nat) (s : State) : Out :=
  .next <| match s.walk ten va with
  | .leaf e =>
    let k := (col, ten, pageBase e va)
    if s.tlb.contains k then s
    else { s with tlb := k :: ((s.tlb.filter (·.1 == col)).take 2047 ++ s.tlb.filter (·.1 != col)) }
  | .absent => s.report ten (va / 4096) false
  | .malformed => s.report ten (va / 4096) true

/-! ## What a peer asks of this module (R94, R98, R226, R237, R276, R338) -/

/-- The places of a peer's bytes, under the tenant the pairing names. -/
def State.peerLocs (s : State) (ten addr : Nat) (offs : List Nat) (u : Use) : Chk (List Loc) :=
  checkAll (fun k => if 2 ^ 48 ≤ addr + k then .flt (accFlt 0x12 u addr) else s.translate ten (addr + k) (addr + k) u false) offs

def State.readAll (s : State) (ls : List Loc) : Nat := ls.foldr (fun l v => (s.rdB l).toNat + 256 * v) 0

/-- A write cut at 64-byte lines, as string writes are (R114): the parts wait to land, the last of a peer's with its answer. -/
def State.queueWrite (s : State) (port tell : Option Nat) (xs : List (Loc × Byte)) : State :=
  let ks := distinct (xs.map fun x => (x.1.sp.key, x.1.a / 64))
  { s with lines := s.lines ++ ks.zipIdx.map fun k =>
      let ys := xs.filter fun x => (x.1.sp.key, x.1.a / 64) == k.1
      { port, tell := if k.2 + 1 = ks.length then tell else none, locs := ys.map (·.1), bytes := ys.map (·.2) } }

def LineWrite.meets (w : LineWrite) (ls : List Loc) : Bool := w.locs.any fun l => ls.any fun m => l.sp.key == m.sp.key && l.a / 64 == m.a / 64

/-- The k-th waiting line lands, if none before it is of its port or its line (R339, R343). -/
def State.lineLands (s : State) (k : Nat) : State :=
  match s.lines[k]? with
  | none => s
  | some w =>
    if (s.lines.take k).any fun v => (v.port.isSome && v.port == w.port) || v.meets w.locs then s
    else ({ s with lines := s.lines.eraseIdx k } : State).landLine w

def State.answerPeer (s : State) (peer code v : Nat) : State := { s with told := .remoteAnswer peer code v :: s.told }

/-- An access of a peer, in this module's order. A fault goes back with its code; a page that is not present is
reported, and the access waits for the host's answer (R94, R98); a read of flash waits for the staging cache (R77). -/
def State.peerAccess (s : State) (peer ten addr : Nat) (op : RemoteOp) : State :=
  let go (c : Chk (List Loc)) (k : List Loc → State → State) : State := match c with
    | .ok ls => k ls s
    | .flt f => s.answerPeer peer f.code 0
    | .wait t p m _ => { s.report t p m with peerWaits := s.peerWaits ++ [⟨peer, ten, addr, op, some p⟩] }
  match op with
  | .read offs => go (s.peerLocs ten addr offs .read) fun ls s =>
      if !ls.all s.granuleReady then { s.wantFlash ls with peerWaits := s.peerWaits ++ [⟨peer, ten, addr, op, none⟩] }
      else
        let s := s.flushLines fun w => w.meets ls
        s.answerPeer peer 0 (s.readAll ls)
  | .write [] => s.answerPeer peer 0 0
  | .write xs => go (s.peerLocs ten addr (xs.map (·.1)) .write) fun ls s => s.queueWrite none (some peer) (ls.zip (xs.map (·.2)))
  | .atomic o wide data cmp =>
    let n := if wide then 8 else 4
    if addr % n != 0 then s.answerPeer peer 0x13 0
    else go (s.peerLocs ten addr (List.range n) .atomic) fun ls s =>
      let s := s.flushLines fun w => w.meets ls
      let old := s.readAll ls
      let new := atomResult o n old (data.toNat % 2 ^ (8 * n)) (cmp.toNat % 2 ^ (8 * n))
      (((ls.zip (bytesOf n new)).foldl (fun s p => s.wrB p.1 p.2) s).keepDirs ls).answerPeer peer 0 old
  | _ => s

/-- A granule has come, or an uncorrectable error in its place: peers' reads that wait for it go on, or go back with 0x30 (R77). -/
def State.peersFilled (s : State) (granule : Nat) (err : Bool) : State :=
  let hit (w : PeerWait) : Bool := w.page.isNone && match w.op with
    | .read offs => match s.peerLocs w.ten w.addr offs .read with
      | .ok ls => ls.any fun l => l.sp == .flash && l.a / 2 ^ 21 == granule
      | _ => true
    | _ => true
  (s.peerWaits.filter hit).foldl (fun (s : State) w => if err then s.answerPeer w.peer 0x30 0 else s.peerAccess w.peer w.ten w.addr w.op)
    { s with peerWaits := s.peerWaits.filter fun w => !hit w }

/-! ## Reads through BAR 2 (R77, R342, R344) -/

/-- The places of `n` bytes at a generic address of a tenant; none where one of them faults. -/
def State.hostLocs (s : State) (ten a n : Nat) (u : Use) : Option (List Loc) :=
  match checkAll (fun k => s.translate ten (a + k) (a + k) u false) (List.range n) with
  | .ok ls => some ls
  | _ => none
/-- The generic address of an offset in a port's window (R344). -/
def Port.bar2 (p : Port) (off : Nat) : Nat := p.bar2base * 2 ^ 36 + off

/-- A read through BAR 2: its value, or a Completer Abort; one of flash that the staging cache does not hold waits for its fill. -/
def State.bar2Read (s : State) (port off n : Nat) : State :=
  let p := s.port port
  match if s.boot.brstate != 5 then none else s.hostLocs p.bar2ten (p.bar2 off) n .read with
  | none => { s with told := .read port off none :: s.told }
  | some ls =>
    if ls.all s.granuleReady then { s with told := .read port off (some (s.readAll ls)) :: s.told }
    else { s.wantFlash ls with flashReads := s.flashReads ++ [(port, off, n)] }
/-- Those that wait for a granule go on, or end in a Completer Abort (R77). -/
def State.hostFilled (s : State) (granule : Nat) (err : Bool) : State :=
  let hit (r : Nat × Nat × Nat) : Bool := match s.hostLocs (s.port r.1).bar2ten ((s.port r.1).bar2 r.2.1) r.2.2 .read with
    | some ls => ls.any fun l => l.sp == .flash && l.a / 2 ^ 21 == granule
    | none => true
  (s.flashReads.filter hit).foldl (fun (s : State) r => if err then { s with told := .read r.1 r.2.1 none :: s.told } else s.bar2Read r.1 r.2.1 r.2.2)
    { s with flashReads := s.flashReads.filter fun r => !hit r }

/-! ## What a job must wait for (R132, R148, R154, R198) -/

def Foot.clash (x y : Foot) : Bool := x.space == y.space && (x.wr || y.wr) && x.lo < y.hi && y.lo < x.hi
def clash (xs ys : List Foot) : Bool := xs.any fun x => ys.any x.clash

def Job.isHeld (j : Job) : Bool := match j.st with
  | .held .. => true
  | _ => false

/-- An earlier job or install of the team has a footprint that orders this one (R154). -/
def State.footprintBlocked (s : State) (team id : Nat) (foot : List Foot) : Bool :=
  s.jobs.any (fun j => j.team == team && j.id < id && !j.isHeld && clash j.foot foot) ||
    s.installs.any fun i => i.team == team && i.id < id && clash i.foot foot

/-- The matrix order lets the job go (R198): an OLOAD after the queued operations on its slots, an ASTORE
after those on its tiles. -/
def State.matrixReady (s : State) (j : Job) : Bool :=
  match j.kind with
  | .oload c a n => (s.slotWork c ((List.range n).map (a + ·))).all fun i => j.id ≤ i
  | .astore c t n => (s.tileWork c ((List.range n).map (t + ·))).all fun i => j.id ≤ i
  | _ => true

/-- The 64-byte line of a place: space and number. -/
def Loc.line64 (l : Loc) : Nat × Nat := (l.sp.key, l.a / 64)

/-- An ASTORE reads its tiles as its job, and observes releases there (R229, R235). -/
def State.tilesOwe (s : State) (j : Job) : Bool := match j.kind with
  | .astore c t n => (List.range n).any fun k => s.owes (.job j.grp) 4 (winLoc c 3 (1024 * (t + k))) 1024
  | _ => false

/-- Every access the group issued before the command is complete (R132, R238), what a release the job would observe covers
(R229) is there, and the matrix operations that a barrier orders before its window places are applied (R198, R234). -/
def State.jobReady (s : State) (j : Job) : Bool :=
  j.st == JobSt.queued && j.guard.isNone && !s.behindGuard j.grp j.id && !s.footprintBlocked j.team j.id j.foot &&
    !s.busyBefore j.grp j.id && s.synced j.grp j.id && s.matrixReady j && !s.tilesOwe j &&
    ((j.els.flatMap El.locs).all fun l => s.syncClear j.grp j.id l) && !s.debts.any fun d => (j.els.flatMap El.srcLocs).any (fun l => l.overlaps 1 d.loc d.n) && s.owes (.job j.grp) 4 d.loc d.n

/-- A job that is done leaves; a team's last matrix work lets its claims go (R197). -/
def State.finishJob (s : State) (j : Job) : State := (s.dropJob j.id).settle j.team
/-- A fault of an instruction that has retired: of a group that still runs, or the record of one that has ended. -/
def State.lateFault (s : State) (gi k : Nat) (pc : Word) (f : Flt) : State :=
  if (s.grpAt gi).ended then { s with posts := s.posts ++ [s.recordOf gi k pc false f] } else s.takeFault gi k pc false f
/-- One that a check or an answer fails before it starts moves nothing, and its group takes the fault in split 0 where that stands; of
a group that has ended the record is posted (R97 and R99 name no place; log entry 66). -/
def State.failJob (s : State) (j : Job) (f : Flt) : State := (s.finishJob j).lateFault j.grp 0 (s.grpAt j.grp).s0.pc f

/-! ## The host's answers (R99) -/

/-- Every split of every group, as group index and slot. -/
def State.allSplits (s : State) : List (Nat × Nat) := (List.range s.groups.length).flatMap fun i => [(i, 0), (i, 1)]

/-- The splits that wait for an answer on a page. -/
def Split.awaits (x : Split) (ten page : Nat) : Bool := match x.wait with
  | .answer t p _ _ => x.live && t == ten && p == page
  | .fetching t p _ => x.live && t == ten && p == page
  | _ => false
/-- What a split that waited for an answer does next: its instruction executes anew, CWAITGE asks its counter again, a fetch is made
again (R99). -/
def Split.retried (x : Split) : Split := match x.wait, x.resume with
  | .fetching .., _ => { x with wait := .none }
  | _, .cwait a n sc nx => { x with wait := .cwait a n sc nx, resume := .none }
  | _, _ => { x with wait := .retry }

/-- Peers' accesses that wait for a page try again. -/
def State.retryPeers (s : State) (ten page : Nat) : State :=
  let due := s.peerWaits.filter fun w => w.ten == ten && w.page == some page
  due.foldl (fun s w => s.peerAccess w.peer w.ten w.addr w.op) { s with peerWaits := s.peerWaits.filter fun w => !(w.ten == ten && w.page == some page) }

/-- Valid: every waiter retries (R99). -/
def State.answerValid (s : State) (ten page : Nat) : State :=
  let s : State := { s with reports := s.reports.filter (· != (ten, page)) }
  let s : State := s.allSplits.foldl (fun (s : State) p =>
    let x := s.spAt p
    let y := { x.retried with since := s.tick + 1 }
    if x.awaits ten page then s.setSpAt p (if (s.teamOf (s.grpAt p.1).team).requests.isEmpty then y else y.endWait) else s) s
  let due : List (Nat × Nat × Nat) := s.dones.filter fun d => d.1 == ten && d.2.2 == page
  let s : State := { s with
    joinWaits := s.joinWaits.map fun j => if j.ten = ten ∧ j.page = some page then { j with page := none } else j
    dones := s.dones.filter fun d => !due.contains d }
  (due.foldl (fun (s : State) d => s.serveDone (s.launchOf d.1 d.2.1)) s).retryPeers ten page

def State.install? (s : State) (id : Nat) : Option Install := s.installs.find? (·.id == id)
def State.setInstall (s : State) (i : Install) : State := { s with installs := s.installs.map fun x => if x.id = i.id then i else x }

/-- An abandoned install returns the units it programmed (R80). -/
def State.abandonInstall (s : State) (i : Install) (code stack : Nat) : State :=
  { s.setInstall { i with code := some code, news := [], data := [] } with
    spares := Map.set [] s.spares stack (Map.get [] s.spares stack ++ i.news) }

/-- The source of one unit, the places of its 64-byte lines; or the end code, or a page to wait for (R80). R79 asks for the generic
path; a source on path 0x1 or 0x2 leads to the same memory and is read there (log entry 13). -/
def State.unitSource (s : State) (ten src : Nat) : Chk (List Loc) :=
  if src % 64 != 0 || 3 * 2 ^ 60 ≤ src || src % 2 ^ 60 / 2 ^ 48 != 0 then .flt { code := 7 }
  else checkAll (fun k => if src % 2 ^ 60 + 64 * k < 2 ^ 48 then s.translate ten (src % 2 ^ 60 + 64 * k) (src + 64 * k) .engRead false
      else .flt { code := 7 }) (List.range (unitBytes / 64))
def State.unitData (s : State) (ls : List Loc) : List Byte := ls.flatMap fun l => (List.range 64).map fun k => s.rdB (l.plus k)
/-- The places the next unit of an install reads, where they have passed. -/
def Install.reads (i : Install) : Chk (List Loc) → List Loc
  | .ok ls => if i.started && i.code.isNone then ls else []
  | _ => []
def State.unitPlaces (s : State) (i : Install) : List Loc := i.reads (s.unitSource i.ten (i.src + i.news.length * unitBytes))

/-- An install waits for a page of its source. -/
def State.installWaits (s : State) (i : Install) (ten page : Nat) : Bool :=
  i.ten == ten && i.started && i.code.isNone && match s.unitSource i.ten (i.src + i.news.length * unitBytes) with
    | .wait _ p _ _ => p == page
    | _ => false

/-- Deliver: every waiter takes 0x10; a guarded command on an open slot is marked failed when it
re-executes, a join and a DONE add post the fault, an install ends with code 7, a query and a command that wait on the page end in
it, a peer's access goes back with it (R80, R94, R99, R131, R268; log entry 66). -/
def State.answerDeliver (s : State) (ten page : Nat) : State :=
  let s := { s with reports := s.reports.filter (· != (ten, page)) }
  let s : State := s.allSplits.foldl (fun (s : State) p =>
    let x := s.spAt p
    match x.wait with
    | .answer t pg f defer =>
      if x.live && t == ten && pg == page then
        let s := s.setSpAt p { x with wait := if defer then .retry else .none, resume := .none, since := s.tick + 1, denied := if defer then some f else none }
        if defer then s else s.takeFault p.1 p.2 x.pc false f
      else s
    | .fetching t pg f =>
      if x.live && t == ten && pg == page then (s.setSpAt p { x with wait := .none, since := s.tick + 1 }).takeFault p.1 p.2 x.pc false f else s
    | _ => s) s
  let js := s.joinWaits.filter fun j => j.ten == ten && j.page == some page
  let s : State := js.foldl (fun (s : State) j => (s.postDev j.ten j.launch j.team j.addr 0x10).finishRecord j.ten j.launch j.team j.counts)
    { s with joinWaits := s.joinWaits.filter fun j => !js.contains j }
  let due := s.dones.filter fun d => d.1 == ten && d.2.2 == page
  let s : State := due.foldl (fun (s : State) d => s.postDev d.1 d.2.1 0xFFFFFFFF ((doneAddr (s.launchOf d.1 d.2.1).done).getD 0) 0x10)
    { s with dones := s.dones.filter fun d => !due.contains d }
  let s : State := (s.installs.filter fun i => s.installWaits i ten page).foldl (fun (s : State) i =>
    s.abandonInstall i 7 ((s.region? i.region).elim 0 (·.stack))) s
  let s : State := (s.queries.filterMap fun q => (q.lanes.findSome? fun x => if x.res.isSome then none else match s.queryNext q x with
      | .wait t p _ f => if t == ten && p == page then some f else none
      | _ => none).map fun f => (q, f)).foldl (fun (s : State) p => if s.queries.any (·.id == p.1.id) then s.failQuery p.1 p.2 else s) s
  let s : State := (s.jobs.filterMap fun j => if !j.stale || !s.jobReady j then none else match s.replan j with
      | .wait t p _ f => if t == ten && p == page then some (j, f) else none
      | _ => none).foldl (fun (s : State) p => s.failJob p.1 p.2) s
  let ws := s.peerWaits.filter fun w => w.ten == ten && w.page == some page
  ws.foldl (fun (s : State) w => s.answerPeer w.peer 0x10 0) { s with peerWaits := s.peerWaits.filter fun w => !ws.contains w }

def execNotPresentAnswerValid (c : PortTenant) (va : Nat) (s : State) : Out :=
  .next (s.command c.port fun s => if s.reports.contains (c.ten, va / 4096) then s.answerValid c.ten (va / 4096) else s)
def execNotPresentAnswerDeliver (c : PortTenant) (va : Nat) (s : State) : Out :=
  .next (s.command c.port fun s => if s.reports.contains (c.ten, va / 4096) then s.answerDeliver c.ten (va / 4096) else s)

/-! ## Places in flight (R75, R97) -/

/-- A place in a range of physical memory: space, first byte, end. -/
def Loc.within (l : Loc) (r : Nat × Nat × Nat) : Bool := l.sp.key == r.1 && r.2.1 ≤ l.a && l.a < r.2.2

def Cw.mapLoc (k : Loc → Loc) : Cw → Cw
  | .counter c l => .counter c (k l)
  | w => w
def El.mapLoc (k : Loc → Loc) (e : El) : El :=
  { e with dst := e.dst.map k, src := match e.src with
      | .at ls b w => .at (ls.map k) b w
      | x => x }
def Job.mapLoc (k : Loc → Loc) (j : Job) : Job :=
  { j with els := j.els.map (El.mapLoc k), cw := j.cw.mapLoc k, st := match j.st with
      | .landing ps => .landing (ps.map fun p => { p with wr := p.wr.map fun b => { b with locs := b.locs.map k } })
      | x => x }

def Install.mapLoc (k : Loc → Loc) (i : Install) : Install := { i with record := k i.record }

/-- Every access, command, install and release under way has its places mapped, in images too (R75). -/
def State.mapLocs (s : State) (k : Loc → Loc) : State :=
  ({ s with
    pend := s.pend.map fun p => { p with lanes := p.lanes.map fun x => { x with loc := k x.loc } }
    queries := s.queries.map fun q => { q with lanes := q.lanes.map fun x => { x with src := x.src.map k } }
    jobs := s.jobs.map (Job.mapLoc k)
    installs := s.installs.map (Install.mapLoc k)
    debts := s.debts.map fun d => { d with loc := k d.loc }
    lines := s.lines.map fun w => { w with locs := w.locs.map k } } : State).mapImages fun i =>
      { i with jobs := i.jobs.map (Job.mapLoc k), installs := i.installs.map (Install.mapLoc k) }

/-! ## Page edits (R96, R97, R110) -/

/-- The table that holds the entry of `va` at a level, following pointers from the root. -/
def State.tableAt (s : State) (va : Nat) : Nat → Nat → Nat → Option Nat
  | 0, _, _ => none
  | fuel + 1, level, tbl =>
    if level ≤ 1 then some tbl
    else
      let k := 5 - (fuel + 1)
      let e := s.rdPte tbl (va / 2 ^ (48 - 9 * k) % 512)
      if pteV e && pteSize e == 7 then s.tableAt va fuel (level - 1) (4096 * pteFrame e) else none

/-- The entry takes a value; a leaf of a size with replicas (R96) is written into all 16 at once. R97 does not say whether
one command does that: any other entry, one that clears V too, is written alone (log entry 63). -/
def State.putPte (s : State) (tbl idx e : Nat) : State :=
  let put (s : State) (k : Nat) : State := s.wrN ⟨.mem false false, tbl + 8 * k⟩ 8 e
  if pteV e && pteSize e < 6 && pteSize e % 2 == 1 then (List.range 16).foldl (fun s k => put s (idx / 16 * 16 + k)) s
  else put s idx

/-- The leaves under entry `idx` of a table at a level: first address and entry, one for the 16 replicas of a leaf. -/
def State.leavesAt (s : State) : Nat → Nat → Nat → Nat → List (Nat × Nat)
  | 0, _, _, _ => []
  | fuel + 1, tbl, idx, va =>
    let level := 4 - fuel
    let e := s.rdPte tbl idx
    if !pteV e then []
    else if pteSize e = 7 then
      (if entryOk e then (List.range 512).flatMap fun k => s.leavesAt fuel (4096 * pteFrame e) k (va + k * 2 ^ (39 - 9 * level)) else [])
    else if pteSize e = 6 || pageLevel (pteSize e) != level || !leafOk e || !s.replicasOk tbl idx e || (pteSize e % 2 == 1 && idx % 16 != 0) then []
    else [(va, e)]

/-- The leaves under the 16 entries around entry `idx`. -/
def State.leavesNear (s : State) (level tbl idx va : Nat) : List (Nat × Nat) :=
  let span := 2 ^ (48 - 9 * level)
  let va0 := va / (16 * span) * (16 * span)
  (List.range 16).flatMap fun k => s.leavesAt (5 - level) tbl (idx / 16 * 16 + k) (va0 + k * span)

def leafRange (x : Nat × Nat) : Nat × Nat × Nat :=
  ((if pteF x.2 then 1 else 0), 4096 * pteFrame x.2, 4096 * pteFrame x.2 + 4096 * pageUnits (pteSize x.2))

/-- What R110 calls an alteration of a page, as its walk shows it: V, IX, FRAME, TEN, PLC and TGT, none where malformed. -/
def State.pageKey (s : State) (ten va : Nat) : Option (Bool × Nat × Nat × Nat × Nat) :=
  match s.walk ten va with
  | .leaf e => some (pteIX e, (leafLoc e va).a, pteTen e, ptePlc e, pteTgt e)
  | _ => none

/-- Handles over an indexed page that an edit alters are revoked (R110); `s` is the state before it, `t` after. -/
def State.revokeOver (s t : State) (ten : Nat) : State :=
  let hit := (t.dirs.filter fun d => d.ten == ten && (pagesOf d.base ((d.len + 7) / 8)).any fun p =>
    s.pageKey ten (4096 * p) != t.pageKey ten (4096 * p)).map (·.id)
  if hit.isEmpty then t
  else
    let keep (u : Team) : Team := { u with handles := u.handles.filter fun h => match h.kind with
      | .bits d => !hit.contains d
      | _ => true }
    (({ t with teams := t.teams.map keep } : State).mapImages fun i => { i with team := keep i.team }).gcDirs

/-- A page-edit command writes an entry (R97, R110). One whose table no valid pointers reach finds no entry: R97 does not
say what it does then, and it changes nothing and has nothing to complete (log entry 64). An edit that changes a leaf ends a queued
or copying move of its page: R97 says only that edits are serialised against migration (log entry 72). -/
def execPageEdit (c : PortTenant) (va level : Nat) (entry : Word) (s : State) : Out :=
  .next <| s.command c.port fun s => match (s.tenantOf? c.ten).bind fun t => s.tableAt va 4 level t.root with
  | none => s
  | some tbl =>
    let idx := va / 2 ^ (48 - 9 * level) % 512
    let before := s.leavesNear level tbl idx va
    let t := s.putPte tbl idx entry.toNat
    let after := t.leavesNear level tbl idx va
    let gone := before.filter fun x => !after.contains x
    let new := after.filter fun x => !before.contains x
    let t := gone.foldl (fun t x => (t.countLeaf c.ten x.2 false).dropMigration c.ten x.1) t
    let t := new.foldl (fun t x => t.countLeaf c.ten x.2 true) t
    let t := (s.revokeOver t c.ten).staleAt fun l => (gone.map leafRange).any l.within
    { t with edits := t.edits ++ [⟨c.ten, va / 4096, gone.map leafRange⟩] }

/-- A range of bytes meets a range of physical memory. -/
def Loc.inRange (l : Loc) (n : Nat) (r : Nat × Nat × Nat) : Bool := l.sp.key == r.1 && l.a < r.2.2 && r.2.1 < l.a + n

/-- The command completes: the translation caches have dropped the old entry, and every access that used it has
completed, a query's reads of the frames its string was sealed on too (R97). -/
def execPageEditComplete (ten va : Nat) (s : State) : Out :=
  .next <| match s.edits.find? fun e => e.ten == ten && e.page == va / 4096 with
  | none => s
  | some e =>
    let old (l : Loc) : Bool := e.old.any l.within
    if s.pend.any (fun p => p.lanes.any fun x => x.res.isNone && old x.loc) || s.queries.any (fun q => q.lanes.any fun x => x.res.isNone && (s.laneSpans q x).any fun r => e.old.any (r.2.1.inRange r.2.2)) ||
        s.jobs.any (fun j => !j.stale && j.locs.any old) || s.installs.any (fun i => old i.record) || s.lines.any fun w => w.locs.any old then s
    else { s with edits := s.edits.erase e, tlb := s.tlb.filter fun k => k.2.1 != ten }

/-! ## Fresh memory (R101) -/

/-- The background fill zeroes a line still pending. -/
def execBackgroundFillLine (sp : FillSpace) (line : Nat) (s : State) : Out :=
  .next <| if s.isPending sp line then
    let s := { s with fill := dropLine sp line s.fill }
    match sp with
    | .dram => { s with mem := zeroLine s.mem line }
    | .sram => { s with sram := zeroLine s.sram line }
  else s

/-- Lines reassigned to a new tenant become fill-pending. -/
def State.tagFill (s : State) (sp : FillSpace) (base len : Nat) : State :=
  let n := (base % 64 + len + 63) / 64
  if len = 0 then s else { s with fill := dropLines sp (base / 64) n s.fill ++ [(sp, base / 64, n)] }
def execMemoryReassign (sp : FillSpace) (base len : Nat) (s : State) : Out := .next (s.tagFill sp base len)

/-! ## Heat (R69 to R72) -/

/-- A vault's band from its temperature in tenths of a degree, with hysteresis. -/
def bandEnter : Nat → Nat
  | 1 => 850
  | 2 => 950
  | _ => 1050
def bandLeave : Nat → Nat
  | 1 => 830
  | 2 => 930
  | _ => 1000
def bandUp (t : Nat) : Nat → Nat → Nat
  | 0, b => b
  | k + 1, b => if b < 3 && bandEnter (b + 1) < t then bandUp t k (b + 1) else b
def bandDown (t : Nat) : Nat → Nat → Nat
  | 0, b => b
  | k + 1, b => if 0 < b && t < bandLeave b then bandDown t k (b - 1) else b
def nextBand (t b : Nat) : Nat := bandDown t 3 (bandUp t 3 b)

def execVaultBandChange (col temp : Nat) (s : State) : Out :=
  .next ((s.setCol col { s.col col with band := nextBand temp (s.col col).band }).charged s col)

/-- The measured class of an average power in milliwatts (R71). -/
def heatClass (mw : Nat) : Nat := if mw < 2000 then 0 else if mw < 4000 then 1 else if mw < 7000 then 2 else 3
def stepToward (c m : Nat) : Nat := if c < m then c + 1 else if m < c then c - 1 else c

/-- At an interval's end the effective class of each team resident throughout, stopped in place or not, moves one step; `powers`
are the averages the power controller attributed, by team. -/
def execHeatIntervalEnd (col : Nat) (powers : List (Nat × Nat)) (s : State) : Out :=
  .next (({ s with teams := s.teams.map fun t =>
    if t.ended || t.col != col then t
    else if !t.whole then { t with whole := true }
    else match powers.find? (·.1 == t.uid) with
      | some p => { t with heat := stepToward t.heat (heatClass p.2) }
      | none => t } : State).charged s col)

/-! ## Page moves (R74, R75) -/

/-- A target a move may name: interleaved, a vault's column or a memory stack. -/
def targetOk (t : Nat) : Bool := t == 0 || (512 ≤ t && t < 1024) || (1024 ≤ t && t < 1040)

/-- A queued or policy-driven move begins copying; a pinned page moves only for PGMOVE, and no page to a target without
room (R2, R3). -/
def execPageMigrationStart (ten va target : Nat) (s : State) : Out :=
  .next <| match s.walk ten va with
  | .leaf e =>
    let page := pageBase e va
    let room (t : Nat) : Bool := targetOk t && s.hasRoom (t / 512) (t % 512) (pageUnits (pteSize e))
    let asked := s.migrations.find? fun m => m.ten == ten && m.va == 4096 * page
    if !moveEligible e || pteTen e != ten then s
    else match asked with
      | some m => if room m.target then { s with migrations := s.migrations.map fun x => if x = m then { x with copying := true } else x } else s
      | none => if s.pinned.contains (ten, page) || !room target then s else { s with migrations := s.migrations ++ [⟨ten, 4096 * page, target, true⟩] }
  | _ => s

/-- Copies `n` bytes between physical places. -/
def State.copyBytes (s : State) (src dst : Nat) : Nat → State
  | 0 => s
  | n + 1 => (s.wrB ⟨.mem false false, dst + n⟩ (s.rdB ⟨.mem false false, src + n⟩)).copyBytes src dst n

/-- A place of the old frame in the new one. -/
def Loc.moved (src dst n : Nat) (l : Loc) : Loc := if l.within (0, src, src + n) then { l with a := dst + (l.a - src) } else l

/-- The switch: the page's bytes stand in the new frame, its entries name it, and accesses still under way go to it
(R75, R97). The frame is one the device's allocator found free (log entry 13). -/
def execPageMigrationSwitch (ten va frame : Nat) (s : State) : Out :=
  .next <| match s.walk ten va, s.migrations.find? fun m => m.ten == ten && m.va == va && m.copying with
  | .leaf e, some m =>
    let units := pageUnits (pteSize e)
    let plc := m.target / 512
    let e' := e - e / 2 ^ 12 % 2 ^ 32 * 2 ^ 12 - e / 2 ^ 44 % 2 ^ 11 * 2 ^ 44 - e / 2 ^ 6 % 2 * 2 ^ 6 + frame % 2 ^ 32 * 2 ^ 12 +
      m.target % 512 * 2 ^ 44 + plc * 2 ^ 53 + (if plc = 2 then 2 ^ 6 else 0)
    if frame % units != 0 || 2 ^ 32 ≤ frame || !moveEligible e || !targetOk m.target || !s.hasRoom plc (m.target % 512) units then s
    else match (s.tenantOf? ten).bind fun t => s.tableAt va 4 (pageLevel (pteSize e)) t.root with
      | none => s
      | some tbl =>
        let s := s.copyBytes (4096 * pteFrame e) (4096 * frame) (4096 * units)
        let s := (s.putPte tbl (va / 2 ^ (48 - 9 * pageLevel (pteSize e)) % 512) e').dropMigration ten va
        ((s.countLeaf ten e false).countLeaf ten e' true).mapLocs (Loc.moved (4096 * pteFrame e) (4096 * frame) (4096 * units))
  | _, _ => s

end Sys2Proof.Machine
end

