-- ==== Sys2Proof/Machine/EvEngine.lean ====
section
/-!
DEFINITION. Events of the engines, the sub-arrays, the flash logic dies and naps (R80, R81, R132, R144, R145,
R154, R198, R206, R207, R219 to R221, R251). An event whose condition does not hold changes nothing.
-/
namespace Sys2Proof.Machine

/-! ## Starting: every source is read, the pieces cut at 128-byte lines, string writes at 64 (R114, R133, R138, R144) -/

/-- The bits of an element's source, and its value at the destination. -/
def State.elValue (s : State) (k : JobKind) (src : ESrc) : Nat × State :=
  match src with
  | .lit v => (v, s)
  | .acc c a n code sat => (drainConv code sat (Memory.rdN (s.col c).accum a n), s)
  | .at ls bit w =>
    let (bs, s) := s.readLocs ls
    let v := leNat bs / 2 ^ bit % 2 ^ w
    (match k with
      | .tile c => c.apply v
      | _ => v, s)

def State.elValues (s : State) (k : JobKind) : List El → List BitWr × State
  | [] => ([], s)
  | e :: r =>
    let (v, s) := s.elValue k e.src
    let (ws, s) := s.elValues k r
    (⟨e.dst, e.bit, e.w, v, distinct (e.srcLocs.map Loc.line64), 0⟩ :: ws, s)

/-- An OLOAD into an FP6 slot writes bytes 48 to 63 of its rows as zero (R59; log entry 32). -/
def State.fp6Tails (s : State) (k : JobKind) (ws : List BitWr) : List BitWr :=
  match k with
  | .oload c _ _ =>
    let tail (l : Loc) : Bool := 48 ≤ l.a % 64 && (s.col c).fp6.contains (l.a / 1024 % 256)
    ws.map fun b => if b.locs.any tail then { b with v := 0 } else b
  | _ => ws

/-- A CPTILE that has filled slots leaves them with its elements' format (R59; log entry 32). -/
def State.fillFp6 (s : State) (k : JobKind) (ls : List Loc) : State :=
  match k with
  | .tile c =>
    let mine := ls.filter fun l => l.sp == .win && winArea l.a == 2
    (distinct (mine.map fun l => winCol l.a)).foldl (fun (s : State) n =>
      s.setCol n ((s.col n).markFp6 c.de (distinct ((mine.filter fun l => winCol l.a == n).map fun l => l.a / 1024 % 256)))) s
  | _ => s

/-- The line a piece of an engine's writes lies in: 64 bytes on an indexed page, 128 elsewhere. -/
def Loc.line (l : Loc) : Nat × Nat := if l.indexed then (2 * l.sp.key + 1, l.a / 64) else (2 * l.sp.key, l.a / 128)
def BitWr.line (b : BitWr) : Nat × Nat := (b.locs.head?.map Loc.line).getD (0, 0)

/-- The bytes a piece counts: a copy counts every byte it carries, CPTILE each destination byte once. -/
def pieceCount (k : JobKind) (ws : List BitWr) (line : Nat × Nat) : Nat :=
  match k with
  | .tile _ => (distinct (((ws.flatMap (·.locs)).filter fun l => l.line = line).map fun l => (l.sp.key, l.a))).length
  | _ => (ws.filter fun b => b.line == line).foldl (fun n b => n + b.w / 8) 0

/-- Rows of slots that a CPTILE fills with FP6 elements get zeros in bytes 48 to 63, uncounted (R59; log entry 32). -/
def rowTails (k : JobKind) (ws : List BitWr) : List BitWr :=
  match k with
  | .tile c =>
    if c.de = 7 || c.de = 8 then
      let mine := (ws.flatMap fun b => b.locs).filter fun l => l.sp == .win && winArea l.a == 2
      ((distinct (mine.map fun l => l.a / 64)).filter fun r => mine.all fun l => l.a / 64 != r || l.a % 64 < 48).flatMap fun r =>
        (List.range 16).map fun i => ⟨[⟨.win, 64 * r + 48 + i⟩], 0, 8, 0, [], 0⟩
    else []
  | _ => []

/-- A write cut byte by byte. -/
def BitWr.cut (b : BitWr) : List BitWr :=
  b.locs.zipIdx.filterMap fun p =>
    let lo := max b.bit (8 * p.2)
    let hi := min (b.bit + b.w) (8 * (p.2 + 1))
    if lo < hi then some { b with locs := [p.1], bit := lo - 8 * p.2, w := hi - lo, v := b.v / 2 ^ (lo - b.bit) % 2 ^ (hi - lo) } else none
/-- The writes of a command, one that lies in two lines cut at them (R114, R138). -/
def byLine (ws : List BitWr) : List BitWr := ws.flatMap fun b => if b.locs.all fun l => l.line == b.line then [b] else b.cut
/-- A piece is a line's part; on an indexed page a CPL request's or a row's line part is its own string write (R114). -/
def BitWr.part (b : BitWr) : (Nat × Nat) × Nat := (b.line, if b.line.1 % 2 = 1 then b.row else 0)

def piecesOf (k : JobKind) (ws : List BitWr) : List Piece :=
  let all := byLine (ws ++ rowTails k ws)
  (distinct ((byLine ws).map BitWr.part)).map fun x =>
    ⟨all.filter fun b => b.part == x, pieceCount k ((byLine ws).filter fun b => b.part == x) x.1, false⟩

/-- The writes of a copy know their lane or row. -/
def Recipe.rows (r : Recipe) (ws : List BitWr) : List BitWr :=
  match r with
  | .copy ms _ => List.zipWith (fun (b : BitWr) k => { b with row := k }) ws (ms.zipIdx.flatMap fun m => List.replicate m.1.n m.2)
  | _ => ws

/-- Bytes at a peer of which an element fills a part: they are read first, so that the bits beside it keep their contents (R138). -/
def El.shared (e : El) : List Loc :=
  if e.bit = 0 && e.w % 8 = 0 then [] else e.dst.filter Loc.isRemote

/-- A command starts once it may: its places found anew where they are stale, its flash granules staged (R77), its peers'
bytes fetched (R338). A stale one that waits for a page is reported; one whose check now fails moves nothing, and its group
takes the fault (log entry 66). -/
def execEngineJobStart (id : Nat) (s : State) : Out :=
  .next <| match s.jobs.find? (·.id == id) with
  | none => s
  | some j =>
    if !s.jobReady j then s
    else match if j.stale then s.replan j else .ok j with
    | .wait t p m _ => s.report t p m
    | .flt f => s.failJob j f
    | .ok j =>
      let s := s.setJob j
      let src := j.els.flatMap El.srcLocs
      let far := src ++ j.els.flatMap El.shared
      let miss := src.filter fun l => !s.granuleReady l && !j.bad.contains l.line64
      if !miss.isEmpty then s.wantFlash miss
      else if !j.asked && far.any Loc.isRemote then
        (s.setJob { j with asked := true }).askPeers far (.jobRead id) j.grp 0 0 j.batch
      else if s.remote.any fun t => t.who == .jobRead id then s
      else
        let (ws, s) := s.elValues j.kind j.els
        match piecesOf j.kind (s.fp6Tails j.kind (j.recipe.rows ws)) with
        | [] => s.finishJob j
        | ps => s.setJob { j with st := .landing ps, els := [] }

/-- Source lines of a job came with an uncorrectable error: what they feed will keep its contents (R132). -/
def State.spoilJob (s : State) (j : Job) (hit : Loc → Bool) : State :=
  let bad := distinct (((j.els.flatMap El.srcLocs).filter hit).map Loc.line64)
  if bad.isEmpty then s else (s.setJob { j with bad := j.bad ++ bad }).owe30 j.grp j.batch

/-- A split waits for a granule: to fetch its next word, or inside an instruction that reads it. -/
def State.granuleWait (s : State) (p : Nat × Nat) (granule : Nat) : Bool :=
  s.fetchWaits p granule || (s.spAt p).live && match (s.spAt p).wait with
    | .fill gs => gs.contains granule
    | .cwait a _ _ _ => match s.access (s.teamOf (s.grpAt p.1).team) a 8 8 .read with
      | .ok l => l.inGranule granule
      | _ => false
    | _ => false

/-- The reads of groups that wait for a granule raise 0x30, each where its instruction stands; a group that the first one
restarts (R302) has dropped the others, and waits for no more. -/
def State.failFill (s : State) (granule : Nat) : State :=
  let hit (p : Pend) : Bool := p.lanes.any fun x => x.res.isNone && x.loc.inGranule granule
  let old := s
  let s : State := (s.pend.filter hit).foldl (fun (s : State) p =>
    if (s.pend? p.id).isSome then (s.dropPend p.id).takeFault p.grp p.sp p.pc false (flt30 (s.grpAt p.grp)) else s) s
  let s : State := (old.queries.filter fun q => old.queryIn q granule).foldl (fun (s : State) q =>
    if s.queries.any (·.id == q.id) then s.failQuery q (flt30 (s.grpAt q.grp)) else s) s
  (old.allSplits.filter fun p => old.granuleWait p granule).foldl (fun (s : State) p =>
    if (s.grpAt p.1).idemRetry != (old.grpAt p.1).idemRetry || !s.granuleWait p granule then s
    else (s.setSpAt p { s.spAt p with wait := .none }).takeFault p.1 p.2 (s.spAt p).pc false (flt30 (s.grpAt p.1))) s

/-- The place of a launch's descriptor and its constant bank wait for a granule: the submission is refused (R77, R266, R356). -/
def State.failSubmissions (s : State) (granule : Nat) : State :=
  [0, 1].foldl (fun (s : State) p =>
    if (s.port p).subBusy && (s.submissionMiss p).any (Loc.inGranule granule) then
      s.setPort p { s.port p with subBusy := false, subres := .ofNat 64 (2 ^ 32) } else s) s

/-- A granule arrives, or an uncorrectable error does: then each load, query, fetch and other read that waits for it raises
0x30, a command's bytes from it are bad, an install that reads it is abandoned, and a submission that does is refused (R77, R80, R132). -/
def execStagingFillComplete (granule : Nat) (err : Bool) (s : State) : Out :=
  .next <| if !s.filling.contains granule then s
  else
    let s := { s with filling := s.filling.filter (· != granule) }
    if !err then (({ s with staged := s.staged ++ [granule] } : State).peersFilled granule false).hostFilled granule false
    else
      let s : State := (s.jobs.filter fun j => !j.stale && s.jobReady j).foldl (fun (s : State) j => s.spoilJob j (Loc.inGranule granule)) s
      let s : State := (s.installs.filter fun i => (s.unitPlaces i).any (Loc.inGranule granule)).foldl (fun (s : State) i =>
        s.abandonInstall i 7 ((s.region? i.region).elim 0 (·.stack))) (s.failSubmissions granule)
      ((s.failFill granule).peersFilled granule true).hostFilled granule true

/-! ## Landing -/

/-- An element's own bits over its bytes as they stand (R138). -/
def BitWr.over (b : BitWr) (old : Nat) : Nat := old - old / 2 ^ b.bit % 2 ^ b.w * 2 ^ b.bit + b.v % 2 ^ b.w * 2 ^ b.bit

def State.landBytes (s : State) (ten : Nat) (job : Word) : List Loc → Nat → State
  | [], _ => s
  | l :: r, v => ((s.jobWrite ten job l 1 (v % 256)).coverDebts l 1 none).landBytes ten job r (v / 256)

def State.landEl (s : State) (ten : Nat) (job : Word) (b : BitWr) : State :=
  s.landBytes ten job b.locs (b.over (leNat (b.locs.map s.rdB)))

/-- The elements over bytes given by offset, for a transaction to a peer. -/
def BitWr.into (m : List (Nat × Byte)) (b : BitWr) : List (Nat × Byte) :=
  let offs := b.locs.map (·.a % 128)
  let new := b.over (leNat (offs.map fun o => ((m.find? (·.1 == o)).map (·.2)).getD 0))
  m.map fun p => match offs.findIdx? (· == p.1) with
    | some k => (p.1, .ofNat 8 (new / 256 ^ k))
    | none => p

/-- The bytes and mask of a piece that goes to a peer: bits of a shared byte that it does not write are those read from the peer
before, free as all its memory is (log entry 6). -/
def State.peerBytes (s : State) (ws : List BitWr) : List (Nat × Byte) × State :=
  let offs := distinct (ws.flatMap fun b => b.locs.map (·.a % 128))
  (ws.foldl BitWr.into (offs.zipIdx.map fun p => (p.1, (Config.freeValue (s.freeCtr + p.2)).setWidth 8)), { s with freeCtr := s.freeCtr + offs.length })

/-- The completion word's effect for a landed piece, not counted before (R144, R145). -/
def State.countPiece (s : State) (ten : Nat) (job : Word) (j : Job) (n : Nat) : State :=
  if n = 0 then s
  else match j.cw with
  | .none => s
  | .counter _ l => s.homeWrite ten job l 8 ((s.rdN l 8 + n) % 2 ^ 64)
  | .barrier b => s.subBar j.team b n

/-- A piece of a job is visible: it is counted, and the last one completes the job. -/
def State.pieceDone (s : State) (id n : Nat) : State :=
  match s.jobs.find? (·.id == id) with
  | none => s
  | some j =>
    let o := s.jobOfGroup j.grp
    let s := s.countPiece o.1 o.2 j n
    if j.st == .landing [] && !s.remote.any fun t => match t.who with
        | .piece k _ => k == id
        | _ => false then s.finishJob j else s

/-- A piece's add may come before its bytes land where its scope is below the system's: who reads the counter within that scope
waits for the bytes, another may see the count first (R144, R229). -/
def State.countAhead (s : State) (id k : Nat) : State :=
  match s.jobs.find? (·.id == id) with
  | none => s
  | some j => match j.cw, j.st with
    | .counter scope l, .landing ps => match ps[k]? with
      | none => s
      | some p =>
        if 5 ≤ scope || p.counted then s
        else
          let o := s.jobOfGroup j.grp
          let s := (s.setJob { j with st := .landing (ps.set k { p with counted := true }) }).countPiece o.1 o.2 j p.count
          { s with debts := { loc := l, n := 8, grp := j.grp, scope, upTo := 0, job := some id } :: s.debts }
    | _, _ => s

/-- What bad source lines would have fed: the elements, and for OLOAD the whole slot rows (R132, R201). -/
def Job.lost (j : Job) (p : Piece) (bad : List Nat) (b : BitWr) : Bool :=
  let lines := j.bad ++ bad.filterMap fun k => (distinct (p.wr.flatMap (·.src)))[k]?
  let hit (c : BitWr) : Bool := c.src.any lines.contains
  hit b || match j.kind with
    | .oload .. => p.wr.any fun c => hit c && c.locs.map Loc.line64 == b.locs.map Loc.line64
    | _ => false

/-- An earlier piece of a job writes a byte of a later one: it lands first, so that the highest lane's data remain (R133, R134). -/
def Piece.behind (p : Piece) (ps : List Piece) : Bool :=
  ps.any fun q => q.wr.any fun b => p.wr.any fun c => b.locs.any fun l => c.locs.any l.same

/-- A piece lands, is counted, and the last one completes the job; a peer's piece goes as one transaction and counts when it
is delivered (R338). `bad` names those of its source lines that came with an uncorrectable error: what they would have fed
keeps its contents, and the group owes a 0x30 (R132). -/
def execEnginePieceLand (id k : Nat) (bad : List Nat) (s : State) : Out :=
  .next <| match s.jobs.find? (·.id == id) with
  | none => s
  | some j => match j.st with
    | .landing ps => match ps[k]? with
      | none => s
      | some p =>
        if p.behind (ps.take k) then s else
        let o := s.jobOfGroup j.grp
        let ws := p.wr.filter fun b => !j.lost p bad b
        let s : State := if ws.length < p.wr.length then s.owe30 j.grp j.batch else s
        let s := s.setJob { j with st := .landing (ps.eraseIdx k) }
        let n := if p.counted then 0 else p.count
        let ls : List Loc := ws.flatMap (·.locs)
        match (ls.headD ⟨.win, 0⟩).sp with
        | .remote peer =>
          let (xs, s) := s.peerBytes ws
          s.sendRemote { peer, addr := (ls.headD ⟨.win, 0⟩).a / 128 * 128, op := .access (.write xs), resent := false, who := .piece id n
                         grp := j.grp, sp := 0, pc := 0, batch := j.batch }
        | _ => (((ws.foldl (fun (s : State) b => s.landEl o.1 o.2 b) s).fillFp6 j.kind ls).keepDirs ls).pieceDone id n
    | _ => s

/-! ## The sub-arrays (R198, R206, R207, R219 to R221) -/

/-- The sub-array quarter `q` runs on: itself, or the first healthy one after it (R207, R220). With all four fenced, those queued
before run on their own: R220 speaks of the instructions that issue after (log entry 85). -/
def Column.runsOn (c : Column) (q : Nat) : Nat :=
  ((List.range 4).map fun k => (q + k) % 4).find? (fun a => !c.fenced.getLsbD a) |>.getD q

/-- An operation may be applied: nothing earlier names its tiles, no earlier OLOAD or claim its slots, and for a claim no earlier
operation at all; no earlier ASTORE has yet to read its tiles, its group has no earlier command on an open guard, but a drain and a
claim wait for none of their own; and what barriers and observed releases order before it is complete (R148, R198, R235, R239). -/
def State.opReady (s : State) (col : Nat) (o : MxOp) : Bool :=
  let ss := o.kind.slots
  (s.tileWork col o.kind.tiles).all (fun i => o.id ≤ i) &&
    s.jobs.all (fun j => !(j.id < o.id && match j.kind with
      | .oload c a n => c == col && ss.any fun k => a ≤ k && k < a + n
      | _ => false)) &&
    (s.col col).ops.all (fun p => !(p.id < o.id && (p.kind.claims || o.kind.claims) && p.kind.slots.any ss.contains)) &&
    !(o.kind.batched && s.behindGuard o.grp o.id) && s.synced o.grp o.id &&
    (match o.kind with
      | .claim ss bs _ => !s.winBusy o.id (fun l => l.inSlots col ss || l.inBanks col bs)
      | _ => !(ss.any fun k => s.owes (.split o.grp) 4 (winLoc col 2 (1024 * k)) 1024) &&
          !(o.kind.tiles.any fun t => s.owes (.split o.grp) 4 (winLoc col 3 (1024 * t)) 1024))

/-- An operation is applied, its results written, and a quarter counted for its sub-array's proof products. -/
def State.applyMx (s : State) (col : Nat) (o : MxOp) : State :=
  let s := match o.kind with
    | .quarter .. | .zero .. => s
    | k => s.setGrpAt o.grp ((s.grpAt o.grp).putOp (s.col col) k)
  let c := (s.col col).applyOp o.kind
  let c := { c with ops := c.ops.filter (·.id != o.id) }
  let c := match o.kind with
    | .quarter q .. =>
      let a := c.runsOn q
      { c with sinceProof := Map.set 0 c.sinceProof a (Map.get 0 c.sinceProof a + 1)
               suspects := if c.suspects.contains (a, o.grp, o.batch) then c.suspects else c.suspects ++ [(a, o.grp, o.batch)] }
    | _ => c
  (s.setCol col c).settle (s.grpAt o.grp).team

def State.columnOfOp? (s : State) (id : Nat) : Option (Nat × MxOp) :=
  s.columns.findSome? fun p => (p.2.ops.find? (·.id == id)).map fun o => (p.1, o)

/-- A quarter operation, AZERO, or a drain or claim that waited takes its place in the matrix order; a sub-array with a proof product due or running applies
none (R219). -/
def execMmaQuarterComplete (id : Nat) (s : State) : Out :=
  .next <| match s.columnOfOp? id with
  | none => s
  | some (col, o) =>
    let busy := match o.kind with
      | .quarter q .. =>
        let a := (s.col col).runsOn q
        (s.col col).proving.contains a || (!(s.col col).fenced.getLsbD a && s.set.proofEvery ≤ Map.get 0 (s.col col).sinceProof a)
      | _ => false
    if s.opReady col o && !busy then s.applyMx col o else s

/-- A proof product is due after the interval's quarter operations (R219). -/
def execProofProductStart (col sa : Nat) (s : State) : Out :=
  .next (let c := s.col col
    if sa < 4 && !c.fenced.getLsbD sa && !c.proving.contains sa && s.set.proofEvery ≤ Map.get 0 c.sinceProof sa then
      s.setCol col { c with proving := sa :: c.proving }
    else s)

/-- The suspect batches of a group on a sub-array, first and last (R221). -/
def suspectRange (xs : List (Nat × Nat × Nat)) (sa gi : Nat) : Option (Nat × Nat) :=
  match (xs.filter fun x => x.1 == sa && x.2.1 == gi).map (·.2.2) with
  | [] => none
  | b :: r => some (r.foldl min b, r.foldl max b)

/-- A group's suspect batches, those of an earlier fence too, await its next boundary; one that has ended has its record posted, with PC and split 0: R221 names no instruction of it (log entry 86). -/
def State.suspectGroup (s : State) (gi : Nat) (r : Nat × Nat) : State :=
  let g := s.grpAt gi
  if g.ended then
    { s with posts := s.posts ++ [{ s.recordOf gi 0 g.entry false { code := 0x30, info64 := .ofNat 64 (mod32 r.1 + mod32 r.2 * 2 ^ 32) } with pc := 0 }] }
  else s.setGrpAt gi { g with suspect := some (g.suspect.elim r fun q => (min q.1 r.1, max q.2 r.2)) }

/-- A proof product's result: passed, or the sub-array is fenced and the host told (R219 to R221). -/
def execProofProductCheck (col sa : Nat) (ok : Bool) (s : State) : Out :=
  .next <|
    let c := s.col col
    if !c.proving.contains sa then s
    else
      let mine := c.suspects
      let c := { c with proving := c.proving.filter (· != sa), suspects := c.suspects.filter (·.1 != sa), sinceProof := Map.set 0 c.sinceProof sa 0 }
      if ok then s.setCol col { c with proofs := c.proofs + 1 }
      else
        let s : State := { s.setCol col { c with fenced := c.fenced ||| (1#4 <<< sa) } with told := .fenced col sa :: s.told }
        (List.range s.groups.length).foldl (fun (s : State) gi => match suspectRange mine sa gi with
          | some r => s.suspectGroup gi r
          | none => s) s

/-! ## Installs (R78 to R81) -/

/-- The flash logic dies take up a queued install: after the group's earlier stores and the jobs its
footprints name (R81, R154). -/
def execInstallStart (id : Nat) (s : State) : Out :=
  .next <| match s.install? id with
  | some i =>
    if i.started || i.code.isSome || s.busyBefore i.grp i.id || !s.synced i.grp i.id || s.footprintBlocked i.team i.id i.foot || s.behindGuard i.grp i.id then s
    else s.setInstall { i with started := true }
  | none => s

/-- One program/erase of a spare unit: its count and the region's consumption (R78, R80). -/
def State.program (s : State) (r : Region) (u : Nat) : State :=
  let s := { s with
    wear := Map.set 0 s.wear u (Map.get 0 s.wear u + 1)
    spares := Map.set [] s.spares r.stack ((Map.get [] s.spares r.stack).filter (· != u)) }
  s.setRegion { r with consumed := r.consumed + 1 }

/-- A unit is programmed from the next 2 MiB of the source, or fails and its spare is retired (R80). -/
def execInstallUnitProgrammed (id : Nat) (err : Bool) (s : State) : Out :=
  .next <| match s.install? id with
  | none => s
  | some i => match s.region? i.region with
    | none => s
    | some r =>
      if !i.started || i.code.isSome || r.units.length ≤ i.news.length then s
      else match s.unitSource i.ten (i.src + i.news.length * unitBytes) with
      | .flt _ => s.abandonInstall i 7 r.stack
      | .wait t p m _ => s.report t p m
      | .ok ls => if !ls.all s.granuleReady then s.wantFlash ls else match Map.get [] s.spares r.stack with
        | [] => s.abandonInstall i 4 r.stack
        | u :: _ =>
          let bs := s.unitData ls
          let s := s.program r u
          if err then
            let s : State := match s.region? i.region with
              | some r => s.setRegion { r with retired := r.retired + 1 }
              | none => s
            if 3 ≤ i.tries then s.abandonInstall i 4 r.stack
            else s.setInstall { i with bad := i.bad + 1, tries := i.tries + 1 }
          else
            let at_ := i.news.length * unitBytes
            s.setInstall { i with
              news := i.news ++ [u], tries := 0
              data := bs.zipIdx.foldl (fun m p => Memory.wr m (at_ + p.2) p.1) i.data }

/-- The commit, one point for the device (R81): the region's contents and units change together, 32 µs a unit after the issue
at the earliest (R329): 33,600 cycles of the arithmetic clock (R4, R5). -/
def execInstallCommit (id : Nat) (s : State) : Out :=
  .next <| match s.install? id with
  | none => s
  | some i => match s.region? i.region with
    | none => s
    | some r =>
      if !i.started || i.code.isSome || i.news.length != r.units.length || s.clock < i.issuedAt + 33600 * r.units.length then s
      else
        let n := r.units.length * unitBytes
        let code := if i.bad != 0 then 2 else if i.news.any fun u => 2700 < Map.get 0 s.wear u then 1 else 0
        let s := { s with
          flash := (List.range n).foldl (fun m k => Memory.wr m (r.base + k) (Memory.rd i.data k)) s.flash
          staged := s.staged.filter fun g => !(r.base ≤ g * unitBytes && g * unitBytes < r.base + n)
          spares := Map.set [] s.spares r.stack (Map.get [] s.spares r.stack ++ r.units) }
        (s.setRegion { r with units := i.news, installs := r.installs + 1 }).setInstall { i with code := some code, committed := true, data := [] }

/-- The codes of installs that failed the region tests at issue (R80). -/
def untested (c : Nat) : Bool := c == 3 || c == 5 || c == 6

/-- The end (R80): the region is free, then the record shows code and counter, and the batch entry is over. -/
def State.endInstall (s : State) (i : Install) (c : Nat) : State :=
  let s : State := match s.region? i.region with
    | some r => if untested c then s else s.setRegion { r with installing := false, lastCode := c }
    | none => s
  let o := s.jobOfGroup i.grp
  let s := s.homeWrite o.1 o.2 (i.record.plus 8) 8 c
  let s := s.homeWrite o.1 o.2 i.record 8 ((s.rdN i.record 8 + 1) % 2 ^ 64)
  { s with installs := s.installs.filter (·.id != i.id) }

def execInstallEnd (id : Nat) (s : State) : Out :=
  .next <| match s.install? id with
  | none => s
  | some i => match i.code with
    | none => s
    | some c => if s.footprintBlocked i.team i.id i.foot || s.behindGuard i.grp i.id then s else s.endInstall i c

/-! ## Naps (R251) -/

/-- A nap ends once the column's clock has reached its end. -/
def execNapExpiry (g sp : Nat) (s : State) : Out :=
  .next <|
    let x := s.spAt (g, sp)
    match x.wait with
    | .nap till =>
      if x.live && till ≤ s.cycle (s.teamOf (s.grpAt g).team).col then s.setSpAt (g, sp) { x with wait := .none, since := s.tick + 1 } else s
    | _ => s

end Sys2Proof.Machine
end

