-- ==== Sys2Proof/Machine/EvSched.lean ====
section
/-!
DEFINITION. Events of the schedulers and the recovery machinery (R261 to R277, R291 to R296, R304 to R314).
An event whose condition does not hold changes nothing.
-/
namespace Sys2Proof.Machine

/-! ## Stopping and saving a team (R291 to R296) -/

/-- Usable vault bandwidth with a candidate of a heat class placed (R73). -/
def State.usable (s : State) (col heat : Nat) : Int :=
  s.usableNow col - (refCost heat (s.col col).band : Int)

/-- A resident team whose charge has risen, on a column whose usable bandwidth is below the floor since, is a candidate for migration
(R73). -/
def State.candidate (s : State) (t : Team) : Bool := !t.ended && !t.stopped && t.col < 512 && t.risen && s.lacking t.col

/-- A request reaches a team for a reason that holds (R291): a Bivouac entry, a checkpoint of its job, its launch's cancellation, or
R73's; a privileged command is its own. -/
def execPreemptionRequest (team : Nat) (why : Why) (s : State) : Out :=
  .next <|
    let t := s.teamOf team
    let l := s.launchOf t.ten t.launch
    let holds : Bool := match why with
      | .bivouac => s.biv.phase == 1
      | .checkpoint => (s.rjob? t.ten l.job).any (·.progress.isSome)
      | .cancel => l.cancelled
      | .migration => s.candidate t
      | .command => true
    if holds then s.ask team why else s

/-- A split is stopped for pre-emption: at a yield check, or with its whole group by a fault (R291, R293). -/
def Split.quiet (x : Split) : Bool := !x.live || x.wait == .yielded

/-- A split is inside an instruction it has issued, which completes, waiting for a host's answer too (R280). -/
def Split.midway (x : Split) : Bool := x.live && match x.wait with
  | .drain | .fence .. | .fill _ | .retry | .answer .. => true
  | _ => false

/-- A group is stopped: its splits have yielded or a fault stopped it, or it has ended; nothing it awaits is in flight, and
its commands are complete but those held, guarded or behind a guard (R293). -/
def State.groupStopped (s : State) (gi : Nat) : Bool :=
  let g := s.grpAt gi
  let busyOps := (s.col (s.teamOf g.team).col).ops.any fun o => o.grp == gi && (o.kind.claims || !s.behindGuard gi o.id)
  let busyJobs := s.jobs.any fun j => j.grp == gi && !j.isHeld && j.guard.isNone && !s.behindGuard gi j.id
  let busyInstalls := s.installs.any fun i => i.grp == gi && !s.behindGuard gi i.id
  (g.ended || (g.stopped && !g.s0.midway && !g.s1.midway) || (g.s0.quiet && g.s1.quiet)) && !s.inFlight gi && !busyOps && !busyJobs && !busyInstalls

def State.teamStopped (s : State) (uid : Nat) : Bool := (s.groupsOf uid).all s.groupStopped

/-- A place in a window on a team's registers, slots or banks (R91, R92). -/
def State.onTeam (s : State) (uid : Nat) (l : Loc) : Bool :=
  let t := s.teamOf uid
  let c := s.col t.col
  l.sp == .win && winCol l.a == t.col && match winArea l.a with
    | 0 | 1 => (s.groupsOf uid).any fun i => !(s.grpAt i).ended && (s.grpAt i).slot == winSlot l.a
    | 2 => Map.get 0 c.slotHeld (l.a / 1024 % 256) == uid + 1
    | _ => Map.get 0 c.bankHeld (l.a % 2 ^ 19 / 8192) == uid + 1

/-- Window accesses and engine writes that passed their checks have landed (R296). -/
def State.windowsQuiet (s : State) (uid : Nat) : Bool :=
  s.pend.all (fun p => p.lanes.all fun x => x.res.isSome || !s.onTeam uid x.loc) &&
    s.jobs.all fun j => j.idle || s.behindGuard j.grp j.id || !j.locs.any (s.onTeam uid)

/-- What the yield checks of a group name (R292): none names everything. -/
def Group.names (g : Group) : List (Option (Word × Bool × Bool × Word × Word)) :=
  if g.ended then [] else if g.stopped then [none] else ([g.s0, g.s1].filter (·.live)).map (·.named)

/-- Vector registers that stay: the union of both splits' live sets (R294, R295). -/
def Group.keepLive (g : Group) : Group :=
  let live (v : Nat) : Bool := g.names.any fun n => match n with
    | none => true
    | some (b, _) => b.toNat.testBit (v / 4)
  { g with vregs := g.vregs.filter fun p => live (p.1 / 128) }

def State.keepSlots (s : State) (uid : Nat) : Bool := (s.groupsOf uid).any fun i => (s.grpAt i).names.any fun n => match n with
  | none => true
  | some (_, a, _) => a
def State.keepBanks (s : State) (uid : Nat) : Bool := (s.groupsOf uid).any fun i => (s.grpAt i).names.any fun n => match n with
  | none => true
  | some (_, _, b, _) => b
def inRange (r : Word) (o : Nat) : Bool := rangeOff r ≤ o && o < rangeOff r + rangeLen r
/-- A pooled offset some yield check of the team names live. -/
def State.keepScratch (s : State) (uid o : Nat) : Bool := (s.groupsOf uid).any fun i => (s.grpAt i).names.any fun n => match n with
  | none => true
  | some (_, _, _, a, b) => inRange a o || inRange b o

/-- Bytes of scratchpad some one yield check of the team names, at the least. -/
def State.scratchNamed (s : State) (uid len : Nat) : Nat :=
  ((s.groupsOf uid).flatMap fun i => (s.grpAt i).names).foldl (fun m n => match n with
    | none => len
    | some (_, _, _, a, b) => max m (min len (max (rangeLen a) (rangeLen b)))) 0

/-- The cells of a memory inside listed blocks of `size` bytes. -/
def blockCells (m : Memory) (size : Nat) (ns : List Nat) : Memory := m.filter fun c => ns.contains (c.1 / size)

/-- The image of a stopped team (R294). -/
def State.imageOf (s : State) (uid : Nat) : Image :=
  let t := s.teamOf uid
  let c := s.col t.col
  let held (m : Map Nat) : List Nat := (m.filter fun p => p.2 == uid + 1).map (·.1)
  let gs := (s.groupsOf uid).map s.grpAt
  let pos (g : Nat) : Nat := (s.groupsOf uid).idxOf g
  let base := 2 ^ 27 * ropeOf t.col
  let len := (s.launchOf t.ten t.launch).scratch
  { team := t, groups := gs.map Group.keepLive, slotNos := held c.slotHeld, bankNos := held c.bankHeld
    slots := if s.keepSlots uid then blockCells c.slots 1024 (held c.slotHeld) else []
    accum := if s.keepBanks uid then blockCells c.accum 8192 (held c.bankHeld) else []
    fp6 := c.fp6.filter (held c.slotHeld).contains
    owners := c.rowOwner.filterMap fun p => if (s.grpAt (p.2 - 1)).team = uid then some (p.1, (s.grpAt (p.2 - 1)).gid + 1) else none
    scratch := (s.sram.filter fun p => base + t.scrBase ≤ p.1 && p.1 < base + t.scrBase + len && s.keepScratch uid (p.1 - base)).map
      fun p => (p.1 - base - t.scrBase, if s.isPending .sram (p.1 / 64) then 0 else p.2)
    jobs := (s.jobs.filter fun j => j.team == uid).map fun j => { j with grp := pos j.grp }
    ops := (c.ops.filter fun o => (s.grpAt o.grp).team == uid).map fun o => { o with grp := pos o.grp }
    installs := (s.installs.filter fun i => i.team == uid).map fun i => { i with grp := pos i.grp }
    records := (s.posts.filter fun r => r.grp.any fun gi => (s.grpAt gi).team == uid).map fun r => { r with grp := r.grp.map pos }
    size := (if s.keepSlots uid then 1024 * (held c.slotHeld).length else 0) + (if s.keepBanks uid then 8192 * (held c.bankHeld).length else 0) +
      s.scratchNamed uid len }

/-- A suspended team's image as it stands: what host commands have done to its groups, commands and records since. -/
def State.imageNow (s : State) (i : Image) : Image :=
  let j := s.imageOf i.team.uid
  { i with team := j.team, groups := j.groups, jobs := j.jobs, installs := j.installs, records := j.records }

/-- An image as a message to another module holds it: the directories its string handles name with it, under the LAUNCHID its launch
is known by (R107, R276). -/
def State.sentImage (s : State) (i : Image) : Image :=
  let n := s.launchNo i.team.ten i.team.launch
  { i with team := { i.team with launch := n }, records := i.records.map fun r => { r with launch := n }, dirs := s.dirs.filter fun d => i.team.names d.id }

/-- The save engine's effect on what stays in place: what no yield check named reads as zero (R295, R307). -/
def State.dropUnnamed (s : State) (uid : Nat) : State :=
  let i := s.imageOf uid
  let t := s.teamOf uid
  let c := s.col t.col
  let base := 2 ^ 27 * ropeOf t.col + t.scrBase
  let len := (s.launchOf t.ten t.launch).scratch
  let s := s.setCol t.col { c with
    slots := if s.keepSlots uid then c.slots else c.slots.filter fun p => !i.slotNos.contains (p.1 / 1024)
    accum := if s.keepBanks uid then c.accum else c.accum.filter fun p => !i.bankNos.contains (p.1 / 8192) }
  let s := { s with sram := s.sram.filter fun p => !(base ≤ p.1 && p.1 < base + len && !s.keepScratch uid (p.1 - base + t.scrBase)) }
  (s.groupsOf uid).foldl (fun (s : State) k => s.setGrpAt k (s.grpAt k).keepLive) s

/-- Commands that still wait, with a place in a team's windows, are checked again (R296). -/
def State.staleOn (s : State) (uid : Nat) : State :=
  { s with jobs := s.jobs.map fun j => if j.locs.any (s.onTeam uid) then { j with stale := true } else j }

/-- The team leaves its column: slots, banks, scratchpad and group slots are free, and its matrix operations behind a guard
leave with it (R294, R296). Commands of others that still wait, with a place in its windows, are checked again. -/
def State.vacate (s : State) (uid : Nat) : State :=
  let t := s.teamOf uid
  let i := s.imageOf uid
  let c := (s.col t.col).dropSlots i.slotNos |>.dropBanks i.bankNos
  let s := s.staleOn uid
  let s : State := { s with jobs := s.jobs.map fun j => if j.team = uid then { j with stale := true } else j }
  (s.setCol t.col { c with ops := c.ops.filter fun o => (s.grpAt o.grp).team != uid }).setTeam { t with stopped := true, col := 0xFFFF }

/-- Bytes written at a physical place of the checkpoint domain. -/
def State.putArea (s : State) (a : Nat) (bs : List Byte) : State :=
  bs.zipIdx.foldl (fun (s : State) p => s.wrB ⟨.mem false true, a + p.2⟩ p.1) s
def State.getArea (s : State) (a n : Nat) : List Byte := (List.range n).map fun k => s.rdB ⟨.mem false true, a + k⟩

/-- What stands in a tenant's image area: suspended images and entry checkpoints of jobs without an area, by place and length. -/
def State.areaTaken (s : State) (ten : Nat) : List (Nat × Nat) :=
  (((s.items.filter (·.ten == ten)) ++ (s.away.map (·.2)).filter (·.ten == ten)).filterMap fun i => i.image?.bind fun m =>
    m.place.map fun p => (p, (Config.imageBytes 0 m.team.uid).length)) ++
  (s.rjobs.filter (·.ten == ten)).flatMap fun j => (j.progress.toList ++ j.sealed).filterMap fun c => c.place.map fun p => (p, c.len)

/-- The lowest place from `base` on where `len` bytes meet none of the ranges taken. -/
def freePlace (base len : Nat) (taken : List (Nat × Nat)) : Nat :=
  ((base :: taken.map fun x => x.1 + x.2).filter fun a => base ≤ a && taken.all fun x => a + len ≤ x.1 || x.1 + x.2 ≤ a).foldl min
    (taken.foldl (fun m x => max m (x.1 + x.2)) base)

/-- An image's bytes go to its tenant's image area, to the lowest place where nothing stands (R294); a tenant without an area has
none written. Their format and their length are the part's (log entry 7). -/
def State.saveImage (s : State) (ten uid : Nat) : Option Nat × State :=
  match s.tenantOf? ten with
  | none => (none, s)
  | some t =>
    let bs := Config.imageBytes 0 uid
    let p := freePlace t.imageArea bs.length (s.areaTaken ten)
    if t.imageArea = 0 then (none, s) else (some p, s.putArea p bs)

/-- An image with the contents that a saved one holds. -/
def Image.holding (i m : Image) : Image := { i with slots := m.slots, accum := m.accum, fp6 := m.fp6, scratch := m.scratch, size := m.size }

/-- The team leaves its column, and its image is queued on a die, sticky, with its record's level and push time; R274 does not say
whether a level the item of an earlier image rose to is kept (log entry 87). Where its contents were `saved` before, the image holds
those. -/
def State.suspend (s : State) (uid die : Nat) (place : Option Nat) (saved : Option Image) : State :=
  let i := { saved.elim (s.imageOf uid) (s.imageOf uid).holding with place }
  let t := s.teamOf uid
  let s := (s.dropUnnamed uid).vacate uid
  { s with
    nextId := s.nextId + 1
    items := s.items ++ [{ id := s.nextId, die := s.liveDie die, ten := t.ten, launch := t.launch, prio := t.prio, pushTime := t.pushTime
                           queuedAt := s.clock, aged := 0, passes := 64, work := .image i }] }
def State.queueImage (s : State) (uid die : Nat) : State :=
  let (p, s) := s.saveImage (s.teamOf uid).ten uid
  s.suspend uid die p none

/-- A record of a group saved since its stop carries the flag (R283). -/
def State.markSaved (s : State) (uid : Nat) : State :=
  { s with
    posts := s.posts.map fun r => if r.grp.any fun gi => (s.grpAt gi).team == uid then { r with flags := r.flags ||| 4 } else r
    groups := s.groups.map fun g => if g.team = uid ∧ g.stopped then { g with saved := true } else g }

/-- A stopped team is saved, as its requests say: cancellation first; then a checkpoint or Bivouac image,
the team staying stopped; else it is suspended and its image queued: on its die, on the one a command names, or, for a
migration of R73, on another (log entry 47; R273, R277, R307). -/
def execTeamSave (team : Nat) (s : State) : Out :=
  .next <|
    let t := s.teamOf team
    let job := (s.launchOf t.ten t.launch).job
    if t.ended || t.stopped || t.requests.isEmpty || !s.teamStopped team then s
    else if t.requests.contains .cancel then s.killTeam team false
    else if !s.windowsQuiet team then s
    else if t.requests.contains .checkpoint || t.requests.contains .bivouac then
      match s.rjob? t.ten job with
      | none => s
      | some j => match j.progress with
        | none => s
        | some c =>
          let i := s.imageOf team
          let s := ((s.markSaved team).dropUnnamed team).staleOn team
          (s.setTeam { s.teamOf team with stopped := true }).setRJob { j with progress := some { c with images := c.images ++ [i] } }
    else
      let (w, s) := s.fresh
      let others := (List.range 8).filter fun d => d != dieOf t.col && !dieFailed s d
      let die := t.dest.getD (if t.requests.contains .migration then others.getD (w.toNat % max others.length 1) (dieOf t.col) else dieOf t.col)
      ((s.markSaved team).setTeam { t with requests := [], dest := none }).queueImage team die

/-! ## Placement (R73, R89, R158, R222, R275) -/

/-- Group slots of a column that live groups stand in, or that window accesses still go to (R92). -/
def State.slotsUsed (s : State) (col : Nat) : List Nat :=
  let live := ((List.range s.groups.length).filter fun i => !(s.grpAt i).ended && (s.teamOf (s.grpAt i).team).col == col).map fun i => (s.grpAt i).slot
  live ++ (List.range 32).filter fun k => !live.contains k && s.winBusy s.nextId (Loc.inGroupSlot col k)

/-- Bytes of a column's register file in use: groups alive, or ended with commands not complete (R250). -/
def State.regBytes (s : State) (col : Nat) : Nat :=
  (List.range s.groups.length).foldl (fun n i =>
    let g := s.grpAt i
    let t := s.teamOf g.team
    if t.col = col ∧ (!g.ended ∨ s.openWork i ≠ []) then n + t.vregs * npass (s.launchOf t.ten t.launch).width * 128 else n) 0

/-- An ended team still has accesses or commands under way. -/
def State.lingers (s : State) (uid : Nat) : Bool := s.teamBusy uid || s.jobs.any (·.team == uid)

/-- The lowest free offset, a multiple of 4,096, of a Rope's pool for `len` bytes (log entry 14). -/
def State.scratchAt (s : State) (rope len : Nat) : Option Nat :=
  let taken := (s.teams.filter fun t => (!t.ended || s.lingers t.uid) && t.col < 512 && ropeOf t.col == rope).map fun t => (t.scrBase, (s.launchOf t.ten t.launch).scratch)
  if len = 0 then some 0
  else ((0 :: taken.map fun p => p.1 + p.2).filter fun o =>
    o + len ≤ 2 ^ 27 && taken.all fun p => p.1 + p.2 ≤ o || o + len ≤ p.1 || p.2 = 0).foldl
      (fun b o => match b with
        | none => some o
        | some x => some (min x o)) none

/-- What an item asks of a column: groups, registers of each, width, scratch, heat, numbers of an image. -/
structure Need where
  groups : Nat
  vregs : Nat
  scratch : Nat
  width : Nat
  heat : Nat
  slotNos : List Nat
  bankNos : List Nat

def State.need (s : State) (it : Item) : Need :=
  let l := s.launchOf it.ten it.launch
  match it.work with
  | .record bs _ => ⟨(TaskRec.ofNat bs).groups, (TaskRec.ofNat bs).vregs, l.scratch, l.width, l.heat, [], []⟩
  | .image i => ⟨(i.groups.filter (!·.ended)).length, i.team.vregs, l.scratch, l.width, i.team.heat, i.slotNos, i.bankNos⟩

def State.fits (s : State) (it : Item) (col : Nat) : Bool :=
  let n := s.need it
  let c := s.col col
  !dieFailed s (dieOf col) && (s.slotsUsed col).length + n.groups ≤ 32 && s.regBytes col + n.groups * n.vregs * npass n.width * 128 ≤ 2 ^ 20 &&
    (s.scratchAt (ropeOf col) n.scratch).isSome && c.band < 3 && (s.set.floor : Int) ≤ s.usable col n.heat &&
    n.slotNos.all (fun k => c.slotOf k == 0) && n.bankNos.all (fun k => c.bankOf k == 0) &&
    !s.slotsBusy col n.slotNos && !s.banksBusy col n.bankNos && c.fenced != 15

/-- The column of a die an item takes: of greatest usable bandwidth, lowest number among equals. -/
def State.placeOn (s : State) (it : Item) (die : Nat) : Option Nat :=
  ((List.range 64).map fun k => 64 * die + k).foldl (fun b c =>
    if !s.fits it c then b
    else match b with
      | none => some c
      | some x => if s.usable x (s.need it).heat < s.usable c (s.need it).heat then some c else b) none

/-! ## Dispatch (R159, R270, R274) -/

/-- A new group of a team (R159). -/
def Group.start (team gid slot : Nat) (pc : Word) (w tick : Nat) : Group :=
  { Group.empty with
    team, gid, slot, lanes := allLanes w
    s0 := { Split.empty with live := true, pc, m0 := allLanes w, since := tick } }

/-- The lowest `n` free group slots of a column. -/
def State.freeSlots (s : State) (col n : Nat) : List Nat := ((List.range 32).filter fun k => !(s.slotsUsed col).contains k).take n

/-- A record starts as a team, its scratchpad fill-pending (R89). -/
def State.startRecord (s : State) (it : Item) (col : Nat) : State :=
  match it.work with
  | .image _ => s
  | .record bs team =>
    let l := s.launchOf it.ten it.launch
    let uid := s.nextId
    let r := TaskRec.ofNat bs
    let n := r.groups
    let t : Team := { Team.empty with
      uid, ten := it.ten, launch := it.launch, id := team, col, ngroups := n, vregs := r.vregs, frame := .ofNat 64 r.frame, parent := .ofNat 64 r.parent, prio := it.prio
      pushTime := it.pushTime, scrBase := (s.scratchAt (ropeOf col) l.scratch).getD 0, heat := l.heat, ended := false }
    let gs := (s.freeSlots col n).zipIdx.map fun p => Group.start uid p.2 p.1 (.ofNat 64 r.code) l.width s.tick
    ({ s with nextId := uid + 1, teams := s.teams ++ [t], groups := s.groups ++ gs } : State).tagFill .sram (2 ^ 27 * ropeOf col + t.scrBase) l.scratch

/-- A restored split resumes at its resume point; one that was in a BAR waits again for its phase, or takes the fault of
its abandonment or of BARINV; one whose phase completed has gone on already (R262, R295). One of a group that stays stopped stands
in its wait as before, which an action may take it past (R286). -/
def Split.restore (x : Split) (t : Team) (gid w tick : Nat) (stopped : Bool) : Split × Option Flt :=
  if !x.live || x.wait != .yielded then ({ x with since := tick }, none)
  else match x.resume with
    | .bar b ph n =>
      let r := t.bar b
      let y := { x with wait := .none, named := none, resume := .none, denied := none, since := tick }
      match x.denied with
      | some f => (y, some f)
      | none =>
        if r.phase = ph then ({ y with wait := .bar b ph n }, none)
        else
          let code := Map.get 0 r.abandon gid
          if code != 0 then (y, some (barFlt code b r.gset.toNat r.lmask 0xFFFF w)) else ({ y with pc := n }, none)
    | r =>
      let passed := match r with
        | .barw b ph _ => (t.bar b).phase != ph
        | _ => false
      ({ x with wait := if stopped && !passed then r else .none, named := none, resume := .none, since := tick }, none)

/-- Restores a group of a placed team; a fault it takes uses up its group's abandon pending, and a request still pending ends a
BAR's wait again (R262). -/
def State.restoreGroup (s : State) (gi slot : Nat) : State :=
  let g := s.grpAt gi
  if g.ended then s
  else
    let t := s.teamOf g.team
    let w := (s.launchOf t.ten t.launch).width
    let (x0, f0) := g.s0.restore t g.gid w s.tick g.stopped
    let (x1, f1) := g.s1.restore t g.gid w s.tick g.stopped
    let asked (x : Split) : Split := if t.requests.isEmpty then x else x.endWait
    let s := s.setGrpAt gi { g with slot, s0 := asked x0, s1 := asked x1 }
    let take (s : State) (k : Nat) (pc : Word) (f : Option Flt) : State := match f with
      | some e =>
        let t := s.teamOf g.team
        let r := t.bar e.info32
        (s.setTeam (t.setBar e.info32 { r with abandon := Map.set 0 r.abandon g.gid 0 })).takeFault gi k pc true e
      | none => s
    take (take s 0 x0.pc f0) 1 x1.pc f1

/-- The contents of an image are written back on a column (R295). -/
def State.fillColumn (s : State) (i : Image) (uid col scr : Nat) : State :=
  let c := s.col col
  let c := (c.takeSlots (uid + 1) i.slotNos).takeBanks (uid + 1) i.bankNos
  let c := { c with
    slots := i.slots.foldl (fun m p => Memory.wr m p.1 p.2) c.slots
    accum := i.accum.foldl (fun m p => Memory.wr m p.1 p.2) c.accum
    fp6 := c.fp6 ++ i.fp6
    rowOwner := i.owners.foldl (fun m p => match s.groupNo? uid (p.2 - 1) with
      | some gi => Map.set 0 m p.1 (gi + 1)
      | none => m) c.rowOwner }
  let base := 2 ^ 27 * ropeOf col + scr
  let s := s.setCol col c
  let kept := s.sram.filter fun p => !(base ≤ p.1 && p.1 < base + (s.launchOf i.team.ten i.team.launch).scratch)
  { s with
    sram := i.scratch.foldl (fun m p => Memory.wr m (base + p.1) p.2) kept
    fill := dropLines .sram (base / 64) ((s.launchOf i.team.ten i.team.launch).scratch / 64) s.fill }

/-- A tenant's pages placed in a vault that may move and are not pinned are to move to another (R277 step 3), where no
other team of the tenant is left on the old column. -/
def State.followTeam (s : State) (ten old new : Nat) : State :=
  if s.teams.any fun t => !t.ended && t.ten == ten && t.col == old then s
  else match s.tenantOf? ten with
  | none => s
  | some t =>
    let ls := (List.range 512).flatMap fun k => s.leavesAt 4 t.root k (k * 2 ^ 39)
    let mv := ls.filter fun x => moveEligible x.2 && pteTen x.2 == ten && ptePlc x.2 == 1 && pteTgt x.2 == old &&
      !s.pinned.contains (ten, x.1 / 4096) && !s.migrations.any fun m => m.ten == ten && m.va == x.1
    { s with migrations := s.migrations ++ mv.map fun x => ⟨ten, x.1, 512 + new, false⟩ }

/-- A command that still waits is placed anew on the column its team has now (R295); where a page is missing, when it goes
on. -/
def JobKind.onCol (col : Nat) : JobKind → JobKind
  | .oload _ s n => .oload col s n
  | .astore _ t n => .astore col t n
  | k => k
def State.moveJobs (s : State) (uid col : Nat) : State :=
  { s with jobs := s.jobs.map fun j =>
      if j.team != uid || j.failed.isSome then j
      else match s.replan j with
        | .ok k => k
        | _ => { j with kind := j.kind.onCol col, stale := true } }

/-- A suspended team is restored on a column: its group entries, kept while it was suspended, go on. -/
def State.restoreImage (s : State) (i : Image) (col : Nat) : State :=
  let uid := i.team.uid
  let t := s.teamOf uid
  let scr := (s.scratchAt (ropeOf col) (s.launchOf t.ten t.launch).scratch).getD 0
  let live := (s.groupsOf uid).filter fun k => !(s.grpAt k).ended
  let slots := s.freeSlots col live.length
  let s := s.setTeam { t with stopped := false, col, scrBase := scr, risen := false, whole := false }
  let s := s.fillColumn i uid col scr
  let s := s.setCol col { s.col col with ops := (s.col col).ops ++ i.ops.map fun o => { o with grp := (s.groupsOf uid).getD o.grp 0 } }
  let s := if i.team.col < 512 && dieOf i.team.col != dieOf col then s.followTeam t.ten i.team.col col else s
  ((live.zip slots).foldl (fun (s : State) p => s.restoreGroup p.1 p.2) s).moveJobs uid col

/-- The place of an item in its sequence: priority first, then push time (R274). -/
def Item.before (x y : Item) : Bool := y.prio < x.prio || (x.prio == y.prio && (x.pushTime < y.pushTime || (x.pushTime == y.pushTime && x.id < y.id)))
def insertItem (x : Item) : List Item → List Item
  | [] => [x]
  | y :: r => if x.before y then x :: y :: r else y :: insertItem x r

/-- Records of a job whose checkpoint is in progress, or of one that is rolling back, wait (R307, R312). -/
def State.heldBack (s : State) (it : Item) : Bool :=
  ((s.rjob? it.ten (s.launchOf it.ten it.launch).job).any fun j => j.progress.isSome || j.rolling || j.container.isSome)

def State.sequence (s : State) (die ten : Nat) : List Item :=
  (s.items.filter fun i => i.die == die && i.ten == ten && !s.heldBack i).foldr insertItem []

/-- The first item of the window that fits, and its column: the head and at most 8 behind it, or the head
alone while it is sticky. -/
def State.choice (s : State) (die ten : Nat) : Option (Item × Nat × List Item) :=
  let q := s.sequence die ten
  let win := if q.head?.any (64 ≤ ·.passes) then q.take 1 else q.take 9
  let rec go : List Item → List Item → Option (Item × Nat × List Item)
    | _, [] => none
    | skipped, i :: r => (s.placeOn i die).elim (go (i :: skipped) r) fun c => some (i, c, skipped)
  go [] win

/-- A tenant has a turn left in the die's round; a round in which nobody who could dispatch has one begins anew. -/
def State.turn (s : State) (die ten : Nat) : Option State :=
  match s.tenantOf? ten with
  | none => none
  | some t =>
    let used (x : Tenant) : Nat := Map.get 0 x.spent die
    if used t < t.weight then some (s.setTenant { t with spent := Map.set 0 t.spent die (used t + 1) })
    else if s.tenants.any fun x => used x < x.weight && (s.choice die x.n).isSome then none
    else
      some { s with tenants := s.tenants.map fun x => { x with spent := Map.set 0 x.spent die (if x.n = t.n then 1 else 0) } }

def execDispatch (die ten : Nat) (s : State) : Out :=
  .next <|
    if s.biv.phase != 0 then s
    else match s.choice die ten with
    | none => s
    | some (it, col, skipped) => match s.turn die ten with
      | none => s
      | some s =>
        let pass (x : Item) : Item := if skipped.any (·.id == x.id) then { x with passes := x.passes + 1 } else x
        let s : State := { s with items := (s.items.filter (·.id != it.id)).map pass }
        match it.work with
        | .record .. => s.startRecord it col
        | .image i => s.restoreImage i col

def execItemAging (item : Nat) (s : State) : Out :=
  .next { s with items := s.items.map fun i =>
    if i.id = item ∧ i.prio < 3 ∧ s.set.aging * (i.aged + 1) < s.clock - i.queuedAt then { i with prio := i.prio + 1, aged := i.aged + 1 } else i }

/-- A die advertises free slots (R276). -/
def State.advertises (s : State) (die : Nat) : Bool :=
  (List.range 64).any fun k => (s.slotsUsed (64 * die + k)).length < 32 && s.regBytes (64 * die + k) + 65536 ≤ 2 ^ 20

/-- Want of group slots or registers on every column of a die. -/
def State.noRoom (s : State) (it : Item) (die : Nat) : Bool :=
  let n := s.need it
  (List.range 64).all fun k => 32 < (s.slotsUsed (64 * die + k)).length + n.groups ||
    2 ^ 20 < s.regBytes (64 * die + k) + n.groups * n.vregs * npass n.width * 128

/-- An item may go to peer `p`: its launch spans modules, and the peer holds a pairing for the tenant (R276). -/
def State.maySpan (s : State) (p : Nat) (it : Item) : Bool :=
  let l := s.launchOf it.ten it.launch
  l.span && l.guest.isNone && p != s.set.devId && s.routes.contains p && s.pairs.any fun x => x.1 == it.ten && x.2.1 == p

/-- A crowded die sends one item of a tenant's sequence to an advertising die, sticky ones first, else the tail, or one of a
spanning launch to a peer: `dest` is a die, or 8 and the peer's number (R276). -/
def execWorkMigration (die ten dest : Nat) (s : State) : Out :=
  .next <|
    let q := s.sequence die ten
    match q.head? with
    | none => s
    | some h =>
      let last (q : List Item) : Option Item := ((q.filter (64 ≤ ·.passes)).getLast?).orElse fun _ => q.getLast?
      if !s.noRoom h die || q.length ≤ s.set.depth then s
      else if 8 ≤ dest then match last (q.filter (s.maySpan (dest - 8))) with
        | none => s
        | some x => ({ s with items := s.items.filter (·.id != x.id), away := s.away ++ [(dest - 8, x)] } : State).sendRemote
            { peer := dest - 8, addr := 0, op := .work (x.mapImage fun i => s.sentImage (s.imageNow i)), resent := false, who := .nobody, grp := 0, sp := 0, pc := 0, batch := 0 }
      else if dest == die || dieFailed s dest || !s.advertises dest then s
      else match last q with
        | none => s
        | some x => { s with items := s.items.map fun y => if y.id = x.id then { y with die := dest } else y }

/-! ## Launches from the host, initial records, joins (R266 to R269, R356) -/

/-- The next initial record of a launch enters the queue (R267); `k` is the launch's place in the list. -/
def execInitialRecordWrite (k : Nat) (s : State) : Out :=
  .next <| match s.launches[k]? with
  | none => s
  | some l => s.initialRecord l.ten l.id

/-- A join's push, or its wait (R268, R269). -/
def State.joinPush (s : State) (j : JoinWait) (rec_ : TaskRec) : State :=
  let l := s.launchOf j.ten j.launch
  let s := if l.cancelled then s else (s.pushRecord l rec_ j.die).2
  match j.who with
  | none => if j.tjoin then s else s.finishRecord j.ten j.launch j.team j.counts
  | some (g, k, d, n) =>
    let s := s.setGrpAt g ((s.grpAt g).wrS d 1)
    s.setSpAt (g, k) { s.spAt (g, k) with pc := n, wait := .none, since := s.tick + 1 }

/-- The k-th record or join under way, once every access of its team is complete: the decrement of the record's PARENT,
then the push once the queue has an entry; a fault, on PARENT's path as TJOIN's (R269) too, posts a device record and the record
completes (R187, R268). -/
def execParentJoinPush (k : Nat) (s : State) : Out :=
  .next <| match s.joinWaits[k]? with
  | none => s
  | some j =>
    let l := s.launchOf j.ten j.launch
    let full := l.rqcap ≤ s.queueLen j.ten j.launch
    let out (s : State) : State := { s with joinWaits := s.joinWaits.eraseIdx k }
    let done (s : State) : State := (out s).finishRecord j.ten j.launch j.team j.counts
    let fail (c : Nat) : State := done (s.postDev j.ten j.launch j.team j.addr c)
    let a := j.addr.toNat % 2 ^ 60
    let path := j.addr.toNat / 2 ^ 60
    let readRec (s : State) : TaskRec := TaskRec.ofNat ((s.virtRead? j.ten a 32).getD 0)
    if j.page.isSome || (!j.tjoin && s.teamBusy j.uid) then s
    else if j.pushing then (if full && !l.cancelled then s else (out s).joinPush j (readRec s))
    else if j.addr = 0 then done s
    else if (2 ≤ path && path ≤ 5) || path = 15 then fail 0x11
    else if 6 ≤ path || a / 2 ^ 48 != 0 then fail 0x12
    else if a % 32 != 0 then fail 0x13
    else match s.devAccess j.ten (.ofNat 64 (a + 16)) 4 with
      | .flt f => fail f.code
      | .wait t p m _ => { s.report t p m with joinWaits := s.joinWaits.set k { j with page := some p } }
      | .ok p =>
        let old := s.rdN p 4
        if old = 0 then done s
        else
          let s := s.homeWrite j.ten l.job p 4 (old - 1)
          if old != 1 || l.cancelled then done s
          else if full then { s with joinWaits := s.joinWaits.set k { j with pushing := true } }
          else (out s).joinPush j (readRec s)

/-- The write of SUBGO (R356). -/
def execSubgo (port : Nat) (s : State) : Out :=
  .next (s.command port fun s => s.setPort port { s.port port with subBusy := true })

/-- The submission is accepted or refused, once what it reads of flash is in the staging cache (R77, R266, R356). -/
def execLaunchAccept (port : Nat) (s : State) : Out :=
  .next <|
    let p := s.port port
    if !p.subBusy then s
    else
      let miss := s.submissionMiss port
      if !miss.isEmpty then s.wantFlash miss else
      let (v, s) := match p.desc?.bind fun x => (s.virtRead? x.1 x.2 128).map fun d => (x.1, d) with
        | some (ten, d) => s.submitLaunch ten d none 0
        | none => (.ofNat 64 (2 ^ 32), s)
      s.setPort port { s.port port with subBusy := false, subres := v }

/-! ## Fault records (R282, R283) -/

def FRec.bytes (r : FRec) (seq : Nat) : List Byte :=
  let f := r.flt
  bytesOf 8 seq ++ bytesOf 1 f.code ++ bytesOf 1 r.flags ++ bytesOf 1 r.gslot ++ bytesOf 1 r.gid ++ bytesOf 2 f.lane ++
    bytesOf 2 r.col ++ bytesOf 8 r.pc.toNat ++ bytesOf 8 f.addr.toNat ++ bytesOf 4 r.launch ++ bytesOf 4 r.team ++
    bytesOf 4 f.info32 ++ bytesOf 4 r.gen ++ bytesOf 8 f.info64.toNat ++ bytesOf 8 0

/-- The queue's header: HEAD, TAIL, CAP, and whether it is in order and writable (R282). -/
def State.queueHeader (s : State) (ten : Nat) (a : Word) : Option (Nat × Nat × Nat) :=
  match s.walk ten a.toNat with
  | .leaf e =>
    if a.toNat / 2 ^ 48 != 0 || a.toNat % 64 != 0 || pteTen e != ten || pteRO e || pteF e then none
    else
      let l := leafLoc e a.toNat
      let cap := s.rdN (l.plus 16) 4
      if (List.range 17).any (fun k => cap == 2 ^ (4 + k)) && s.rdN (l.plus 20) 44 == 0 then some (s.rdN l 8, s.rdN (l.plus 8) 8, cap) else none
  | _ => none

/-- The stop's group learns the SEQ of its latest record (R286). -/
def State.noteSeq (s : State) (r : FRec) (seq : Nat) : State :=
  match r.grp with
  | some gi => let g := s.grpAt gi; if g.stopped then s.setGrpAt gi { g with seq := some seq } else s
  | none => s

/-- A record with the LAUNCHID its launch is known by (log entry 62). -/
def State.shown (s : State) (r : FRec) : FRec := { r with launch := s.launchNo r.ten r.launch }

/-- Sends a record to the tenant's host queue; `undeliverable` marks one its launch's queue refused. -/
def State.postHost (s : State) (r : FRec) (undeliverable : Bool) : State :=
  let n := ((s.tenantOf? r.ten).map (·.hostSeq)).getD 0
  let s := match s.tenantOf? r.ten with
    | some t => s.setTenant { t with hostSeq := n + 1 }
    | none => s
  ({ s with hostq := (r.ten, n, undeliverable, s.shown r) :: s.hostq, told := .faultSignal r.ten :: s.told }).noteSeq r n

/-- A split of a record's group is inside an instruction it has issued: the stop is whole once that has completed (R280). -/
def State.unsettled (s : State) (r : FRec) : Bool := r.grp.any fun gi =>
  let g := s.grpAt gi
  g.stopped && ((g.s0.midway && g.s0.fault.isNone) || (g.s1.midway && g.s1.fault.isNone))

/-- The k-th waiting record is posted, unless its queue is full (R282), or its group still completes an instruction, so that no
command answers the stop before (R280, R286; log entry 88). Records of one launch go in order. -/
def execFaultRecordPost (k : Nat) (s : State) : Out :=
  .next <| match s.posts[k]? with
  | none => s
  | some r =>
    let q := (s.launchOf r.ten r.launch).faultq
    let out : State := { s with posts := s.posts.eraseIdx k }
    if ((s.posts.take k).any fun x => x.ten == r.ten && x.launch == r.launch) || s.unsettled r then s
    else if q = 0 then out.postHost r false
    else match s.queueHeader r.ten q with
      | none => out.postHost r true
      | some (h, t, cap) =>
        if cap ≤ (t + 2 ^ 64 - h) % 2 ^ 64 then s
        else
          let s := out.virtWrite r.ten none (q.toNat + 64 + 64 * (t % cap)) 64 (leNat ((s.shown r).bytes t))
          let s := s.virtWrite r.ten none (q.toNat + 8) 8 ((t + 1) % 2 ^ 64)
          ({ s with told := .faultSignal r.ten :: s.told }).noteSeq r t

/-- The write of GO by the port that wrote the block (R285, R286); a GO of the other comes as its control register write. -/
def execGroupControlGo (s : State) : Out := .next (s.command s.gctl.port State.groupControl)

end Sys2Proof.Machine
end

