-- ==== Sys2Proof/Machine/Hash.lean ====
section
/-!
DEFINITION. SHA-256 (FIPS 180-4) and LMS (RFC 8554) with the parameter sets the manual names, for firmware and attestation
(R11, R349 to R351). Byte strings are as the standards write them: numbers are big-endian.
-/
namespace Sys2Proof.Machine

/-- A number in `n` bytes, big-endian, and back. -/
def beBytes (n v : Nat) : List Byte := (List.range n).map fun k => .ofNat 8 (v / 256 ^ (n - 1 - k))
def beNat (bs : List Byte) : Nat := bs.foldl (fun a b => 256 * a + b.toNat) 0

/-! ## SHA-256 -/

/-- The primes below 312, of which there are 64. -/
def primes : List Nat := (List.range 312).filter fun n => 2 ≤ n && (List.range n).all fun d => d < 2 || n % d != 0

/-- The greatest number below `2 ^ bits` whose `k`-th power is at most `n`, bit by bit from the top. -/
def rootOf (k n : Nat) : Nat → Nat → Nat
  | 0, r => r
  | bits + 1, r => rootOf k n bits (if (r + 2 ^ bits) ^ k ≤ n then r + 2 ^ bits else r)

/-- The first 32 bits of the fraction of a prime's `k`-th root. -/
def rootFraction (k p : Nat) : BitVec 32 := .ofNat 32 (rootOf k (p * 2 ^ (32 * k)) 40 0)

/-- The rounds' constants: fractions of the cube roots of the first 64 primes. -/
def shaRoundWords : List (BitVec 32) := primes.map (rootFraction 3)

/-- The chaining value before the first block: fractions of the square roots of the first eight primes. -/
def shaStart : List (BitVec 32) := (primes.take 8).map (rootFraction 2)

/-- The exclusive or of a word turned right by each of three amounts. -/
def turned (w : BitVec 32) (i j k : Nat) : BitVec 32 := w.rotateRight i ^^^ w.rotateRight j ^^^ w.rotateRight k

/-- Where two words agree, their bit; elsewhere the third's. -/
def majority (x y z : BitVec 32) : BitVec 32 := (x &&& y) ||| ((x ||| y) &&& z)
/-- Bit by bit, the second word's bit where the first is set, else the third's. -/
def choose (x y z : BitVec 32) : BitVec 32 := z ^^^ (x &&& (y ^^^ z))

/-- One round on the chaining value's eight words, with the round's constant plus its schedule word: every word moves one
place on, two of them renewed. -/
def shaRound (v : List (BitVec 32)) (kw : BitVec 32) : List (BitVec 32) :=
  match v with
  | [a, b, c, d, e, f, g, h] =>
    let t := h + turned e 6 11 25 + choose e f g + kw
    [t + turned a 2 13 22 + majority a b c, a, b, c, d + t, e, f, g]
  | _ => v

/-- The message schedule as a window: word `t` is made of words `t - 16`, `t - 15`, `t - 7` and `t - 2`; `n` words are
handed out, oldest first, as the window moves. -/
def shaSchedule : Nat → List (BitVec 32) → List (BitVec 32)
  | n + 1, w :: rest =>
    let x := rest.getD 0 0
    let y := rest.getD 13 0
    let low := x.rotateRight 7 ^^^ x.rotateRight 18 ^^^ x >>> 3
    let high := y.rotateRight 17 ^^^ y.rotateRight 19 ^^^ y >>> 10
    w :: shaSchedule n (rest ++ [w + low + rest.getD 8 0 + high])
  | _, _ => []

/-- One 64-byte block folded into the chaining value. -/
def shaBlock (v : List (BitVec 32)) (blk : List Byte) : List (BitVec 32) :=
  let first := (List.range 16).map fun k => BitVec.ofNat 32 (beNat ((blk.drop (4 * k)).take 4))
  let after := (List.zipWith (· + ·) shaRoundWords (shaSchedule 64 first)).foldl shaRound v
  List.zipWith (· + ·) v after

def shaBlocks : Nat → List (BitVec 32) → List Byte → List (BitVec 32)
  | 0, v, _ => v
  | n + 1, v, bs => shaBlocks n (shaBlock v (bs.take 64)) (bs.drop 64)

def sha256 (m : List Byte) : List Byte :=
  let fill := (119 - m.length % 64) % 64
  let p := m ++ 0x80#8 :: List.replicate fill 0 ++ beBytes 8 (8 * m.length)
  (shaBlocks (p.length / 64) shaStart p).flatMap fun w => beBytes 4 w.toNat

/-! ## LM-OTS: LMOTS_SHA256_N32_W4, 67 chains of 15 steps -/

/-- The hash of a key's identifier, a 32-bit and a 16-bit number, and more. -/
def lmsHash (id : List Byte) (q d : Nat) (rest : List Byte) : List Byte := sha256 (id ++ beBytes 4 q ++ beBytes 2 d ++ rest)

/-- Digit `k` of a byte string, four bits each, high half first. -/
def digit4 (bs : List Byte) (k : Nat) : Nat :=
  let b := (bs.getD (k / 2) 0).toNat
  if k % 2 = 0 then b / 16 else b % 16

/-- The digest of a message with its checksum. -/
def lmotsDigest (id : List Byte) (q : Nat) (c msg : List Byte) : List Byte :=
  let d := lmsHash id q 0x8181 (c ++ msg)
  d ++ beBytes 2 (16 * ((List.range 64).foldl (fun n k => n + (15 - digit4 d k)) 0))

/-- `n` steps of chain `k` from step `j`. -/
def lmotsChain (id : List Byte) (q k : Nat) : Nat → Nat → List Byte → List Byte
  | 0, _, x => x
  | n + 1, j, x => lmotsChain id q k n (j + 1) (lmsHash id q k (beBytes 1 j ++ x))

def lmotsKey (id : List Byte) (q : Nat) (zs : List (List Byte)) : List Byte := lmsHash id q 0x8080 zs.flatten

/-! ## LMS -/

/-- From a node up to the root along the path. -/
def lmsClimb (id : List Byte) : Nat → List Byte → List (List Byte) → List Byte
  | _, x, [] => x
  | node, x, p :: r => lmsClimb id (node / 2) (lmsHash id (node / 2) 0x8383 (if node % 2 = 1 then p ++ x else x ++ p)) r

/-- The `n` pieces of 32 bytes at the head of a string. -/
def pieces32 (n : Nat) (bs : List Byte) : List (List Byte) := (List.range n).map fun k => (bs.drop (32 * k)).take 32

/-- A signature verifies under a public key, for an LMS type code and its tree's height (RFC 8554, algorithms 4b and 6a). -/
def lmsVerify (typ height : Nat) (key sig msg : List Byte) : Bool :=
  let id := (key.drop 8).take 16
  let q := beNat (sig.take 4)
  let c := (sig.drop 8).take 32
  let dig := lmotsDigest id q c msg
  let zs := (pieces32 67 (sig.drop 40)).zipIdx.map fun p => lmotsChain id q p.2 (15 - digit4 dig p.2) (digit4 dig p.2) p.1
  let leaf := lmsHash id (2 ^ height + q) 0x8282 (lmotsKey id q zs)
  key.length == 56 && beNat (key.take 4) == typ && beNat ((key.drop 4).take 4) == 3 &&
    sig.length == 2188 + 32 * height && beNat ((sig.drop 4).take 4) == 3 && beNat ((sig.drop 2184).take 4) == typ && q < 2 ^ height &&
    lmsClimb id (2 ^ height + q) leaf (pieces32 height (sig.drop 2188)) == key.drop 24

/-- LMS_SHA256_M32_H10, under which firmware is signed (R349). -/
def fwVerify (key sig msg : List Byte) : Bool := lmsVerify 6 10 key sig msg

/-! ## The device's attestation key (R351): LMS_SHA256_M32_H15; its secrets are the part's (log entry 8) -/

def attId : List Byte := beBytes 16 Config.attId.toNat
def attSecret (q k : Nat) : List Byte := beBytes 32 (Config.attSecret q k).toNat
/-- Leaf `q`'s one-time public key, and a node's value, `n` levels above the leaves. -/
def attLeaf (q : Nat) : List Byte := lmotsKey attId q ((List.range 67).map fun k => lmotsChain attId q k 15 0 (attSecret q k))
def attNode : Nat → Nat → List Byte
  | 0, r => lmsHash attId r 0x8282 (attLeaf (r - 2 ^ 15))
  | n + 1, r => lmsHash attId r 0x8383 (attNode n (2 * r) ++ attNode n (2 * r + 1))

/-- The signature of a message with leaf `q`: 2,668 bytes. -/
def attSign (q : Nat) (msg : List Byte) : List Byte :=
  let c := beBytes 32 (Config.attNonce q).toNat
  let dig := lmotsDigest attId q c msg
  beBytes 4 q ++ beBytes 4 3 ++ c ++ ((List.range 67).flatMap fun k => lmotsChain attId q k (digit4 dig k) 0 (attSecret q k)) ++ beBytes 4 7 ++
    (List.range 15).flatMap fun i => attNode i ((2 ^ 15 + q) / 2 ^ i ^^^ 1)

/-- The fused hash of the firmware key (R350). -/
def fusedKeyHash : List Byte := beBytes 32 Config.fusedKeyHash.toNat

end Sys2Proof.Machine
end

