-- ==== Sys2Proof/Machine/EvRecovery.lean ====
section
/-!
DEFINITION. Events of checkpoints, rollback and Bivouac (R83 to R86, R303 to R314, R353). An event whose
condition does not hold changes nothing.
-/
namespace Sys2Proof.Machine

/-! ## CRC-32C (R308) -/

def crcBits : Nat → BitVec 32 → BitVec 32
  | 0, c => c
  | n + 1, c => crcBits n (if c.getLsbD 0 then (c >>> 1) ^^^ 0x82F63B78#32 else c >>> 1)
def crc32c (bs : List Byte) : Nat :=
  (~~~(bs.foldl (fun c b => crcBits 8 (c ^^^ b.setWidth 32)) 0xFFFFFFFF#32)).toNat

/-! ## Control writes need the semaphore (R345) -/

/-- A control write of a port, behind the writes the port made before it (R343): dropped and counted where the port does not own
the semaphore. -/
def State.control (s : State) (port : Nat) (k : State → State) : State :=
  if !s.portOk port then s
  else
    let s := s.posted port
    if s.ctlsem = port + 1 then k s else s.reject port
/-- A control write the device takes only while it runs (R348, R350). -/
def State.controlRun (s : State) (port : Nat) (k : State → State) : State :=
  s.control port fun s =>
    if s.boot.brstate = 5 then k s else s.reject port

/-! ## Checkpoint areas, manifests, commit records (R304, R308) -/

def execCheckpointAreaSet (port ten : Nat) (job : Nat) (base slotSize undo : Nat) (s : State) : Out :=
  .next <| s.controlRun port fun s =>
    let id : Word := .ofNat 64 job
    let s := if (s.rjob? ten id).isSome then s else { s with rjobs := s.rjobs ++ [RJob.start ten id] }
    match s.rjob? ten id with
    | none => s
    | some j =>
      if undo < 1024 || 2 ^ 32 < undo then s
      else s.setRJob { j with hasArea := true, area := base, slotSize, undoCap := undo }

/-- The descriptor's fields of a launch as they stand (R264, R308). -/
def Launch.desc (l : Launch) : List Byte :=
  let fields : List (Nat × Nat) := [(8, l.code.toNat), (8, l.const.toNat), (4, l.nteams), (4, l.scratch), (2, l.vregs), (1, l.groups),
    (1, Nat.log2 (l.width / 16)), (1, l.barriers), (1, l.prio + l.span.toNat * 4 + l.ctl.toNat * 8), (1, l.heat), (1, 0), (8, l.graph.toNat),
    (8, l.phase.toNat), (8, l.job.toNat), (8, l.faultq.toNat), (8, l.frame.toNat), (4, l.fstride), (4, 0), (8, l.done.toNat), (8, l.rqbase.toNat),
    (4, l.rqcap), (28, 0)]
  fields.flatMap fun p => bytesOf p.1 p.2

/-- An undispatched record's bytes, as pushed (R269). -/
def Item.recordBytes (i : Item) : List Byte := match i.work with
  | .record bs _ => bytesOf 32 bs
  | .image _ => []

def launchBlock (l : Launch) (items : List Item) : List Byte :=
  l.desc ++ (List.range 256).flatMap (fun k => bytesOf 8 (Map.get 0 l.bank k).toNat) ++ bytesOf 8 l.next ++
    (items.filter fun i => i.ten == l.ten && i.launch == l.id).flatMap Item.recordBytes

/-- The blocks of a checkpoint: identifiers of each, and its bytes; images first (log entry 7). -/
def Ckpt.blocks (c : Ckpt) : List (Nat × Nat × Nat × List Byte) :=
  (c.allImages.zipIdx.map fun p => (p.1.team.id, p.1.team.launch, (if p.2 < c.images.length then 0 else 1), Config.imageBytes c.gen p.2)) ++
    c.launches.map fun l => (l.completed, l.id, l.cancelled.toNat * 2, launchBlock l c.items)

/-- The entries of a manifest, the first block starting at `off`. -/
def manifestEntries : Nat → List (Nat × Nat × Nat × List Byte) → List Byte
  | _, [] => []
  | off, (id, la, fl, bs) :: r =>
    bytesOf 8 off ++ bytesOf 8 bs.length ++ bytesOf 4 id ++ bytesOf 4 la ++ bytesOf 4 (crc32c bs) ++ bytesOf 4 fl ++ manifestEntries (off + bs.length) r

/-- Manifest and blocks of a slot, and its commit record (R308). -/
def Ckpt.slotBytes (c : Ckpt) (job : Word) (man : Nat) : List Byte × List Byte :=
  let bl := c.blocks
  let es := manifestEntries (64 + 32 * bl.length) bl
  let h := bytesOf 8 c.gen ++ bytesOf 8 job.toNat ++ bytesOf 4 (bl.length - c.launches.length) ++ bytesOf 4 c.launches.length ++ bytesOf 16 0 ++ bytesOf 4 (crc32c es)
  let hcrc := crc32c h
  let cr := bytesOf 8 c.gen ++ bytesOf 8 man ++ bytesOf 4 hcrc
  (h ++ bytesOf 4 hcrc ++ bytesOf 16 0 ++ es ++ bl.flatMap fun b => b.2.2.2, cr ++ bytesOf 4 (crc32c cr) ++ bytesOf 40 0)

/-- The teams of a job resume where they stopped, each as a restore in place (R307 step 5). -/
def State.resumeJob (s : State) (ten : Nat) (job : Word) : State :=
  (s.jobTeams ten job).foldl (fun (s : State) t =>
    let t := s.teamOf t.uid
    if !t.stopped || 512 ≤ t.col then s.setTeam { t with requests := t.requests.filter (· != .checkpoint) }
    else
      let s := s.setTeam { t with stopped := false, requests := t.requests.filter (· != .checkpoint) }
      (s.groupsOf t.uid).foldl (fun (s : State) g => s.restoreGroup g (s.grpAt g).slot) s) s

/-- A checkpoint that ends unsealed: the generation number is spent, the registers stand (R307). An entry checkpoint leaves
its job to be rolled back at exit (R84, R313). -/
def State.abandonCkpt (s : State) (j : RJob) : State :=
  match j.progress with
  | none => s
  | some c =>
    s.setRJob { j with gen := c.gen + 1, highest := max j.highest (c.gen + 1), state := 2, last := c.gen, progress := none, rolling := c.entry }

/-- The launches of a job, complete ones too. -/
def State.jobLaunches (s : State) (ten : Nat) (job : Word) : List Launch := s.launches.filter fun l => l.ten == ten && l.job == job
/-- A tenant's launch is of a job. -/
def State.ofJob (s : State) (ten : Nat) (job : Word) (launch : Nat) : Bool := (s.launchOf ten launch).job == job

/-- What a checkpoint holds beside the resident teams' images and what peers have sent: the launches that are not complete or are cancelled, their
undispatched records, suspended images and joins (R273, R307, R308). -/
def State.gather (s : State) (ten : Nat) (job : Word) (c : Ckpt) : Ckpt :=
  let ls := s.jobLaunches ten job
  { c with
    items := c.items ++ (s.items.filter fun i => i.ten == ten && s.ofJob ten job i.launch).map (Item.mapImage s.imageNow)
    launches := ls.filter fun l => !l.complete || l.cancelled
    known := ls.map fun (l : Launch) => l.id
    joins := s.joinWaits.filter fun j => j.ten == ten && s.ofJob ten job j.launch }

/-- Manifest, blocks and commit record go to a checkpoint's slot; of a job with no area, to the tenant's image area, where nothing
else stands. A tenant with neither has nothing written (R308, R313; log entry 67). -/
def State.writeCkpt (s : State) (ten : Nat) (j : RJob) (c : Ckpt) : Ckpt × State :=
  let man := c.slot * j.slotSize
  let (bs, cr) := c.slotBytes j.id man
  if j.hasArea then (c, (s.putArea (j.area + man) bs).putArea (j.area + man + j.slotSize - 64) cr)
  else match s.tenantOf? ten with
    | some t =>
      let p := freePlace t.imageArea c.len (s.areaTaken ten)
      if t.imageArea = 0 then (c, s) else ({ c with place := some p }, s.putArea p (bs ++ cr))
    | none => (c, s)

/-- The bytes a checkpoint's slot takes, its images' contents counted at the least. -/
def Ckpt.bytes (c : Ckpt) (job : Word) (man : Nat) : Nat :=
  max (c.slotBytes job man).1.length (c.allImages.foldl (fun n (i : Image) => n + i.size) 0) + 64

/-- What goes with an item to another module. -/
def State.carried (s : State) (i : Item) : Carried := ⟨i.prio, i.passes, i.aged, s.clock - i.pushTime, s.clock - i.queuedAt⟩
/-- A peer's answer to the module whose job it is: the images and records it holds (R307). -/
def State.sendSaved (s : State) (peer : Nat) (job : Word) (c : Ckpt) : State :=
  s.tell peer (.saved job (c.images.map s.sentImage) ((c.items.filterMap Item.image?).map s.sentImage) (c.items.filterMap fun i => match i.work with
    | .record bs team => some (s.launchNo i.ten i.launch, bs, team, s.carried i)
    | .image _ => none))
/-- Peers that were asked for a checkpoint are told of its end. -/
def State.endAtPeers (s : State) (job : Word) (c : Ckpt) : State := c.peers.foldl (fun s p => s.tell p (.resume job)) s

/-- Step 3 of R307, once every team of the job is stopped, and every peer that holds work of it has sent what it saved: manifest and
commit record, or abandonment where the slot is too small. A peer's job is saved at the peer (log entry 62). -/
def execCheckpointCommitWrite (ten job : Nat) (s : State) : Out :=
  .next <|
    let id : Word := .ofNat 64 job
    match s.rjob? ten id with
    | none => s
    | some j => match j.progress with
      | none => s
      | some c =>
        if c.committed || (s.jobTeams ten id).any (fun t => !t.stopped) || !c.waiting.isEmpty then s
        else
          let c := s.gather ten id c
          let s := c.asker.elim s fun p => s.sendSaved p id c
          if c.asker.isSome && !c.entry then s.setRJob { j with progress := some { c with committed := true } }
          else
            let n := c.bytes id (c.slot * j.slotSize)
            if j.hasArea && j.slotSize < n then
              let s := s.abandonCkpt j
              if c.entry then s else (s.resumeJob ten id).endAtPeers id c
            else
              let (c, s) := s.writeCkpt ten j { c with asker := none, len := n }
              s.setRJob { j with progress := some { c with committed := true } }

/-- Step 4 of R307: the recovery-point registers, GEN and the undo log together. -/
def RJob.seal (j : RJob) (c : Ckpt) : RJob :=
  { j with
    rpprev := if j.hasArea then j.rpgen else j.rpprev
    rpprevman := if j.hasArea then j.rpman else j.rpprevman
    rpgen := if j.hasArea then c.gen else j.rpgen
    rpman := if j.hasArea then c.slot * j.slotSize else j.rpman
    gen := c.gen + 1, highest := max j.highest (c.gen + 1), norb := false, state := 0, last := c.gen, progress := none
    undo := j.undo.filter fun u => j.rpgen < u.gen
    sealed := c :: j.sealed.filter fun x => x.gen == j.rpgen }

/-- Steps 4 and 5 of R307; Bivouac's entry checkpoint leaves the teams stopped. -/
def execCheckpointSeal (ten job : Nat) (s : State) : Out :=
  .next <|
    let id : Word := .ofNat 64 job
    match s.rjob? ten id with
    | none => s
    | some j => match j.progress with
      | none => s
      | some c =>
        if !c.committed || (c.asker.isSome && !c.entry) then s
        else
          let s := (s.setRJob (j.seal c)).gcDirs
          if c.entry then s else (s.resumeJob ten id).endAtPeers id c

/-! ## Rollback (R311, R312) -/

/-- Every block a manifest lists matches its CRC. -/
def State.blocksGood (s : State) (base : Nat) : Nat → List Byte → Bool
  | 0, _ => true
  | n + 1, es => crc32c (s.getArea (base + field es 0 8) (field es 8 8)) == field es 24 4 && s.blocksGood base n (es.drop 32)

/-- A generation in the area passes the checks of R311. -/
def State.genGood (s : State) (j : RJob) (g man : Nat) : Bool :=
  let base := j.area + man
  let h := s.getArea base 64
  let n := field h 16 4 + field h 20 4
  let es := s.getArea (base + 64) (32 * n)
  let cr := s.getArea (base + j.slotSize - 64) 64
  crc32c (cr.take 20) == field cr 20 4 && field cr 0 8 == g && field h 0 8 == g && field cr 16 4 == field h 44 4 &&
    crc32c (h.take 44) == field h 44 4 && crc32c es == field h 40 4 && s.blocksGood base n es

/-- The generation a restore takes: RPGEN if good, else RPPREV (R311). -/
def State.chooseGen (s : State) (j : RJob) : Option Nat :=
  if j.norb then none
  else if j.rpgen != 0 && s.genGood j j.rpgen j.rpman then some j.rpgen
  else if j.rpprev != 0 && s.genGood j j.rpprev j.rpprevman then some j.rpprev
  else none

/-- Undo entries above a generation, newest first, written back, directories kept exact (R111, R310, R312). -/
def State.undoAbove (s : State) (g : Nat) (us : List Undo) : State :=
  (us.filter (g < ·.gen)).foldl (fun (s : State) u => (s.wrN ⟨.mem false true, 64 * u.line⟩ 64 u.old).keepDirs [⟨.mem true true, 64 * u.line⟩]) s

/-- A job's teams stop at their next boundary, at every peer that holds work of it too, and their state is to be discarded (R312
step 1). A checkpoint in progress ends unsealed. -/
def State.contain (s : State) (ten : Nat) (job : Word) : State :=
  match s.rjob? ten job with
  | none => s
  | some j =>
    let ps := s.jobPeers ten job
    let s := s.setRJob { j with rolling := true, progress := none, containing := ps, state := if j.progress.isSome then 2 else j.state }
    let s := ps.foldl (fun s p => s.tell p (.contain job)) s
    (s.jobTeams ten job).foldl (fun (s : State) t => s.setTeam { s.teamOf t.uid with stopped := true, requests := [] }) s

/-- An install that ends where it stands: a committed one writes its record, another frees its region (R84). -/
def State.cutInstall (s : State) (i : Install) : State :=
  match i.committed, i.code with
  | true, some c => s.endInstall i c
  | _, _ =>
    let s : State := match s.region? i.region with
      | some r =>
        let s := s.abandonInstall i 0 r.stack
        if i.code.any untested then s else s.setRegion { r with installing := false }
      | none => s
    { s with installs := s.installs.filter (·.id != i.id) }

/-- What a column held of teams is gone: their accesses, queries and matrix operations, and what they await from peers. -/
def State.loseColumns (s : State) (uids : List Nat) : State :=
  let mine (g : Nat) : Bool := uids.contains (s.grpAt g).team
  ({ s with
    pend := s.pend.filter fun p => !mine p.grp, queries := s.queries.filter fun q => !mine q.grp
    columns := s.columns.map fun c => (c.1, { c.2 with ops := c.2.ops.filter fun o => !mine o.grp })
    remote := s.remote.filter fun x => !mine x.grp || match x.who with
      | .nobody | .piece .. | .jobRead _ => true
      | _ => false } : State).gcDirs

/-- The teams are lost where they stand: nothing of theirs is in flight any more, and no record of theirs waits. -/
def State.loseTeams (s : State) (uids : List Nat) : State :=
  let mine (g : Nat) : Bool := uids.contains (s.grpAt g).team
  let s : State := (s.installs.filter fun i => uids.contains i.team).foldl State.cutInstall (s.loseColumns uids)
  { s with
    jobs := s.jobs.filter fun j => !uids.contains j.team
    remote := s.remote.filter fun x => x.who == .nobody || !mine x.grp
    posts := s.posts.filter fun r => !r.grp.any mine }

/-- A job's teams and joins leave without joining anyone, and no launch of it completes by that (R312). -/
def State.discardTeams (s : State) (ten : Nat) (job : Word) : State :=
  let s := s.loseTeams ((s.jobTeams ten job).map (·.uid))
  let s : State := { s with
    joinWaits := s.joinWaits.filter fun j => !(j.ten == ten && s.ofJob ten job j.launch)
    away := s.away.filter fun p => !(p.2.ten == ten && s.ofJob ten job p.2.launch) }
  let held : State := { s with launches := s.launches.map fun l => if l.ten = ten ∧ l.job = job then { l with complete := true } else l }
  { (s.jobTeams ten job).foldl (fun (s : State) t => s.killTeam t.uid false) held with launches := s.launches }

/-- An image enters as a suspended team under a new number: its groups, commands, matrix operations, installs and records with it,
in their old order (R295). An install whose region is busy with another, or not its tenant's here, ends with R80's code for that:
R80 does not say what it does (log entry 70). The item is as given, its work and number apart. -/
def State.adoptImage (s : State) (i : Image) (item : Item) : State :=
  let uid := s.nextId
  let n := s.groups.length
  let ids := i.jobs.map (·.id) ++ i.ops.map (·.id) ++ i.installs.map (·.id)
  let no (x : Nat) : Nat := uid + 2 + (ids.filter (· < x)).length
  let t := { i.team with uid, stopped := true, ended := false, col := 0xFFFF, requests := [] }
  let ops := i.ops.map fun o => { o with id := no o.id }
  let ins := i.installs.map fun x =>
    let busy := match s.region? x.region with
      | some r => if r.ten != i.team.ten then some 6 else if r.installing then some 5 else none
      | none => some 6
    { x with id := no x.id, grp := n + x.grp, team := uid, issuedAt := s.clock, code := x.code.orElse fun _ => busy }
  { s with
    nextId := uid + 2 + ids.length
    teams := s.teams ++ [t]
    groups := s.groups ++ i.groups.map fun g => { g with team := uid, saved := g.stopped, syncs := [], fences := [] }
    jobs := s.jobs ++ i.jobs.map fun j => { j with id := no j.id, team := uid, grp := n + j.grp, stale := true }
    installs := s.installs ++ ins
    regions := s.regions.map fun r => if ins.any fun x => x.code.isNone && x.region == r.n then { r with installing := true } else r
    posts := s.posts ++ i.records.map fun r => { r with grp := r.grp.map (n + ·) }
    items := s.items ++ [{ item with id := uid + 1, work := .image { i with team := t, jobs := [], ops, installs := [], records := [], place := none } }] }

/-- A checkpoint's image comes back (R312). -/
def State.requeueImage (s : State) (i : Image) : State :=
  let n := s.groups.length
  let gi (g : Nat) : Nat := n + i.groups.findIdx fun x => x.gid == (s.grpAt g).gid
  ({ s with
    joinWaits := s.joinWaits.map fun j => { j with who := j.who.map fun w => if (s.grpAt w.1).team = i.team.uid then (gi w.1, w.2) else w } } : State).adoptImage i
    { id := 0, die := s.liveDie (dieOf i.team.col % 8), ten := i.team.ten, launch := i.team.launch, prio := i.team.prio, pushTime := i.team.pushTime
      queuedAt := s.clock, aged := 0, passes := 64, work := .image i }

/-- Steps 4 and 5 of R312 from a checkpoint's contents. -/
def State.restoreJob (s : State) (ten : Nat) (job : Word) (c : Ckpt) : State :=
  let s : State := { s with
    items := (s.items.filter fun i => !(i.ten == ten && s.ofJob ten job i.launch)) ++ c.items.filter Item.isRecord
    launches := (s.launches.filter fun l => !(l.ten == ten && l.job == job) || (c.known.contains l.id && c.launches.all (·.id != l.id))) ++ c.launches
    joinWaits := s.joinWaits ++ c.joins }
  c.allImages.foldl (fun (s : State) i => if (s.launchOf ten i.team.launch).cancelled then s else s.requeueImage i) s

/-- A job no generation of which can be restored: its launches end as cancelled, the host is told (R311). -/
def State.loseJob (s : State) (ten : Nat) (job : Word) : State :=
  let s := ((s.jobLaunches ten job).filter (!·.complete)).foldl (fun (s : State) l => s.cancelLaunch ten l.id) s
  { s with told := .jobLost ten job :: s.told }

/-- The rollback of a job whose teams are gone; its GEN advances only where a generation is restored (R305, R312). -/
def State.rollback (s : State) (ten : Nat) (job : Word) : State :=
  match s.rjob? ten job with
  | none => s
  | some j =>
    let j := { j with rolling := false, progress := none }
    match (s.chooseGen j).bind fun g => j.sealed.find? (·.gen == g) with
    | none => (s.setRJob j).loseJob ten job
    | some c =>
      ((s.undoAbove c.gen j.undo).setRJob { j with
        gen := j.highest + 1
        highest := j.highest + 1
        rpgen := c.gen
        rpman := if c.gen = j.rpprev then j.rpprevman else j.rpman
        rpprev := if c.gen = j.rpprev then 0 else j.rpprev
        undo := j.undo.filter (·.gen ≤ c.gen)
        sealed := j.sealed.filter (·.gen ≤ c.gen) }).restoreJob ten job c

def execContainmentCommand (c : PortTenant) (job : Nat) (s : State) : Out := .next (s.controlRun c.port fun s => s.contain c.ten (.ofNat 64 job))

/-- The engine commands of stopped teams are complete, but those that wait on a guard, and so are their stores. -/
def State.commandsDone (s : State) (uids : List Nat) : Bool :=
  !(s.jobs.any (fun j => uids.contains j.team && !j.idle && !s.behindGuard j.grp j.id) ||
    s.installs.any (fun i => uids.contains i.team && !s.behindGuard i.grp i.id) ||
    s.pend.any fun p => uids.contains (s.grpAt p.grp).team && p.acc.writes && p.open)

/-- A launch here is of a peer's job. -/
def State.guestOf (s : State) (peer ten : Nat) (job : Word) (t launch : Nat) : Bool :=
  t == ten && s.ofJob ten job launch && (s.launchOf ten launch).guest.any (·.1 == peer)

/-- The job is rolled back at its module: its work here, stopped and with its commands complete, is gone, and the module learns of it. -/
def State.peerDiscard (s : State) (peer ten : Nat) (job : Word) : State :=
  let mine := s.guestOf peer ten job
  let uids := (s.teams.filter fun t => !t.ended && mine t.ten t.launch).map (·.uid)
  let t := s.loseTeams uids
  let t : State := { t with
    items := t.items.filter fun i => !mine i.ten i.launch
    arrivals := t.arrivals.filter fun p => !mine p.2.ten p.2.launch
    joinWaits := t.joinWaits.filter fun j => !mine j.ten j.launch }
  let t := uids.foldl (fun (s : State) u => s.killTeam u false) t
  (match t.rjob? ten job with
  | some j => t.setRJob { j with container := none }
  | none => t).tell peer (.contained job)

/-- Steps 2 to 5, once the engine commands of the stopped teams are complete, at every peer that holds work of the job too (R312); at
such a peer its work of the job goes then. In Bivouac it waits for the exit. -/
def execRollbackRestore (ten job : Nat) (s : State) : Out :=
  .next <|
    let id : Word := .ofNat 64 job
    match s.rjob? ten id with
    | none => s
    | some j =>
      if s.biv.phase != 0 then s
      else match j.container with
      | some p => if s.commandsDone ((s.teams.filter fun t => !t.ended && s.guestOf p ten id t.ten t.launch).map (·.uid)) then s.peerDiscard p ten id else s
      | none =>
        if !j.rolling || !j.containing.isEmpty || !s.commandsDone ((s.jobTeams ten id).map (·.uid)) then s
        else (s.discardTeams ten id).rollback ten id

/-! ## Shadow-latch replay (R303) -/

def execShadowLatchReplay (col : Nat) (s : State) : Out :=
  .next (let c := s.col col
    s.setCol col { c with replays := c.replays + 1, extra := c.extra + 1 })

/-! ## Bivouac (R83 to R86, R353, R354) -/

/-- Entry begins: no dispatch, every team asked, every job's checkpoint an entry checkpoint (R83, R313). -/
def State.enterBiv (s : State) : State :=
  if s.biv.phase != 0 then s
  else
    let s : State := { s with biv := { s.biv with phase := 1, bvack := false } }
    let s : State := s.rjobs.foldl (fun (s : State) j => s.startCkpt j.ten j.id true) s
    s.teams.foldl (fun (s : State) t => if t.ended || 512 ≤ t.col then s else s.ask t.uid .bivouac) s

def execBivouacCommand (port : Nat) (s : State) : Out := .next (s.controlRun port State.enterBiv)

/-- PWRLOW: entry while running; else DRAM goes to self-refresh and BVACK is asserted (R83, R354). -/
def execPwrlow (s : State) : Out :=
  .next <|
    let s : State := { s with biv := { s.biv with pwrlow := true } }
    if s.boot.brstate = 5 then s.enterBiv else { s with biv := { s.biv with phase := 2, bvack := true } }

/-- Power-down: column memories, registers and translations are gone, fill-pending tags stay (R85). Commands that wait for a
guard stay with their teams' images; a peer's waiting access ends with 0x30. Reads through BAR 0 are the host's, like `inputs`, and stand
until a port is there to answer them (log entry 9). -/
def State.powerDown (s : State) : State :=
  let s : State := s.flushLines fun _ => true
  { s with
    biv := { s.biv with phase := 2, bvack := true }
    sram := [], tlb := [], pend := [], queries := [], debts := [], flashReads := [], filling := []
    jobs := s.jobs.filter fun j => j.idle || s.behindGuard j.grp j.id
    remote := s.remote.filter (·.who == .nobody)
    peerWaits := [], told := s.peerWaits.map (fun w => .remoteAnswer w.peer 0x30 0) ++ s.told
    columns := s.columns.map fun p => (p.1, { Column.empty with replays := p.2.replays, fenced := p.2.fenced, proofs := p.2.proofs, base := p.2.base, extra := p.2.extra }) }

/-- The image of a team in the entry checkpoint its job has sealed. -/
def State.sealedImage? (s : State) (t : Team) : Option Image :=
  ((s.rjob? t.ten (s.launchOf t.ten t.launch).job).bind fun j => j.sealed.head?.filter (·.entry)).bind fun c => c.images.find? (·.team.uid == t.uid)

/-- Every resident team of a job whose entry checkpoint is sealed is a suspended one from here: its image stands as the
checkpoint holds it, and no work of it is repeated (R83, R86). -/
def State.suspendAll (s : State) : State :=
  (s.teams.filter fun t => !t.ended && t.stopped && t.col < 512 &&
    !(s.rjob? t.ten (s.launchOf t.ten t.launch).job).any (·.rolling)).foldl (fun (s : State) t => s.suspend t.uid (dieOf t.col) none (s.sealedImage? t)) s

/-- Nothing that entry waits for is under way (R83): accesses, commands and installs of every team, ended ones too, but those
behind guards, transactions to peers, joins, a port's reads of flash and submissions. -/
def State.entryQuiet (s : State) : Bool :=
  s.pend.isEmpty && s.queries.isEmpty && s.jobs.all (fun j => j.idle || s.behindGuard j.grp j.id) &&
    s.installs.all (fun i => s.behindGuard i.grp i.id) && s.columns.all (fun c => c.2.ops.all fun o => s.behindGuard o.grp o.id) &&
    s.remote.isEmpty && s.flashReads.isEmpty && s.joinWaits.all (fun j => j.pushing || j.page.isSome) && !(s.port 0).subBusy && !(s.port 1).subBusy

/-- Steps 3 and 4 of R83, once every job's entry checkpoint is sealed or abandoned and nothing is under way. -/
def execBivouacEntryComplete (s : State) : Out :=
  .next <|
    if s.biv.phase != 1 || s.rjobs.any (·.progress.isSome) || !s.entryQuiet || s.teams.any (fun t => !t.ended && t.col < 512 && !t.stopped) then s
    else s.suspendAll.powerDown

/-- The entry budget runs out (R84): a job whose entry checkpoint has no commit record is to be rolled back, and its teams'
state is gone. -/
def execBivouacBudgetExpiry (s : State) : Out :=
  .next <|
    if s.biv.phase != 1 then s
    else
      let s : State := s.rjobs.foldl (fun (s : State) j => match s.rjob? j.ten j.id with
        | some j => match j.progress with
          | some c => if c.committed then s.setRJob (j.seal c) else s.abandonCkpt { j with progress := some { c with entry := true } }
          | none => s
        | none => s) s
      let s : State := (s.installs.filter fun i => !s.behindGuard i.grp i.id).foldl State.cutInstall s
      s.suspendAll.powerDown

/-- Exit's step 2 and 3: each job restored from its sealed entry checkpoint, which its suspended teams are, or rolled back; GEN
advanced, CYCLE from zero, bands and classes afresh, what was queued on a failed die on one that passes (R86, R313, R353). -/
def State.exitBiv (s : State) : State :=
  let s : State := { s with
    biv := { s.biv with phase := 0, bvack := false, pwrlow := false }
    ctlsem := 0
    columns := (List.range 512).map fun c => (c, { s.col c with base := s.clock, extra := 0, band := 0 })
    tenants := s.tenants.zipIdx.map fun p => { p.1 with key := Config.freeValue (s.freeCtr + p.2) }
    freeCtr := s.freeCtr + s.tenants.length }
  let s : State := s.rjobs.foldl (fun (s : State) j =>
    if j.rolling then
      (if !j.containing.isEmpty then s
       else if (s.jobPeers j.ten j.id).isEmpty then (s.discardTeams j.ten j.id).rollback j.ten j.id
       else s.contain j.ten j.id)
    else
      let s := (j.sealed.head?.filter (·.entry)).elim s fun c => s.endAtPeers j.id c
      s.setRJob { j with gen := j.highest + 1, highest := j.highest + 1, sealed := if j.hasArea then j.sealed.map fun c => { c with entry := false } else [] }) s
  { s with
    teams := s.teams.map fun t => if t.ended then t else { t with heat := (s.launchOf t.ten t.launch).heat, whole := false, requests := t.requests.filter (· == .cancel) }
    items := s.items.map fun i => { i with die := s.liveDie i.die }.mapImage fun m => { m with team := { m.team with heat := (s.launchOf i.ten i.launch).heat } } }

/-- The wake (R86, R353, R354): `failed` are the compute stacks the self-test found failing, `imageOk` that the kept firmware was read
without error; it is checked against its hash. -/
def execBivouacWake (failed : BitVec 8) (imageOk : Bool) (s : State) : Out :=
  .next <|
    if s.biv.phase != 2 then s
    else if s.boot.brstate != 5 then
      { s with biv := ⟨0, false, false⟩, boot := { s.boot with brstate := 1 }, ctlsem := 0 }
    else if failed = 0xFF then
      { s with boot := { s.boot with brstate := 2, fail := s.boot.fail ||| failed.setWidth 29 }, biv := ⟨0, false, false⟩, ctlsem := 0 }
    else
      let s : State := { s with
        boot := { s.boot with fail := s.boot.fail ||| failed.setWidth 29 }
        told := if failed = 0 then s.told else .stackFailed failed.toNat :: s.told }
      if imageOk && sha256 s.boot.image == s.boot.imageHash then s.exitBiv
      else { s with biv := { s.biv with phase := 3 }, boot := { s.boot with brstate := 3, fwver := 0 }, ctlsem := 0 }

end Sys2Proof.Machine
end

