-- ==== Sys2Proof/Machine/EvPeer.lean ====
section
/-!
DEFINITION. What peers ask of this module (R226, R237, R273, R276, R295, R307, R312, R338): accesses, and the messages of
spanning launches. An event whose condition does not hold changes nothing.
-/
namespace Sys2Proof.Machine

/-! ## Work of a peer's launch (R276, R295) -/

/-- A peer's launch, by its id there. -/
def State.guest? (s : State) (peer ten launch : Nat) : Option Launch := s.launches.find? fun l => l.ten == ten && l.guest == some (peer, launch)

/-- A peer's launch is known here as the peer's, by its descriptor and constant bank as they came, under a number of this module's
that none of the tenant's launches here has (R266; log entry 62): that number. -/
def State.guestLaunch (s : State) (peer ten launch desc : Nat) (bank : List Word) : Nat × State :=
  match s.guest? peer ten launch, s.tenantOf? ten with
  | some l, _ => (l.id, s)
  | none, none => (0, s)
  | none, some t =>
    let l := { launchOfDesc desc ten (s.launchId t) 0 (bank.zipIdx.foldl (fun m p => Map.set 0 m p.2 p.1) []) with guest := some (peer, launch) }
    let s : State := { s.setTenant { t with nextLaunch := (l.id + 1) % 2 ^ 32 } with launches := s.launches ++ [{ l with next := l.nteams }] }
    (l.id, if (s.rjob? ten l.job).isSome then s else { s with rjobs := s.rjobs ++ [RJob.start ten l.job] })

/-- Work that arrives: at its level, with its passes and its age, on a die (R274, R276; log entry 62). -/
def State.arrivalOf (s : State) (ten launch : Nat) (c : Carried) (w : Work) : Item :=
  { id := s.nextId, die := s.liveDie 0, ten, launch, prio := c.prio, pushTime := s.clock - c.age, queuedAt := s.clock - c.waited
    aged := c.aged, passes := c.passes, work := w }

/-- A directory a peer's handle named is made anew over the string's pages here; where they are no string of the tenant's there is
none (R104, R107, R108; log entry 62). -/
def State.adoptDir (s : State) (ten : Nat) (d : Dir) : Option Nat × State :=
  match s.stringPages ten d.base ((d.len + 7) / 8) with
  | none => (none, s)
  | some (pages, stack) =>
    let e := { d with id := s.nextId, ten, pages, stack, built := false, sealedOnes := [], parts := .empty }
    (some s.nextId, { s with nextId := s.nextId + 1, dirs := s.dirs ++ [{ e with sealedOnes := hyperOnes (s.bits e) }] })
/-- The handles of a peer's image keep their indices and values. -/
def State.adoptHandles (s : State) (ten : Nat) (dirs : List Dir) : List Handle → List Handle × State
  | [] => ([], s)
  | h :: r =>
    let (own, s) : List Handle × State := match h.kind with
      | .tensor _ => ([h], s)
      | .bits k => match dirs.find? (·.id == k) with
        | none => ([], s)
        | some d => let (n, s) := s.adoptDir ten d; (n.toList.map fun n => { h with kind := .bits n }, s)
    let (hs, s) := s.adoptHandles ten dirs r
    (own ++ hs, s)

/-- A peer's image under this module's tenant, and its launch's number here: its commands are placed anew by their addresses here, and
so are its installs' records; its handles stay (R107, R276; log entry 62). -/
def State.foreignImage (s : State) (ten launch : Nat) (i : Image) : Image × State :=
  let (handles, s) := s.adoptHandles ten i.dirs i.team.handles
  ({ i with
    team := { i.team with ten, launch, handles }
    dirs := []
    installs := i.installs.filterMap fun x => match s.translate ten (x.recordAt.toNat % 2 ^ 60) x.recordAt.toNat .engWrite false with
      | .ok l => some { x with ten, record := l }
      | _ => none
    records := i.records.map fun r => { r with ten, launch } }, s)

/-- A record or an image of a spanning launch arrives: `put` queues it under the launch's number here, unless the tenant is not set up
or the launch is cancelled here. -/
def State.takeGuest (s : State) (peer ten launch desc : Nat) (bank : List Word) (put : Nat → State → State) : State :=
  if (s.tenantOf? ten).isNone || descBad desc then s
  else
    let (id, s) := s.guestLaunch peer ten launch desc bank
    let l := s.launchOf ten id
    if l.cancelled then s
    else
      let s := put id (s.setLaunch { l with complete := false })
      { s with arrivals := s.arrivals ++ s.items.getLast?.toList.map fun x => (peer, x) }

def State.takeRecord (ten team bytes : Nat) (c : Carried) (launch : Nat) (s : State) : State :=
  { s with nextId := s.nextId + 1, items := s.items ++ [s.arrivalOf ten launch c (.record bytes team)] }
def State.takeImage (ten : Nat) (i : Image) (c : Carried) (launch : Nat) (s : State) : State :=
  let (i, s) := s.foreignImage ten launch i
  s.adoptImage i (s.arrivalOf ten launch c (.image i))

/-! ## Work at a peer (R268, R273) -/

/-- Work that a peer held is no longer outstanding: an image's team ends there, and what stands of it here is gone. -/
def State.takeAway (s : State) (hit : Nat × Item → Bool) : State :=
  let uids := (s.away.filter hit).filterMap fun p => p.2.image?.map (·.team.uid)
  let s := s.loseTeams uids
  ({ s with
    away := s.away.filter fun p => !hit p
    teams := s.teams.map fun t => if uids.contains t.uid then { t with ended := true, handles := [] } else t } : State).gcDirs

/-- A record this module sent to a peer has ended there: it joins its parent here (R268). -/
def State.remoteEnded (s : State) (peer ten launch team : Nat) (completed : Bool) : State :=
  let hit (p : Nat × Item) : Bool := p.1 == peer && p.2.ten == ten && p.2.launch == launch && p.2.teamId == team
  match s.away.find? hit with
  | none => s
  | some p =>
    let s := s.takeAway hit
    let parent : Word := match p.2.work with
      | .record bs _ => .ofNat 64 (TaskRec.ofNat bs).parent
      | .image m => m.team.parent
    if completed && parent != 0 then
      { s with joinWaits := s.joinWaits ++ [{ ten, launch, team, addr := parent, pushing := false, page := none, tjoin := false
                                              who := none, uid := 0, counts := true, die := p.2.die }] }
    else s.finishRecord ten launch team completed

/-- A peer has applied the cancel of a launch of this module's (R273). -/
def State.peerCancelled (s : State) (peer ten launch : Nat) : State :=
  (s.takeAway fun p => p.1 == peer && p.2.ten == ten && p.2.launch == launch).checkLaunch ten launch

/-- What an LCANCEL or CKPT waits for of its peers is there: its result is written, and it goes on (R273, R330). -/
def State.endPeers (s : State) (p : Nat × Nat) : State :=
  match (s.spAt p).wait with
  | .peers d v next [] =>
    if s.remote.any fun x => x.who == .told && x.grp == p.1 && x.sp == p.2 then s
    else
      let s := s.setGrpAt p.1 ((s.grpAt p.1).wrS d (.ofNat 64 v))
      s.setSpAt p { s.spAt p with pc := next, wait := .none, since := s.tick + 1 }
  | _ => s

/-- A peer's team has cancelled a launch of this module: it is cancelled here, the other peers that hold work of it learn of it, and the
asker once they have (R273). -/
def State.cancelRelay (s : State) (asker ten launch : Nat) : State :=
  let s := if (s.launchOf ten launch).cancelled then s else s.cancelLaunch ten launch
  let s := s.peerCancelled asker ten launch
  let ps := ((s.away.filter fun p => p.2.ten == ten && p.2.launch == launch).map (·.1)).eraseDups
  if ps.isEmpty then s.tell asker (.cancelled launch)
  else ps.foldl (fun s p => s.sendRemote
    { peer := p, addr := 0, op := .cancel ten launch, resent := false, who := .relay asker launch, grp := 0, sp := 0, pc := 0, batch := 0 }) s
/-- One of those peers has it. -/
def State.relayed (s : State) (asker launch : Nat) : State :=
  if s.remote.any fun x => x.who == .relay asker launch then s else s.tell asker (.cancelled launch)

/-- A launch's module has passed the cancel of a team here on to everyone. -/
def State.cancelApplied (s : State) (peer launch : Nat) : State :=
  s.allSplits.foldl (fun (s : State) p => match (s.spAt p).wait with
    | .peers d v next cs =>
      if cs.contains (peer, launch) then (s.setSpAt p { s.spAt p with wait := .peers d v next (cs.filter (· != (peer, launch))) }).endPeers p else s
    | _ => s) s

/-! ## A job's checkpoint and rollback across modules (R307, R312) -/

/-- The module of a job asks for its checkpoint: the teams here stop as for one of this module's, and the peer is answered once they
have; a job without work here is answered at once. -/
def State.peerCkpt (s : State) (peer ten : Nat) (job : Word) : State :=
  let s := s.startCkpt ten job false
  match s.rjob? ten job with
  | none => s.tell peer (.saved job [] [] [])
  | some j => match j.progress with
    | none => s.tell peer (.saved job [] [] [])
    | some c =>
      let s := s.setRJob { j with progress := some { c with asker := some peer } }
      if c.committed then s.sendSaved peer job c else s

/-- A peer's images under this module's tenant and its own launches. -/
def State.foreignImages (s : State) (ten : Nat) : List Image → List Image × State
  | [] => ([], s)
  | i :: r =>
    let (i, s) := s.foreignImage ten i.team.launch i
    let (is, s) := s.foreignImages ten r
    (i :: is, s)

/-- What a peer has saved of a job joins its checkpoint: its resident teams' images, under numbers no team here has, and what was
suspended there. -/
def State.takeSaved (s : State) (peer ten : Nat) (job : Word) (resident suspended : List Image) (records : List (Nat × Nat × Nat × Carried)) : State :=
  match s.rjob? ten job with
  | none => s
  | some j => match j.progress with
    | none => s
    | some c =>
      if !c.waiting.contains peer then s
      else
        let aged (i : Image) : Carried := ⟨i.team.prio, 64, 0, 0, 0⟩
        let (here, s) := s.foreignImages ten resident
        let (asleep, s) := s.foreignImages ten suspended
        let xs := (asleep.map fun i => s.arrivalOf ten i.team.launch (aged i) (.image i)) ++
          records.map fun r => s.arrivalOf ten r.1 r.2.2.2 (.record r.2.1 r.2.2.1)
        ({ s with nextId := s.nextId + xs.length + here.length } : State).setRJob { j with progress := some { c with
          waiting := c.waiting.erase peer
          images := c.images ++ here.zipIdx.map fun p => { p.1 with team := { p.1.team with uid := s.nextId + xs.length + p.2 } }
          items := c.items ++ xs.zipIdx.map fun p => { p.1 with id := s.nextId + p.2 } } }

/-- The checkpoint a peer asked for has ended: its generation is spent here too, and the teams go on, but for a Bivouac entry. -/
def State.peerResume (s : State) (peer ten : Nat) (job : Word) : State :=
  match s.rjob? ten job with
  | none => s
  | some j => match j.progress with
    | none => s
    | some c =>
      if c.asker != some peer then s
      else if c.entry then s.setRJob { j with progress := some { c with asker := none } }
      else (s.setRJob { j with gen := c.gen + 1, highest := max j.highest (c.gen + 1), state := 0, last := c.gen, progress := none }).resumeJob ten job

/-- The job is to be rolled back at its module: the teams here stop too, and a checkpoint of it ends (R312 step 1). -/
def State.peerContain (s : State) (peer ten : Nat) (job : Word) : State :=
  match s.rjob? ten job with
  | none => s.tell peer (.contained job)
  | some j =>
    (s.teams.filter fun t => !t.ended && s.guestOf peer ten job t.ten t.launch).foldl
      (fun (s : State) t => s.setTeam { s.teamOf t.uid with stopped := true, requests := [] })
      (s.setRJob { j with progress := none, container := some peer })

/-- A peer's work of a job that is rolled back is gone. -/
def State.peerContained (s : State) (peer ten : Nat) (job : Word) : State :=
  match s.rjob? ten job with
  | none => s
  | some j => s.setRJob { j with containing := j.containing.erase peer }

/-- A peer's transaction. Before the module runs, and in Bivouac, none is delivered here (R85, R348). -/
def execRemoteTransaction (peer ten addr : Nat) (op : RemoteOp) (s : State) : Out :=
  .next <|
    if s.boot.brstate != 5 || s.biv.phase = 2 then s
    else match op with
    | .work launch desc bank team record c => (s.takeGuest peer ten launch desc bank (.takeRecord ten team record c)).answerPeer peer 0 0
    | .image launch desc bank i c => (s.takeGuest peer ten launch desc bank (.takeImage ten i c)).answerPeer peer 0 0
    | .cancel launch => ((s.guest? peer ten launch).elim s fun l => s.cancelLaunch ten l.id).answerPeer peer 0 0
    | .cancelHome launch => (s.cancelRelay peer ten launch).answerPeer peer 0 0
    | .cancelled launch => (s.cancelApplied peer launch).answerPeer peer 0 0
    | .ended launch team completed => (s.remoteEnded peer ten launch team completed).answerPeer peer 0 0
    | .checkpoint job => (s.peerCkpt peer ten job).answerPeer peer 0 0
    | .saved job is js rs => (s.takeSaved peer ten job is js rs).answerPeer peer 0 0
    | .resume job => (s.peerResume peer ten job).answerPeer peer 0 0
    | .contain job => (s.peerContain peer ten job).answerPeer peer 0 0
    | .contained job => (s.peerContained peer ten job).answerPeer peer 0 0
    | op => s.peerAccess peer ten addr op

end Sys2Proof.Machine
end

