-- ==== Sys2Proof/Machine/EvHost.lean ====
section
/-!
DEFINITION. Events of the host ports, the links, bring-up and reset (R77, R78, R100, R220, R334 to R354).
An event whose condition does not hold changes nothing.
-/
namespace Sys2Proof.Machine

/-! ## Tenants (R100, R274, R283, R290, R350) -/

/-- A tenant is set up with its page-table root and a fresh key; the leaves its tables hold already place their frames (R3). -/
def execTenantSetup (port ten root : Nat) (s : State) : Out :=
  .next <| s.controlRun port fun s =>
    if 32 ≤ ten || (s.tenantOf? ten).isSome then s
    else
      let (k, s) := s.fresh
      let leaves := (List.range 512).flatMap fun k => s.leavesAt 4 root k (k * 2 ^ 39)
      { leaves.foldl (fun (s : State) x => s.countLeaf ten x.2 true) s with
        tenants := s.tenants ++ [{ n := ten, root, weight := 1, spent := [], tagCtr := 1, nextLaunch := 1, hostSeq := 0, imageArea := 0, cancelled := [], key := k }] }

/-- Teardown: the key is discarded, and everything of the tenant with it (log entry 17). -/
def State.dropTenant (s : State) (ten : Nat) : State :=
  let uids := (s.teams.filter fun t => t.ten == ten && !t.ended).map (·.uid)
  let s : State := s.loseTeams ((s.teams.filter (·.ten == ten)).map (·.uid))
  let s : State := { s with
    launches := s.launches.filter (·.ten != ten), items := s.items.filter (·.ten != ten), away := s.away.filter (·.2.ten != ten)
    arrivals := s.arrivals.filter (·.2.ten != ten), peerWaits := s.peerWaits.filter (·.ten != ten)
    dones := s.dones.filter (·.1 != ten), posts := s.posts.filter (·.ten != ten), hostq := s.hostq.filter (·.1 != ten)
    rjobs := s.rjobs.filter (·.ten != ten), pairs := s.pairs.filter (·.1 != ten)
    reports := s.reports.filter (·.1 != ten), edits := s.edits.filter (·.ten != ten)
    pinned := s.pinned.filter (·.1 != ten), migrations := s.migrations.filter (·.ten != ten)
    tlb := s.tlb.filter (·.2.1 != ten), placed := s.placed.filter (·.ten != ten) }
  let s : State := uids.foldl (fun (s : State) u => s.killTeam u false) s
  ({ s with
    joinWaits := s.joinWaits.filter (·.ten != ten)
    tenants := s.tenants.filter (·.n != ten)
    set := if s.set.supervisor = some ten then { s.set with supervisor := none } else s.set } : State).gcDirs

def execTenantTeardown (port ten : Nat) (s : State) : Out := .next (s.controlRun port fun s => s.dropTenant ten)

/-- The supervisor tenant (R290); a number no tenant has designates none. -/
def execSupervisorDesignate (port ten : Nat) (s : State) : Out :=
  .next <| s.controlRun port fun s => { s with set := { s.set with supervisor := if ten < 32 then some ten else none } }

/-! ## The staging cache's size (R77) and install regions (R78) -/

def execStagingCacheResize (port size : Nat) (s : State) : Out :=
  .next <| s.controlRun port fun s =>
    if size % unitBytes != 0 || size < 32 * 2 ^ 30 || 512 * 2 ^ 30 < size then s else { s with set := { s.set with stagingNew := some size } }

/-- The change waits until no install is in progress, then empties the cache. -/
def execStagingResizeApply (s : State) : Out :=
  .next <| match s.set.stagingNew with
  | some n => if s.regions.any (·.installing) then s else { s with staged := [], set := { s.set with stagingSize := n, stagingNew := none } }
  | none => s

/-- Flash bytes of a range read as zeros: a region given to a new tenant, until its first commit (R101). -/
def State.zeroFlash (s : State) (base n : Nat) : State := { s with flash := s.flash.filter fun c => c.1 < base || base + n ≤ c.1 }

/-- A region definition: its range in one stack, its owner, its budget. A region keeps its stack. R78 does not say what a
region takes that is defined anew over another range, or over one that another region overlaps: here it takes the units its
addresses number, those too that an earlier commit put in the spare pool (log entry 45). One that comes while an install of the
region is in progress is dropped: R101 does not say what it does (log entry 71). -/
def execInstallRegionDefine (port n ten stack base units budget : Nat) (s : State) : Out :=
  .next <| s.controlRun port fun s =>
    let bad := 1024 ≤ n || 4 ≤ stack || units == 0 || base % unitBytes != 0 || base / 2 ^ 40 != stack || (base + units * unitBytes - 1) / 2 ^ 40 != stack || 2 ^ 32 ≤ budget
    let new : Region := { n, ten, stack, base, units := (List.range units).map (base / unitBytes + ·), budget, consumed := 0, installs := 0, installing := false, retired := 0, lastCode := 0 }
    match s.region? n with
    | none => if bad then s else ({ s with regions := s.regions ++ [new] } : State).zeroFlash base (units * unitBytes)
    | some r =>
      if bad || r.stack != stack || r.installing then s
      else
        let same := r.base == base && r.units.length == units
        let r' : Region := if same then { r with ten, budget } else new
        let s := s.setRegion r'
        if same && r.ten == ten then s else s.zeroFlash base (units * unitBytes)

/-! ## Unfence (R220) -/

/-- The command runs a set of proof products of its own: `ok` that all passed. R218 does not say whether these count in selector 7: here
they do not (log entry 91). -/
def execUnfence (port col sa : Nat) (ok : Bool) (s : State) : Out :=
  .next <| s.controlRun port fun s =>
    let c := s.col col
    if !ok || 4 ≤ sa || 512 ≤ col then s
    else s.setCol col { c with
      fenced := c.fenced &&& ~~~(1#4 <<< sa), sinceProof := Map.set 0 c.sinceProof sa 0
      suspects := c.suspects.filter (·.1 != sa) }

/-! ## Links (R334 to R340) -/

def Link.wave (w : Nat) : BitVec 8 := 1#8 <<< w

/-- A window of 2³⁴ bits ends with an estimate, as 10^(−est/10): one that exceeds the threshold asks for a hand-back, one below
a tenth of it allows a rejoin (R336, R340). -/
def execBerWindowEstimate (link w est : Nat) (s : State) : Out :=
  .next <|
    let l := s.link link
    if 128 ≤ link || 8 ≤ w then s
    else s.setLink link { l with
      berest := Map.set 0 l.berest w (min est 255)
      above := (l.above &&& ~~~(Link.wave w)) ||| (if est < l.berth then Link.wave w else 0)
      below := (l.below &&& ~~~(Link.wave w)) ||| (if l.berth + 10 < est then Link.wave w else 0) }

/-- A transaction not delivered when its link went down is resent, ahead of later ones (R337). -/
def State.resendTo (s : State) (peer : Nat) : State :=
  { s with remote := s.remote.map fun x => if x.peer = peer then { x with resent := true } else x }
/-- The link is down and all its wavelengths retrain; what stood of them and of the flit under way is gone. -/
def Link.lost (l : Link) : Link := { l with active := 0, training := true, failed := 0, above := 0, below := 0, carried := 0, carriedOf := 0, seq := 0 }
def State.linkDown (s : State) (n : Nat) : State :=
  let l := s.link n
  (s.setLink n { l.lost with downs := l.downs + 1 }).resendTo l.peer

/-- Wavelengths leave a link at a flit boundary: what their windows showed before counts no more. Each retrains by itself; with
none left the link is down until one rejoins. -/
def Link.without (l : Link) (ws : BitVec 8) : Link :=
  { l with
    active := l.active &&& ~~~ws, above := l.above &&& ~~~ws, below := l.below &&& ~~~ws
    handbacks := l.handbacks + .ofNat 64 ((List.range 8).filter fun w => (l.active &&& ws).getLsbD w).length }
def State.handBack (s : State) (n : Nat) (ws : BitVec 8) : State :=
  let l := (s.link n).without ws
  if (s.link n).active &&& ws = 0 then s
  else if l.active = 0 then (s.setLink n { l with downs := l.downs + 1, failed := 0, carried := 0, carriedOf := 0, seq := 0 }).resendTo l.peer
  else s.setLink n l

/-- At a flit boundary both ends stop using a wavelength whose window exceeded the threshold, at this end or, `far`, at the
other (R336). -/
def execWavelengthHandback (link : Nat) (e : WaveEnd) (s : State) : Out :=
  .next <|
    if 128 ≤ link || 8 ≤ e.wave || !(e.far || (s.link link).above.getLsbD e.wave) then s else s.handBack link (Link.wave e.wave)

/-- It rejoins after a window, later than its hand-back, below one tenth of the threshold (R336). -/
def execWavelengthRejoin (link w : Nat) (s : State) : Out :=
  .next <|
    let l := s.link link
    if 128 ≤ link || 8 ≤ w || l.training || l.active.getLsbD w || !l.below.getLsbD w then s
    else s.setLink link { l with active := l.active ||| Link.wave w, below := l.below &&& ~~~(Link.wave w) }

/-! ## Flits (R335) -/

def flitPayload : Nat := 240
/-- A flit is 256 bytes: an 8-byte header, whose layout is the part's (log entry 60), 240 bytes of messages, an 8-byte check over
these; it is cut into 32 beats of 64 bits. -/
def flitBody (f : Flit) : List Byte := bytesOf 8 (Config.flitHeader f.seq f.typ f.ack) ++ f.payload
def flitBytes (f : Flit) : List Byte := flitBody f ++ bytesOf 8 f.check.toNat
def flitBeats (f : Flit) : List (List Byte) := (List.range 32).map fun i => ((flitBytes f).drop (8 * i)).take 8
def flitPasses (f : Flit) : Bool := f.payload.length == flitPayload && f.check == Config.flitCheck (flitBody f)
/-- Messages packed into payloads: each may continue into the next, the last is filled with zeros. -/
def packMessages (ms : List (List Byte)) : List (List Byte) :=
  let bs := ms.flatten
  (List.range ((bs.length + flitPayload - 1) / flitPayload)).map fun k =>
    let p := (bs.drop (flitPayload * k)).take flitPayload
    p ++ List.replicate (flitPayload - p.length) 0

/-- The active wavelengths, ascending; the one that carries beat `i`, the lowest beat 0; and how many beats one carries. -/
def waves (active : BitVec 8) : List Nat := (List.range 8).filter fun w => active.getLsbD w
def beatWave (active : BitVec 8) (i : Nat) : Nat := (waves active).getD (i % (waves active).length) 0
def beatsOn (active : BitVec 8) (w : Nat) : Nat := ((List.range 32).filter fun i => active != 0 && beatWave active i == w).length

/-! ## Transactions delivered at their peers (R338, R339) -/

/-- The kind of a transaction and the data bytes it carries. -/
def TxOp.shape : TxOp → Nat × Nat
  | .access (.read ls) => (0, ls.length)
  | .access (.write xs) => (1, xs.length)
  | .access (.atomic _ wide _ _) => (2, if wide then 8 else 4)
  | .work _ => (3, 0)
  | .cancel .. => (4, 0)
  | .access (.saved ..) => (5, 0)
  | .access (.checkpoint _) => (6, 0)
  | .access (.resume _) => (7, 0)
  | .access (.contain _) => (8, 0)
  | .access (.contained _) => (9, 0)
  | .access (.cancelHome _) => (10, 0)
  | .access (.cancelled _) => (11, 0)
  | .access (.ended ..) => (12, 0)
  | .access (.work ..) | .access (.image ..) => (3, 0)
  | .access (.cancel _) => (4, 0)

def TxOp.message (o : TxOp) : List Byte := Config.message o.shape.1 o.shape.2

/-- The links up to a peer, and the one that carries a line of it: one for the line, until a link goes up or down (R339). -/
def State.upLinks (s : State) (peer : Nat) : List Nat := (List.range 128).filter fun n => (s.link n).reaches peer
def State.routeOf (s : State) (x : RemTx) : Option Nat :=
  let ups := s.upLinks x.peer
  ups[Config.route x.peer (x.addr / 128) ups % max ups.length 1]?

/-- A lane's transaction has come back: a store's is done, a load's or atomic's has read a value of the peer's memory, which is
free (log entry 6). -/
def State.laneBack (s : State) (id lane : Nat) : State :=
  match s.pend? id with
  | none => s
  | some p =>
    let (w, s) := if p.acc.reads then s.fresh else (0, s)
    s.retirePend { p with lanes := p.lanes.map fun x => if x.lane = lane ∧ x.sent ∧ x.res.isNone then x.served (w.toNat % 2 ^ (8 * p.n)) else x }

/-- A transaction's effect where it was sent from, once it is delivered: a cancelled launch's work has left the peer, and who waits
for it has its answer. -/
def State.deliver (s : State) (x : RemTx) : State :=
  let s := match x.op with
    | .cancel ten launch => s.peerCancelled x.peer ten launch
    | _ => s
  match x.who with
  | .nobody | .jobRead _ | .queryRead .. => s
  | .lanes p ls => ls.foldl (fun (s : State) l => s.laneBack p l) s
  | .piece id n => s.pieceDone id n
  | .poll target next =>
    let (w, s) := s.fresh
    let sp := s.spAt (x.grp, x.sp)
    let waits := match sp.wait with
      | .cwait .. => sp.live
      | _ => false
    if waits && target ≤ w.toNat then s.setSpAt (x.grp, x.sp) { sp with pc := next, wait := .none, since := s.tick + 1 } else s
  | .told => s.endPeers (x.grp, x.sp)
  | .relay asker launch => s.relayed asker launch

/-- Transactions whose messages a link carries, in their order. -/
def State.onLink (s : State) (link : Nat) : List RemTx := s.remote.filter fun x => s.routeOf x == some link
/-- Payload bytes carried of the message that is the link's next: a message that leaves the link half carried is begun anew. -/
def State.carriedOn (s : State) (link : Nat) : Nat := match s.onLink link with
  | x :: _ => if (s.link link).carriedOf = x.id then (s.link link).carried else 0
  | [] => 0
/-- The oldest transactions of a link's lines whose messages the payload carried so far holds are delivered, in the order they
were sent; what is left over belongs to the next message. -/
def State.deliverOn (s : State) (link : Nat) : Nat → State
  | 0 => s
  | fuel + 1 =>
    match s.remote.findIdx? fun x => s.routeOf x == some link with
    | none => s.setLink link { s.link link with carried := 0, carriedOf := 0 }
    | some k => match s.remote[k]? with
      | none => s
      | some x =>
        let n := x.op.message.length
        if (s.link link).carried < n then s.setLink link { s.link link with carriedOf := x.id }
        else (({ s with remote := s.remote.eraseIdx k } : State).setLink link { s.link link with carried := (s.link link).carried - n }).deliver x |>.deliverOn link fuel

/-- A wavelength that carries beats of a flit has corrected codewords of it (R335, R340). -/
def Link.correct (l : Link) (fixed : List (Nat × Nat)) : Link :=
  fixed.foldl (fun (l : Link) f =>
    if beatsOn l.active f.1 = 0 then l else { l with corrected := Map.set 0 l.corrected f.1 ((Map.get 0 l.corrected f.1 + f.2) % 2 ^ 48) }) l

/-- The flit a link sends next: in sequence, with the messages that wait, from where the flit before left off. -/
def State.nextFlit (s : State) (link : Nat) : Flit :=
  let p := (packMessages [((s.onLink link).flatMap fun x => x.op.message).drop (s.carriedOn link)]).headD (List.replicate flitPayload 0)
  let f : Flit := ⟨(s.link link).seq, 0, 0, p, 0⟩
  { f with check := Config.flitCheck (flitBody f) }

/-- A flit over a link's active wavelengths passes its check, and what it carries is delivered, where it is the next in sequence
with what the link sends; or it is replayed, and when the 16th replay of one fails the link goes down (R337). -/
def State.flitOver (s : State) (link : Nat) (check : FlitCheck) : State :=
  let l := (s.link link).correct check.fixed
  if l.training || l.active = 0 then s
  else if flitPasses check.flit then
    if check.flit.seq != l.seq || check.flit.payload != (s.nextFlit link).payload then s
    else (s.setLink link { l with failed := 0, seq := l.seq + 1, carried := s.carriedOn link + flitPayload }).deliverOn link (s.remote.length + 1)
  else if l.failed = 16 then (s.setLink link l).linkDown link
  else s.setLink link { l with replays := l.replays + 1, failed := l.failed + 1 }

/-- A flit begins at a flit boundary, at which the wavelengths whose windows exceeded the threshold leave (R336). -/
def execFlitReceive (link : Nat) (check : FlitCheck) (s : State) : Out :=
  .next (if 128 ≤ link then s else (s.handBack link (s.link link).above).flitOver link check)

def execLinkRetrainComplete (link : Nat) (s : State) : Out :=
  .next (if (s.link link).training then s.setLink link { s.link link with active := 0xFF, training := false } else s)

/-- A late 0x30: of a group that still runs, or a record of one that has ended. -/
def State.late30 (s : State) (gi k : Nat) (pc : Word) : State := s.lateFault gi k pc (flt30 (s.grpAt gi))

/-- A checkpoint that a peer could not be asked for ends unsealed, and its teams go on (R307, R337). -/
def State.untold (s : State) (x : RemTx) : State := match x.op with
  | .access (.checkpoint job) =>
    let ten := (s.teamOf (s.grpAt x.grp).team).ten
    match s.rjob? ten job with
    | some j => match j.progress with
      | some c => ((s.abandonCkpt j).resumeJob ten job).endAtPeers job c
      | none => s
    | none => s
  | _ => s

/-- A transaction ends with its instruction's 0x30. Of a load, a query and CWAITGE's read that ends all; the other lanes of a store or
atomic go on, an atomic writing no register, and so do LCANCEL's and CKPT's messages to other peers. A command's are bad data (R132,
R189, R337). Work goes back to its queue, and a message that nobody waits for stays. -/
def State.giveUp (s : State) (x : RemTx) : State :=
  let drop (hit : RemTx → Bool) : State := { s with remote := s.remote.filter fun y => !hit y }
  match x.who with
  | .lanes p ls => match s.pend? p with
    | none => drop (· == x)
    | some q =>
      if q.acc.writes then
        ((drop (· == x)).retirePend { q with dst := .none, lanes := q.lanes.filter fun y => !ls.contains y.lane }).late30 x.grp x.sp x.pc
      else
        let s := drop fun y => match y.who with
          | .lanes q _ => q == p
          | _ => false
        (s.dropPend p).late30 x.grp x.sp x.pc
  | .piece id n =>
    let s := drop (· == x)
    (s.owe30 x.grp x.batch).pieceDone id n
  | .jobRead id =>
    let s := drop fun y => y.who == x.who && y.peer == x.peer
    match s.jobs.find? (·.id == id) with
    | some j => s.spoilJob j fun l => l.sp == .remote x.peer
    | none => s
  | .queryRead q _ =>
    let s := drop fun y => match y.who with
      | .queryRead r _ => r == q
      | _ => false
    (s.dropQuery q).late30 x.grp x.sp x.pc
  | .poll .. =>
    let s := drop fun y => y.who == x.who && y.grp == x.grp && y.sp == x.sp
    s.late30 x.grp x.sp x.pc
  | .told =>
    let s := ((drop (· == x)).untold x).detach x.grp x.sp
    (s.setSpAt (x.grp, x.sp) { s.spAt (x.grp, x.sp) with wait := .none }).late30 x.grp x.sp x.pc
  | .relay .. => s
  | .nobody => match x.op with
    | .work it =>
      let s := drop (· == x)
      { s with away := s.away.filter fun p => !(p.1 == x.peer && p.2.id == it.id), items := s.items ++ [it] }
    | _ => s

/-- 1 ms without an up link to its peer: the k-th transaction ends at its accessor (R337). -/
def execResendTimeout (k : Nat) (s : State) : Out :=
  .next <| match s.remote[k]? with
  | none => s
  | some x => if !x.resent || s.reaches x.peer then s else s.giveUp x

/-! ## What the host does to this module's memory (R237, R342, R343) -/

/-- A read through BAR 2 comes behind the writes of its port, posts no report and waits for none (R342). -/
def execHostBar2Read (port off n : Nat) (s : State) : Out :=
  .next (if !s.portOk port || 2 ^ 36 < off + n then s else (s.posted port).bar2Read port off n)

/-- A posted write through BAR 2, whose lines land one by one; a faulting one is discarded and recorded (R114, R342, R343). -/
def execHostBar2Write (port off : Nat) (data : List Byte) (s : State) : Out :=
  .next <|
    let p := s.port port
    if !s.portOk port || 2 ^ 36 < off + data.length then s
    else match if s.boot.brstate != 5 then none else s.hostLocs p.bar2ten (p.bar2 off) data.length .write with
      | some ls => s.queueWrite (some port) none (ls.zip data)
      | none => s.setPort port { p with aer := p.aer + 1 }

/-! ## Ports and the semaphore (R342 to R345) -/

def execCtlsemClaim (port : Nat) (s : State) : Out := .next (if s.portOk port then (s.posted port).semWrite port 1 else s)
def execCtlsemRelease (port : Nat) (s : State) : Out := .next (if s.portOk port then (s.posted port).semWrite port 0 else s)

/-- The owner's link going down frees the semaphore. -/
def execPortLinkDown (port : Nat) (s : State) : Out :=
  .next <|
    let s := s.setPort port { s.port port with up := false }
    if s.ctlsem = port + 1 then { s with ctlsem := 0 } else s

def execPortLinkTrained (port speed : Nat) (s : State) : Out :=
  .next (if port < 2 && 5 ≤ speed && speed ≤ 7 then s.setPort port { s.port port with up := true, speed } else s)

/-- Offsets that answer before the device runs: the port block, the link status blocks, the bring-up status block with FWGO, the
attestation block with its report, and the firmware window (R348). -/
def earlyOffset (o : Nat) : Bool :=
  [(0x40000, 0x40020), (0x30000, 0x34000), (0x50000, 0x50028), (0x51000, 0x51030), (0x51100, 0x51BD0), (0x800000, 0x1000000)].any fun r =>
    r.1 ≤ o && o < r.2
/-- Offsets any port writes without the semaphore (R345). -/
def freeOffset (o : Nat) : Bool := (0x10000 ≤ o && o < 0x10050) || o == 0x40000 || (0x60000 ≤ o && o < 0x60040)

/-- A setting in its range (R73, R112, R219, R274, R276, R297, R341): a value outside it changes nothing. -/
def State.setting (s : State) (reg : CtlReg) (v : Nat) : State :=
  let ok (lo hi : Nat) (t : Settings) : State := if lo ≤ v && v ≤ hi then { s with set := t } else s
  match reg with
  | .offset _ => s
  | .refreshFloor =>
    let t := ok 500 950 { s.set with floor := v }
    { t with teams := t.teams.map fun x => if 500 ≤ v && v ≤ 950 then { x with risen := x.risen && t.lacking x.col } else x }
  | .tenantWeight t => match s.tenantOf? t with
    | some x => if 1 ≤ v && v ≤ 255 then s.setTenant { x with weight := v } else s
    | none => s
  | .agingThreshold => ok (2 ^ 16) (2 ^ 32) { s.set with aging := v }
  | .migrationDepth => ok 8 4096 { s.set with depth := v }
  | .entryBudget => { s with set := { s.set with budget := v } }
  | .proofInterval => ok 256 65536 { s.set with proofEvery := v }
  | .directoryArea => ok (2 ^ 28) (2 ^ 33) { s.set with dirArea := v }
  | .yieldLimit => ok (2 ^ 16) (2 ^ 26) { s.set with yieldLimit := v }
  | .devId => ok 0 255 { s.set with devId := v }
  | .linkFarEnd n => if n < 128 then s.setLink n { s.link n with known := true, peer := v / 2 ^ 16 % 256, peerLink := v / 2 ^ 24 % 128 } else s
  | .route p => { s with routes := if v = 0 then s.routes.filter (· != p) else if s.routes.contains p then s.routes else p :: s.routes }
  | .pairing p t =>
    let r := s.pairs.filter fun x => !(x.1 == t && x.2.1 == p)
    { s with pairs := if v < 32 then (t, p, v) :: r else r }
  | .breakpoints t l => if (s.launches.any fun x => x.ten == t && x.id == l) && v ≤ 1 then s.setLaunch { s.launchOf t l with bkpt := v == 1 } else s
  | .imageArea t => match s.tenantOf? t with
    | some x => s.setTenant { x with imageArea := v }
    | none => s
  | .stopTeam t => s.ask t .command
  | .moveTeam t d => if d < 8 && !dieFailed s d then (s.setTeam { s.teamOf t with dest := some d }).ask t .command else s

/-- A write through BAR 0, behind the writes its port made before it (R343, R345, R348). -/
def execControlRegisterWrite (port : Nat) (reg : CtlReg) (v : Word) (s : State) : Out :=
  .next <| match reg with
  | .offset o =>
    if !s.portOk port then s
    else
      let s := s.posted port
      if s.boot.brstate != 5 && !earlyOffset o then s.reject port
      else if freeOffset o then s.ctlWrite (some port) o v.toNat
      else if s.boot.brstate = 4 && 0x800000 ≤ o then s.reject port
      else s.control port fun s => s.ctlWrite (some port) o v.toNat
  | r => s.controlRun port fun s => s.setting r v.toNat

/-- What a port reads at an offset of BAR 0: before the device runs, most offsets read zero (R346, R348). -/
def State.bar0Read (s : State) (port off : Nat) : Nat := if s.boot.brstate != 5 && !earlyOffset off then 0 else s.ctlRead (some port) off

/-- The k-th waiting read through BAR 0 is answered (R342). -/
def State.answerRead (s : State) (k : Nat) : State :=
  match s.reads[k]? with
  | some (port, off) =>
    if !s.portOk port then s
    else { s with reads := s.reads.eraseIdx k, told := .read0 port off (s.bar0Read port off) :: s.told }
  | none => s

/-! ## Bring-up (R346 to R350) -/

/-- Power stands: the self-test begins. -/
def execPowerOn (s : State) : Out := .next (if s.boot.brstate = 0 && s.biv.phase != 2 then { s with boot := { s.boot with brstate := 1 } } else s)

def execSelfTestComplete (fail : BitVec 29) (s : State) : Out :=
  .next (if s.boot.brstate = 1 && s.biv.phase != 2 then { s with boot := { s.boot with fail, brstate := if fail = 0 then 3 else 2 } } else s)

/-- A byte of the firmware window; dropped and counted while an image is verified (R349, R350). -/
def execFirmwareWindowWrite (port off : Nat) (v : Byte) (s : State) : Out :=
  .next <| s.control port fun s =>
    if s.boot.brstate = 4 then s.reject port
    else if 2 ^ 23 ≤ off then s
    else { s with boot := { s.boot with window := Memory.wr s.boot.window off v } }

def execFwgo (port : Nat) (len : Word) (s : State) : Out := .next (s.control port fun s => s.fwGo len.toNat)

def Boot.imageBytes (b : Boot) : List Byte := (List.range b.fwlen).map fun k => Memory.rd b.window k

/-- The checks of R350 in their order: 1, or the code of the first that fails. -/
def fwCheck (img : List Byte) : Nat :=
  let body := field img 8 8
  let key := img.drop (64 + body + 2508)
  if img.length < 64 || field img 0 4 != 0x4E445247 || field img 48 16 != 0 || body == 0 || 8385980 < body || img.length != 64 + body + 2564 then 2
  else if sha256 key != (img.drop 16).take 32 || fusedKeyHash != (img.drop 16).take 32 then 4
  else if !fwVerify key ((img.drop (64 + body)).take 2508) (img.take (64 + body)) then 3
  else if field img 4 4 < Config.fwFloor.toNat then 5
  else 1

/-- Verification ends (R350), but not in a powered-down device (R354); a Bivouac exit that waits for an image goes on with an accepted one (R353). -/
def execFirmwareVerifyDone (s : State) : Out :=
  .next <|
    if s.boot.brstate != 4 || s.biv.phase = 2 then s
    else
      let img := if 2 ^ 23 < s.boot.fwlen then [] else s.boot.imageBytes
      let c := fwCheck img
      if c = 1 then
        let s : State := { s with boot := { s.boot with fwstat := 1, fwver := field img 4 4, brstate := 5, image := img, imageHash := sha256 img } }
        if s.biv.phase = 3 then s.exitBiv else s
      else { s with boot := { s.boot with fwstat := c, brstate := 6 } }

/-! ## Attestation (R351) -/

def execAttgo (port : Nat) (s : State) : Out := .next (s.control port State.attGo)

/-- Bytes 0 to 95 of the report. -/
def State.reportHead (s : State) : List Byte :=
  (List.range 32).map (fun k => Memory.rd s.boot.nonce k) ++ (if s.boot.brstate = 5 then s.boot.imageHash else List.replicate 32 0) ++
    bytesOf 4 s.boot.fwver ++ bytesOf 4 s.boot.fail.toNat ++ bytesOf 1 s.set.devId ++ bytesOf 1 s.boot.brstate ++ List.replicate 22 0

def execAttestationReportDone (s : State) : Out :=
  .next <|
    if !s.boot.signing || s.biv.phase = 2 then s
    else { s with boot := { s.boot with
      report := s.reportHead ++ attSign s.boot.attCount s.reportHead
      attstat := 1, attCount := s.boot.attCount + 1, signing := false } }

/-! ## Resets (R352) -/

/-- A job's checkpoint area as a reset with power held leaves it: registers, undo log and sealed generations (R304), whose string
handles name directories no more (log entry 79). -/
def RJob.kept (j : RJob) : RJob :=
  { j with progress := none, rolling := false, want := false, containing := [], container := none, sealed := j.sealed.map (Ckpt.mapImages fun i =>
      { i with team := { i.team with handles := i.team.handles.filter fun h => match h.kind with
        | .tensor _ => true
        | .bits _ => false } }) }

/-- Device reset: flash, its wear and the life's report count stand, and with power held the checkpoint areas and the DRAM, whose
lines still to be filled read as zeros as before (R101). -/
def execDeviceReset (held : Bool) (s : State) : Out :=
  .next { State.reset with
    rjobs := if held then (s.rjobs.filter (·.hasArea)).map RJob.kept else []
    mem := if held then s.mem else [], fill := if held then s.fill.filter (·.1 == .dram) else [], flash := s.flash, wear := s.wear, spares := s.spares
    boot := { Boot.empty with attCount := s.boot.attCount }
    ports := s.ports.map fun p => (p.1, { Port.empty with up := p.2.up, speed := p.2.speed })
    told := s.told, inputs := s.inputs, reads := s.reads, tick := s.tick, clock := s.clock, nextId := s.nextId, freeCtr := s.freeCtr }

/-- Compute-die reset: columns, registers, matrix state and teams of the die are lost; every job with a team
there is contained and rolls back, its engine commands and installs completing before (R312). -/
def execComputeDieReset (die : Nat) (s : State) : Out :=
  .next <|
    let ts := s.teams.filter fun t => !t.ended && t.col < 512 && dieOf t.col == die
    let s := ts.foldl (fun (s : State) t => s.contain t.ten (s.launchOf t.ten t.launch).job) s
    let s := s.loseColumns (ts.map (·.uid))
    { s with
      columns := s.columns.map fun p =>
        if dieOf p.1 = die then (p.1, { Column.empty with replays := p.2.replays, fenced := p.2.fenced, proofs := p.2.proofs, base := p.2.base, extra := p.2.extra, band := p.2.band }) else p
      sram := s.sram.filter fun c => c.1 / 2 ^ 27 / 16 != die
      tlb := s.tlb.filter fun k => dieOf k.1 != die }

/-- Optical-base reset: every link's state is lost, those that were up count as gone down, the links retrain, undelivered transactions
are resent (R337, R340). -/
def execOpticalBaseReset (s : State) : Out :=
  .next { s with
    links := (List.range 128).map fun n => (n, let l := s.link n; if l.active = 0 then l.lost else { l.lost with downs := l.downs + 1 })
    remote := s.remote.map fun x => { x with resent := true } }

end Sys2Proof.Machine
end

