-- ==== Sys2Proof/Machine/Pair.lean ====
section
/-!
DEFINITION. The pair halves (R39 to R41): both halves read before either writes.
-/
namespace Sys2Proof.Machine

/-- The effect of a scalar half on (d, s) (R40). -/
def halfS (o : PairOp) (d x : Word) : Word :=
  match o with
  | .smov => x
  | .sadd => aluSadd 0 d x
  | .ssub => aluSsub 0 d x
  | .sand => d &&& x
  | .sor => d ||| x
  | .sxor => d ^^^ x
  | .sshl => aluSshl 0 d x
  | .sshr => aluSshr 0 d x
  | .ssar => aluSsar 0 d x
  | .smin => aluSmin 0 d x
  | .smax => aluSmax 0 d x
  | _ => d + (x <<< 3)

/-- A 32-bit lane as `n` elements of `w` bits. -/
def half2 (w n : Nat) (op : Nat → Nat → Nat) (d x : Nat) : Nat :=
  packed w n fun k => op (elem w d k) (elem w x k)

/-- The effect of a vector half on a lane (R40). -/
def halfV (o : PairOp) (d x : Nat) : Nat :=
  let sg (v : Nat) : Int := toSigned 32 v
  match o with
  | .vmov => x
  | .vaddI32 => d + x
  | .vsubI32 => wrapTo 32 ((d : Int) - x)
  | .vmulI32 => d * x
  | .vand => d &&& x
  | .vor => d ||| x
  | .vxor => d ^^^ x
  | .vshl => d <<< vSh 32 x
  | .vshr => d >>> vSh 32 x
  | .vsar => wrapTo 32 ((sg d) >>> vSh 32 x)
  | .vminI32 => wrapTo 32 (min (sg d) (sg x))
  | .vminN32 => min d x
  | .vmaxI32 => wrapTo 32 (max (sg d) (sg x))
  | .vmaxN32 => max d x
  | .vabsI32 => (sg x).natAbs
  | .faddF32 => fAdd .rn false fF32 d x
  | .fsubF32 => fSub .rn false fF32 d x
  | .faddF16x2 => half2 16 2 (fAdd .rn false fF16) d x
  | .fmulF32 => fMul .rn false fF32 d x
  | .fminF32 => fMinMax false fF32 d x
  | .fmaxF32 => fMinMax true fF32 d x
  | .faddBf16x2 => half2 16 2 (fAdd .rn false fBf16) d x
  | .fmulBf16x2 => half2 16 2 (fMul .rn false fBf16) d x
  | .vaddI16x2 => half2 16 2 (fun a b => (a + b) % 2 ^ 16) d x
  | _ => half2 8 4 (fun a b => (a + b) % 2 ^ 8) d x

def halfM (o : PairOp) (d x : Mask) : Mask :=
  match o with
  | .mand => d &&& x
  | .mor => d ||| x
  | .mxor => d ^^^ x
  | _ => d &&& ~~~x

/-- What a half will write, computed before either half writes. -/
inductive HalfWr where
  | none
  | sca (r : Nat) (v : Word)
  | vec (r : Nat) (vs : List (Nat × Nat))
  | mask (r : Nat) (v : Mask)
  deriving DecidableEq, Repr

def State.halfWr (s : State) (h : Half) : HalfWr :=
  let d := h.d.toNat
  match h.op.cls with
  | .none => .none
  | .sca => .sca d (halfS h.op (s.rdS d) (s.scalarSrc h.x))
  | .vec => .vec d ((lanesOf s.split.m0 s.width).map fun l =>
      (l, halfV h.op (s.grp.rdV d l).toNat (s.src32 h.x l).toNat))
  | .mask => .mask d (halfM h.op (s.rdM d) (s.maskSrc h.x))

def State.applyHalf (s : State) (w : HalfWr) : State :=
  match w with
  | .none => s
  | .sca r v => s.wrS r v
  | .vec r vs => s.wrLanes false r vs
  | .mask r v => s.wrM r v

/-- A half's vector registers lie below the count (R355): the first field that fails. -/
def State.halfCount (s : State) (h : Half) : Option Nat :=
  if h.op.cls = .vec then
    if s.regCount ≤ h.d.toNat then some 0
    else match h.x with
      | .reg n => if s.regCount ≤ n.toNat then some 1 else none
      | _ => none
  else none

/-- A pair word: the checks of issue, both halves computed, then both written (R41). -/
def execPair (h0 h1 : Half) (s : State) : Out :=
  match (s.halfCount h0).or (s.halfCount h1) with
  | some k => .next (s.fault (fieldFault k))
  | none =>
    match (if readsDone h0.x || readsDone h1.x then s.doneFault else none) with
    | some b => .next (s.raise30 b)
    | none => .next (((s.applyHalf (s.halfWr h0)).applyHalf (s.halfWr h1)).goto (s.split.pc + 8))

def execPairNop (h1 : Half) (s : State) : Out := execPair ⟨.nop, 0, .reg 0⟩ h1 s
def execPairSmov (d : BitVec 8) (x : Src) (h1 : Half) (s : State) : Out := execPair ⟨.smov, d, x⟩ h1 s
def execPairSadd (d : BitVec 8) (x : Src) (h1 : Half) (s : State) : Out := execPair ⟨.sadd, d, x⟩ h1 s
def execPairSsub (d : BitVec 8) (x : Src) (h1 : Half) (s : State) : Out := execPair ⟨.ssub, d, x⟩ h1 s
def execPairSand (d : BitVec 8) (x : Src) (h1 : Half) (s : State) : Out := execPair ⟨.sand, d, x⟩ h1 s
def execPairSor (d : BitVec 8) (x : Src) (h1 : Half) (s : State) : Out := execPair ⟨.sor, d, x⟩ h1 s
def execPairSxor (d : BitVec 8) (x : Src) (h1 : Half) (s : State) : Out := execPair ⟨.sxor, d, x⟩ h1 s
def execPairSshl (d : BitVec 8) (x : Src) (h1 : Half) (s : State) : Out := execPair ⟨.sshl, d, x⟩ h1 s
def execPairSshr (d : BitVec 8) (x : Src) (h1 : Half) (s : State) : Out := execPair ⟨.sshr, d, x⟩ h1 s
def execPairSsar (d : BitVec 8) (x : Src) (h1 : Half) (s : State) : Out := execPair ⟨.ssar, d, x⟩ h1 s
def execPairSmin (d : BitVec 8) (x : Src) (h1 : Half) (s : State) : Out := execPair ⟨.smin, d, x⟩ h1 s
def execPairSmax (d : BitVec 8) (x : Src) (h1 : Half) (s : State) : Out := execPair ⟨.smax, d, x⟩ h1 s
def execPairVmov (d : BitVec 8) (x : Src) (h1 : Half) (s : State) : Out := execPair ⟨.vmov, d, x⟩ h1 s
def execPairVaddI32 (d : BitVec 8) (x : Src) (h1 : Half) (s : State) : Out := execPair ⟨.vaddI32, d, x⟩ h1 s
def execPairVsubI32 (d : BitVec 8) (x : Src) (h1 : Half) (s : State) : Out := execPair ⟨.vsubI32, d, x⟩ h1 s
def execPairVmulI32 (d : BitVec 8) (x : Src) (h1 : Half) (s : State) : Out := execPair ⟨.vmulI32, d, x⟩ h1 s
def execPairVand (d : BitVec 8) (x : Src) (h1 : Half) (s : State) : Out := execPair ⟨.vand, d, x⟩ h1 s
def execPairVor (d : BitVec 8) (x : Src) (h1 : Half) (s : State) : Out := execPair ⟨.vor, d, x⟩ h1 s
def execPairVxor (d : BitVec 8) (x : Src) (h1 : Half) (s : State) : Out := execPair ⟨.vxor, d, x⟩ h1 s
def execPairVshl (d : BitVec 8) (x : Src) (h1 : Half) (s : State) : Out := execPair ⟨.vshl, d, x⟩ h1 s
def execPairVshr (d : BitVec 8) (x : Src) (h1 : Half) (s : State) : Out := execPair ⟨.vshr, d, x⟩ h1 s
def execPairVsar (d : BitVec 8) (x : Src) (h1 : Half) (s : State) : Out := execPair ⟨.vsar, d, x⟩ h1 s
def execPairVminI32 (d : BitVec 8) (x : Src) (h1 : Half) (s : State) : Out := execPair ⟨.vminI32, d, x⟩ h1 s
def execPairVminN32 (d : BitVec 8) (x : Src) (h1 : Half) (s : State) : Out := execPair ⟨.vminN32, d, x⟩ h1 s
def execPairVmaxI32 (d : BitVec 8) (x : Src) (h1 : Half) (s : State) : Out := execPair ⟨.vmaxI32, d, x⟩ h1 s
def execPairVmaxN32 (d : BitVec 8) (x : Src) (h1 : Half) (s : State) : Out := execPair ⟨.vmaxN32, d, x⟩ h1 s
def execPairVabsI32 (d : BitVec 8) (x : Src) (h1 : Half) (s : State) : Out := execPair ⟨.vabsI32, d, x⟩ h1 s
def execPairFaddF32 (d : BitVec 8) (x : Src) (h1 : Half) (s : State) : Out := execPair ⟨.faddF32, d, x⟩ h1 s
def execPairFsubF32 (d : BitVec 8) (x : Src) (h1 : Half) (s : State) : Out := execPair ⟨.fsubF32, d, x⟩ h1 s
def execPairFaddF16x2 (d : BitVec 8) (x : Src) (h1 : Half) (s : State) : Out := execPair ⟨.faddF16x2, d, x⟩ h1 s
def execPairFmulF32 (d : BitVec 8) (x : Src) (h1 : Half) (s : State) : Out := execPair ⟨.fmulF32, d, x⟩ h1 s
def execPairFminF32 (d : BitVec 8) (x : Src) (h1 : Half) (s : State) : Out := execPair ⟨.fminF32, d, x⟩ h1 s
def execPairFmaxF32 (d : BitVec 8) (x : Src) (h1 : Half) (s : State) : Out := execPair ⟨.fmaxF32, d, x⟩ h1 s
def execPairFaddBf16x2 (d : BitVec 8) (x : Src) (h1 : Half) (s : State) : Out := execPair ⟨.faddBf16x2, d, x⟩ h1 s
def execPairFmulBf16x2 (d : BitVec 8) (x : Src) (h1 : Half) (s : State) : Out := execPair ⟨.fmulBf16x2, d, x⟩ h1 s
def execPairMand (d : BitVec 8) (x : Src) (h1 : Half) (s : State) : Out := execPair ⟨.mand, d, x⟩ h1 s
def execPairMor (d : BitVec 8) (x : Src) (h1 : Half) (s : State) : Out := execPair ⟨.mor, d, x⟩ h1 s
def execPairMxor (d : BitVec 8) (x : Src) (h1 : Half) (s : State) : Out := execPair ⟨.mxor, d, x⟩ h1 s
def execPairMandn (d : BitVec 8) (x : Src) (h1 : Half) (s : State) : Out := execPair ⟨.mandn, d, x⟩ h1 s
def execPairSlea (d : BitVec 8) (x : Src) (h1 : Half) (s : State) : Out := execPair ⟨.slea, d, x⟩ h1 s
def execPairVaddI16x2 (d : BitVec 8) (x : Src) (h1 : Half) (s : State) : Out := execPair ⟨.vaddI16x2, d, x⟩ h1 s
def execPairVaddI8x4 (d : BitVec 8) (x : Src) (h1 : Half) (s : State) : Out := execPair ⟨.vaddI8x4, d, x⟩ h1 s

end Sys2Proof.Machine
end

