-- ==== Sys2Proof/Machine/Dispatch.lean ====
section
/-!
DEFINITION. One arm per instruction, pair word and event: each calls its meaning.
-/
namespace Sys2Proof.Machine

def exec (i : Instr) (s : State) : Host.Outcome State Fault Refusal :=
  match i with
  | .nop f => Sys2Proof.Machine.execNop f s
  | .smov f => Sys2Proof.Machine.execSmov f s
  | .sadd f => Sys2Proof.Machine.execSadd f s
  | .ssub f => Sys2Proof.Machine.execSsub f s
  | .smul f => Sys2Proof.Machine.execSmul f s
  | .smulh f => Sys2Proof.Machine.execSmulh f s
  | .sdiv f => Sys2Proof.Machine.execSdiv f s
  | .srem f => Sys2Proof.Machine.execSrem f s
  | .sand f => Sys2Proof.Machine.execSand f s
  | .sor f => Sys2Proof.Machine.execSor f s
  | .sxor f => Sys2Proof.Machine.execSxor f s
  | .sandn f => Sys2Proof.Machine.execSandn f s
  | .sshl f => Sys2Proof.Machine.execSshl f s
  | .sshr f => Sys2Proof.Machine.execSshr f s
  | .ssar f => Sys2Proof.Machine.execSsar f s
  | .smin f => Sys2Proof.Machine.execSmin f s
  | .smax f => Sys2Proof.Machine.execSmax f s
  | .scmp f => Sys2Proof.Machine.execScmp f s
  | .ssel f => Sys2Proof.Machine.execSsel f s
  | .spopc f => Sys2Proof.Machine.execSpopc f s
  | .sclz f => Sys2Proof.Machine.execSclz f s
  | .sbfe f => Sys2Proof.Machine.execSbfe f s
  | .sbfi f => Sys2Proof.Machine.execSbfi f s
  | .slea f => Sys2Proof.Machine.execSlea f s
  | .srdl f => Sys2Proof.Machine.execSrdl f s
  | .swrl f => Sys2Proof.Machine.execSwrl f s
  | .sgets f => Sys2Proof.Machine.execSgets f s
  | .vmov f => Sys2Proof.Machine.execVmov f s
  | .vadd f => Sys2Proof.Machine.execVadd f s
  | .vsub f => Sys2Proof.Machine.execVsub f s
  | .vmul f => Sys2Proof.Machine.execVmul f s
  | .vmulh f => Sys2Proof.Machine.execVmulh f s
  | .vmad f => Sys2Proof.Machine.execVmad f s
  | .vmin f => Sys2Proof.Machine.execVmin f s
  | .vmax f => Sys2Proof.Machine.execVmax f s
  | .vabs f => Sys2Proof.Machine.execVabs f s
  | .vand f => Sys2Proof.Machine.execVand f s
  | .vor f => Sys2Proof.Machine.execVor f s
  | .vxor f => Sys2Proof.Machine.execVxor f s
  | .vandn f => Sys2Proof.Machine.execVandn f s
  | .vshl f => Sys2Proof.Machine.execVshl f s
  | .vshr f => Sys2Proof.Machine.execVshr f s
  | .vsar f => Sys2Proof.Machine.execVsar f s
  | .vpopc f => Sys2Proof.Machine.execVpopc f s
  | .vclz f => Sys2Proof.Machine.execVclz f s
  | .vbrev f => Sys2Proof.Machine.execVbrev f s
  | .vbfe f => Sys2Proof.Machine.execVbfe f s
  | .vbfi f => Sys2Proof.Machine.execVbfi f s
  | .vsel f => Sys2Proof.Machine.execVsel f s
  | .vcmp f => Sys2Proof.Machine.execVcmp f s
  | .vlid f => Sys2Proof.Machine.execVlid f s
  | .vshfl f => Sys2Proof.Machine.execVshfl f s
  | .vbcast f => Sys2Proof.Machine.execVbcast f s
  | .vred f => Sys2Proof.Machine.execVred f s
  | .vscan f => Sys2Proof.Machine.execVscan f s
  | .vcomp f => Sys2Proof.Machine.execVcomp f s
  | .vdiv f => Sys2Proof.Machine.execVdiv f s
  | .vrem f => Sys2Proof.Machine.execVrem f s
  | .mmov f => Sys2Proof.Machine.execMmov f s
  | .mand f => Sys2Proof.Machine.execMand f s
  | .mor f => Sys2Proof.Machine.execMor f s
  | .mxor f => Sys2Proof.Machine.execMxor f s
  | .mandn f => Sys2Proof.Machine.execMandn f s
  | .mnot f => Sys2Proof.Machine.execMnot f s
  | .ballot f => Sys2Proof.Machine.execBallot f s
  | .mpopc f => Sys2Proof.Machine.execMpopc f s
  | .mrank f => Sys2Proof.Machine.execMrank f s
  | .msets f => Sys2Proof.Machine.execMsets f s
  | .mfirst f => Sys2Proof.Machine.execMfirst f s
  | .fadd f => Sys2Proof.Machine.execFadd f s
  | .fsub f => Sys2Proof.Machine.execFsub f s
  | .fmul f => Sys2Proof.Machine.execFmul f s
  | .ffma f => Sys2Proof.Machine.execFfma f s
  | .fmin f => Sys2Proof.Machine.execFmin f s
  | .fmax f => Sys2Proof.Machine.execFmax f s
  | .fcmp f => Sys2Proof.Machine.execFcmp f s
  | .fclass f => Sys2Proof.Machine.execFclass f s
  | .frnd f => Sys2Proof.Machine.execFrnd f s
  | .frcp f => Sys2Proof.Machine.execFrcp f s
  | .frsq f => Sys2Proof.Machine.execFrsq f s
  | .fsqrt f => Sys2Proof.Machine.execFsqrt f s
  | .fdiv f => Sys2Proof.Machine.execFdiv f s
  | .fexp2 f => Sys2Proof.Machine.execFexp2 f s
  | .flog2 f => Sys2Proof.Machine.execFlog2 f s
  | .fsin f => Sys2Proof.Machine.execFsin f s
  | .fcos f => Sys2Proof.Machine.execFcos f s
  | .ftanh f => Sys2Proof.Machine.execFtanh f s
  | .fdot2 f => Sys2Proof.Machine.execFdot2 f s
  | .fscale f => Sys2Proof.Machine.execFscale f s
  | .cvt f => Sys2Proof.Machine.execCvt f s
  | .pack f => Sys2Proof.Machine.execPack f s
  | .unpack f => Sys2Proof.Machine.execUnpack f s
  | .bscale f => Sys2Proof.Machine.execBscale f s
  | .ld f => Sys2Proof.Machine.execLd f s
  | .st f => Sys2Proof.Machine.execSt f s
  | .lds f => Sys2Proof.Machine.execLds f s
  | .sts f => Sys2Proof.Machine.execSts f s
  | .atom f => Sys2Proof.Machine.execAtom f s
  | .atoms f => Sys2Proof.Machine.execAtoms f s
  | .stcomp f => Sys2Proof.Machine.execStcomp f s
  | .ldexp f => Sys2Proof.Machine.execLdexp f s
  | .pref f => Sys2Proof.Machine.execPref f s
  | .fence f => Sys2Proof.Machine.execFence f s
  | .cpl f => Sys2Proof.Machine.execCpl f s
  | .cpgather f => Sys2Proof.Machine.execCpgather f s
  | .cpscatter f => Sys2Proof.Machine.execCpscatter f s
  | .cptile f => Sys2Proof.Machine.execCptile f s
  | .cpfill f => Sys2Proof.Machine.execCpfill f s
  | .aclose f => Sys2Proof.Machine.execAclose f s
  | .await f => Sys2Proof.Machine.execAwait f s
  | .atest f => Sys2Proof.Machine.execAtest f s
  | .cwaitge f => Sys2Proof.Machine.execCwaitge f s
  | .gset f => Sys2Proof.Machine.execGset f s
  | .bncount f => Sys2Proof.Machine.execBncount f s
  | .bnpatch f => Sys2Proof.Machine.execBnpatch f s
  | .bnrel f => Sys2Proof.Machine.execBnrel f s
  | .bnreset f => Sys2Proof.Machine.execBnreset f s
  | .oclaim f => Sys2Proof.Machine.execOclaim f s
  | .orel f => Sys2Proof.Machine.execOrel f s
  | .oload f => Sys2Proof.Machine.execOload f s
  | .aclaim f => Sys2Proof.Machine.execAclaim f s
  | .arel f => Sys2Proof.Machine.execArel f s
  | .azero f => Sys2Proof.Machine.execAzero f s
  | .mma f => Sys2Proof.Machine.execMma f s
  | .adrain f => Sys2Proof.Machine.execAdrain f s
  | .astore f => Sys2Proof.Machine.execAstore f s
  | .mstat f => Sys2Proof.Machine.execMstat f s
  | .aband f => Sys2Proof.Machine.execAband f s
  | .winstall f => Sys2Proof.Machine.execWinstall f s
  | .wstat f => Sys2Proof.Machine.execWstat f s
  | .pgmove f => Sys2Proof.Machine.execPgmove f s
  | .sealStr f => Sys2Proof.Machine.execSealStr f s
  | .unsealStr f => Sys2Proof.Machine.execUnsealStr f s
  | .rank1 f => Sys2Proof.Machine.execRank1 f s
  | .rank0 f => Sys2Proof.Machine.execRank0 f s
  | .sel1 f => Sys2Proof.Machine.execSel1 f s
  | .sel0 f => Sys2Proof.Machine.execSel0 f s
  | .fclose f => Sys2Proof.Machine.execFclose f s
  | .fopen f => Sys2Proof.Machine.execFopen f s
  | .encl f => Sys2Proof.Machine.execEncl f s
  | .exmin f => Sys2Proof.Machine.execExmin f s
  | .tkmatch f => Sys2Proof.Machine.execTkmatch f s
  | .utfcut f => Sys2Proof.Machine.execUtfcut f s
  | .ixstat f => Sys2Proof.Machine.execIxstat f s
  | .bra f => Sys2Proof.Machine.execBra f s
  | .brc f => Sys2Proof.Machine.execBrc f s
  | .brm f => Sys2Proof.Machine.execBrm f s
  | .bspl f => Sys2Proof.Machine.execBspl f s
  | .join f => Sys2Proof.Machine.execJoin f s
  | .call f => Sys2Proof.Machine.execCall f s
  | .ret f => Sys2Proof.Machine.execRet f s
  | .jmpi f => Sys2Proof.Machine.execJmpi f s
  | .exit f => Sys2Proof.Machine.execExit f s
  | .bar f => Sys2Proof.Machine.execBar f s
  | .bara f => Sys2Proof.Machine.execBara f s
  | .barw f => Sys2Proof.Machine.execBarw f s
  | .barinit f => Sys2Proof.Machine.execBarinit f s
  | .barinv f => Sys2Proof.Machine.execBarinv f s
  | .barexp f => Sys2Proof.Machine.execBarexp f s
  | .yld f => Sys2Proof.Machine.execYld f s
  | .idem f => Sys2Proof.Machine.execIdem f s
  | .tspawn f => Sys2Proof.Machine.execTspawn f s
  | .tjoin f => Sys2Proof.Machine.execTjoin f s
  | .nap f => Sys2Proof.Machine.execNap f s
  | .lspawn f => Sys2Proof.Machine.execLspawn f s
  | .trap f => Sys2Proof.Machine.execTrap f s
  | .bkpt f => Sys2Proof.Machine.execBkpt f s
  | .ssets f => Sys2Proof.Machine.execSsets f s
  | .ckpt f => Sys2Proof.Machine.execCkpt f s
  | .rpread f => Sys2Proof.Machine.execRpread f s
  | .lcancel f => Sys2Proof.Machine.execLcancel f s
  | .lcount f => Sys2Proof.Machine.execLcount f s
  | .pairNop h1 => Sys2Proof.Machine.execPairNop h1 s
  | .pairSmov d x h1 => Sys2Proof.Machine.execPairSmov d x h1 s
  | .pairSadd d x h1 => Sys2Proof.Machine.execPairSadd d x h1 s
  | .pairSsub d x h1 => Sys2Proof.Machine.execPairSsub d x h1 s
  | .pairSand d x h1 => Sys2Proof.Machine.execPairSand d x h1 s
  | .pairSor d x h1 => Sys2Proof.Machine.execPairSor d x h1 s
  | .pairSxor d x h1 => Sys2Proof.Machine.execPairSxor d x h1 s
  | .pairSshl d x h1 => Sys2Proof.Machine.execPairSshl d x h1 s
  | .pairSshr d x h1 => Sys2Proof.Machine.execPairSshr d x h1 s
  | .pairSsar d x h1 => Sys2Proof.Machine.execPairSsar d x h1 s
  | .pairSmin d x h1 => Sys2Proof.Machine.execPairSmin d x h1 s
  | .pairSmax d x h1 => Sys2Proof.Machine.execPairSmax d x h1 s
  | .pairVmov d x h1 => Sys2Proof.Machine.execPairVmov d x h1 s
  | .pairVaddI32 d x h1 => Sys2Proof.Machine.execPairVaddI32 d x h1 s
  | .pairVsubI32 d x h1 => Sys2Proof.Machine.execPairVsubI32 d x h1 s
  | .pairVmulI32 d x h1 => Sys2Proof.Machine.execPairVmulI32 d x h1 s
  | .pairVand d x h1 => Sys2Proof.Machine.execPairVand d x h1 s
  | .pairVor d x h1 => Sys2Proof.Machine.execPairVor d x h1 s
  | .pairVxor d x h1 => Sys2Proof.Machine.execPairVxor d x h1 s
  | .pairVshl d x h1 => Sys2Proof.Machine.execPairVshl d x h1 s
  | .pairVshr d x h1 => Sys2Proof.Machine.execPairVshr d x h1 s
  | .pairVsar d x h1 => Sys2Proof.Machine.execPairVsar d x h1 s
  | .pairVminI32 d x h1 => Sys2Proof.Machine.execPairVminI32 d x h1 s
  | .pairVminN32 d x h1 => Sys2Proof.Machine.execPairVminN32 d x h1 s
  | .pairVmaxI32 d x h1 => Sys2Proof.Machine.execPairVmaxI32 d x h1 s
  | .pairVmaxN32 d x h1 => Sys2Proof.Machine.execPairVmaxN32 d x h1 s
  | .pairVabsI32 d x h1 => Sys2Proof.Machine.execPairVabsI32 d x h1 s
  | .pairFaddF32 d x h1 => Sys2Proof.Machine.execPairFaddF32 d x h1 s
  | .pairFsubF32 d x h1 => Sys2Proof.Machine.execPairFsubF32 d x h1 s
  | .pairFaddF16x2 d x h1 => Sys2Proof.Machine.execPairFaddF16x2 d x h1 s
  | .pairFmulF32 d x h1 => Sys2Proof.Machine.execPairFmulF32 d x h1 s
  | .pairFminF32 d x h1 => Sys2Proof.Machine.execPairFminF32 d x h1 s
  | .pairFmaxF32 d x h1 => Sys2Proof.Machine.execPairFmaxF32 d x h1 s
  | .pairFaddBf16x2 d x h1 => Sys2Proof.Machine.execPairFaddBf16x2 d x h1 s
  | .pairFmulBf16x2 d x h1 => Sys2Proof.Machine.execPairFmulBf16x2 d x h1 s
  | .pairMand d x h1 => Sys2Proof.Machine.execPairMand d x h1 s
  | .pairMor d x h1 => Sys2Proof.Machine.execPairMor d x h1 s
  | .pairMxor d x h1 => Sys2Proof.Machine.execPairMxor d x h1 s
  | .pairMandn d x h1 => Sys2Proof.Machine.execPairMandn d x h1 s
  | .pairSlea d x h1 => Sys2Proof.Machine.execPairSlea d x h1 s
  | .pairVaddI16x2 d x h1 => Sys2Proof.Machine.execPairVaddI16x2 d x h1 s
  | .pairVaddI8x4 d x h1 => Sys2Proof.Machine.execPairVaddI8x4 d x h1 s
  | .homeWrite id => Sys2Proof.Machine.execHomeWrite id s
  | .stringWrite id => Sys2Proof.Machine.execStringWrite id s
  | .rcvReleaseApply id => Sys2Proof.Machine.execRcvReleaseApply id s
  | .loadResultReturn id err => Sys2Proof.Machine.execLoadResultReturn id err s
  | .queryRead id k => Sys2Proof.Machine.execQueryRead id k s
  | .queryResultReturn id err => Sys2Proof.Machine.execQueryResultReturn id err s
  | .directoryBuildEnd dir => Sys2Proof.Machine.execDirectoryBuildEnd dir s
  | .stagingFillComplete granule err => Sys2Proof.Machine.execStagingFillComplete granule err s
  | .enginePieceLand id k bad => Sys2Proof.Machine.execEnginePieceLand id k bad s
  | .engineJobStart id => Sys2Proof.Machine.execEngineJobStart id s
  | .mmaQuarterComplete id => Sys2Proof.Machine.execMmaQuarterComplete id s
  | .proofProductStart col sa => Sys2Proof.Machine.execProofProductStart col sa s
  | .proofProductCheck col sa ok => Sys2Proof.Machine.execProofProductCheck col sa ok s
  | .installStart id => Sys2Proof.Machine.execInstallStart id s
  | .installUnitProgrammed id err => Sys2Proof.Machine.execInstallUnitProgrammed id err s
  | .installCommit id => Sys2Proof.Machine.execInstallCommit id s
  | .installEnd id => Sys2Proof.Machine.execInstallEnd id s
  | .napExpiry g sp => Sys2Proof.Machine.execNapExpiry g sp s
  | .teamSave team => Sys2Proof.Machine.execTeamSave team s
  | .dispatch die ten => Sys2Proof.Machine.execDispatch die ten s
  | .initialRecordWrite launch => Sys2Proof.Machine.execInitialRecordWrite launch s
  | .parentJoinPush k => Sys2Proof.Machine.execParentJoinPush k s
  | .launchAccept port => Sys2Proof.Machine.execLaunchAccept port s
  | .faultRecordPost k => Sys2Proof.Machine.execFaultRecordPost k s
  | .checkpointCommitWrite ten job => Sys2Proof.Machine.execCheckpointCommitWrite ten job s
  | .checkpointSeal ten job => Sys2Proof.Machine.execCheckpointSeal ten job s
  | .rollbackRestore ten job => Sys2Proof.Machine.execRollbackRestore ten job s
  | .pageEditComplete ten va => Sys2Proof.Machine.execPageEditComplete ten va s
  | .flitReceive link check => Sys2Proof.Machine.execFlitReceive link check s
  | .resendTimeout k => Sys2Proof.Machine.execResendTimeout k s
  | .linkRetrainComplete link => Sys2Proof.Machine.execLinkRetrainComplete link s
  | .activationAlert bank => Sys2Proof.Machine.execActivationAlert bank s
  | .pageWalkComplete col ten va => Sys2Proof.Machine.execPageWalkComplete col ten va s
  | .notPresentAnswerValid c va => Sys2Proof.Machine.execNotPresentAnswerValid c va s
  | .notPresentAnswerDeliver c va => Sys2Proof.Machine.execNotPresentAnswerDeliver c va s
  | .pageEdit c va level entry => Sys2Proof.Machine.execPageEdit c va level entry s
  | .backgroundFillLine sp line => Sys2Proof.Machine.execBackgroundFillLine sp line s
  | .memoryReassign sp base len => Sys2Proof.Machine.execMemoryReassign sp base len s
  | .tenantSetup port ten root => Sys2Proof.Machine.execTenantSetup port ten root s
  | .tenantTeardown port ten => Sys2Proof.Machine.execTenantTeardown port ten s
  | .supervisorDesignate port ten => Sys2Proof.Machine.execSupervisorDesignate port ten s
  | .vaultBandChange col temp => Sys2Proof.Machine.execVaultBandChange col temp s
  | .heatIntervalEnd col powers => Sys2Proof.Machine.execHeatIntervalEnd col powers s
  | .pageMigrationStart ten va target => Sys2Proof.Machine.execPageMigrationStart ten va target s
  | .pageMigrationSwitch ten va frame => Sys2Proof.Machine.execPageMigrationSwitch ten va frame s
  | .stagingCacheResize port size => Sys2Proof.Machine.execStagingCacheResize port size s
  | .stagingResizeApply => Sys2Proof.Machine.execStagingResizeApply s
  | .installRegionDefine port n ten stack base units budget => Sys2Proof.Machine.execInstallRegionDefine port n ten stack base units budget s
  | .unfence port col sa ok => Sys2Proof.Machine.execUnfence port col sa ok s
  | .preemptionRequest team why => Sys2Proof.Machine.execPreemptionRequest team why s
  | .itemAging item => Sys2Proof.Machine.execItemAging item s
  | .workMigration die ten dest => Sys2Proof.Machine.execWorkMigration die ten dest s
  | .subgo port => Sys2Proof.Machine.execSubgo port s
  | .groupControlGo => Sys2Proof.Machine.execGroupControlGo s
  | .checkpointAreaSet port ten job base slotSize undo => Sys2Proof.Machine.execCheckpointAreaSet port ten job base slotSize undo s
  | .containmentCommand c job => Sys2Proof.Machine.execContainmentCommand c job s
  | .shadowLatchReplay col => Sys2Proof.Machine.execShadowLatchReplay col s
  | .bivouacCommand port => Sys2Proof.Machine.execBivouacCommand port s
  | .pwrlow => Sys2Proof.Machine.execPwrlow s
  | .bivouacEntryComplete => Sys2Proof.Machine.execBivouacEntryComplete s
  | .bivouacBudgetExpiry => Sys2Proof.Machine.execBivouacBudgetExpiry s
  | .bivouacWake failed imageOk => Sys2Proof.Machine.execBivouacWake failed imageOk s
  | .berWindowEstimate link w est => Sys2Proof.Machine.execBerWindowEstimate link w est s
  | .wavelengthHandback link e => Sys2Proof.Machine.execWavelengthHandback link e s
  | .wavelengthRejoin link w => Sys2Proof.Machine.execWavelengthRejoin link w s
  | .remoteTransaction peer ten addr op => Sys2Proof.Machine.execRemoteTransaction peer ten addr op s
  | .hostBar2Read port off n => Sys2Proof.Machine.execHostBar2Read port off n s
  | .hostBar2Write port off data => Sys2Proof.Machine.execHostBar2Write port off data s
  | .ctlsemClaim port => Sys2Proof.Machine.execCtlsemClaim port s
  | .ctlsemRelease port => Sys2Proof.Machine.execCtlsemRelease port s
  | .portLinkDown port => Sys2Proof.Machine.execPortLinkDown port s
  | .controlRegisterWrite port reg v => Sys2Proof.Machine.execControlRegisterWrite port reg v s
  | .powerOn => Sys2Proof.Machine.execPowerOn s
  | .selfTestComplete fail => Sys2Proof.Machine.execSelfTestComplete fail s
  | .firmwareWindowWrite port off v => Sys2Proof.Machine.execFirmwareWindowWrite port off v s
  | .fwgo port len => Sys2Proof.Machine.execFwgo port len s
  | .firmwareVerifyDone => Sys2Proof.Machine.execFirmwareVerifyDone s
  | .attgo port => Sys2Proof.Machine.execAttgo port s
  | .attestationReportDone => Sys2Proof.Machine.execAttestationReportDone s
  | .deviceReset held => Sys2Proof.Machine.execDeviceReset held s
  | .computeDieReset die => Sys2Proof.Machine.execComputeDieReset die s
  | .opticalBaseReset => Sys2Proof.Machine.execOpticalBaseReset s
  | .activationThrottleEnd bank => Sys2Proof.Machine.execActivationThrottleEnd bank s
  | .portLinkTrained port speed => Sys2Proof.Machine.execPortLinkTrained port speed s

end Sys2Proof.Machine
end

