-- ==== Sys2Proof/Machine/Run.lean ====
section
/-!
DEFINITION. What a step may do and what it does: fetch, the scoreboard, the issue arbiter, the events that
are enabled, and how an instruction is placed where the next step fetches (R28, R42, R70, R221, R260, R278, R301).
-/
namespace Sys2Proof

/-- The scalar registers a source names. -/
def SrcForm.sregs (g : SrcForm) (x : Src) : List Nat :=
  match g, x with
  | .unused, _ => []
  | .scaMax m, .sca n => (List.range (64 - m)).map (n.toNat + ·)
  | .scaEven, .sca n => [n.toNat, n.toNat + 1]
  | _, .sca n => if n.toNat < 64 then [n.toNat] else []
  | _, _ => []
def DstForm.sregs (d : DstForm) (n : Nat) : List Nat :=
  match d with
  | .sca => [n]
  | .scaMax m => (List.range (64 - m)).map (n + ·)
  | _ => []

def Half.sregs (h : Half) : List Nat :=
  (if h.op.cls = .sca then [h.d.toNat] else []) ++ match h.x with
    | .sca n => if n.toNat < 64 then [n.toNat] else []
    | _ => []

/-- Vector registers beyond those its fields name: MMA's scale registers from Vs (R58), and the most ADRAIN writes,
those of 16 rows at the narrowest width (R210). -/
def Instr.runRegs (i : Instr) : List Nat :=
  match i with
  | .mma f => (Machine.mmaScaleRegs (bits f.mod 0 5)).map (f.dst.toNat + ·)
  | .adrain f => (List.range 32).map (f.dst.toNat + ·)
  | _ => []

/-- The scalar and the vector registers an instruction reads or writes. -/
def Instr.regs (i : Instr) : List Nat × List Nat :=
  match i.full? with
  | some (_, f) =>
    let g := i.form
    let d := f.dst.toNat
    (g.dst.sregs d ++ g.a.sregs f.a ++ g.b.sregs f.b ++ g.c.sregs f.c, g.dst.vregs d ++ g.a.vregs f.a ++ g.b.vregs f.b ++ g.c.vregs f.c ++ i.runRegs)
  | none => match i.pair? with
    | some (x, y) => (x.sregs ++ y.sregs, x.vregs ++ y.vregs)
    | none => ([], [])

/-- The special registers an instruction reads. -/
def Instr.specials (i : Instr) : List Nat :=
  let of (x : Src) : List Nat := match x with
    | .sca n => if 64 ≤ n.toNat then [n.toNat] else []
    | _ => []
  match i.full? with
  | some (_, f) => of f.a ++ of f.b ++ of f.c
  | none => match i.pair? with
    | some (x, y) => of x.x ++ of y.x
    | none => []

def DecodeFault.flt : DecodeFault → Machine.Flt
  | .illegalInstruction => { code := 0x01 }
  | .illegalPairing => { code := 0x02 }
  | .illegalOperand k => { code := 0x03, info32 := k }

end Sys2Proof
namespace Sys2Proof.Machine

/-! ## The scoreboard (R42, R46, R301) -/

/-- Registers a late result of the group will write. -/
def Pend.dstRegs (p : Pend) : List Nat × List Nat :=
  match p.dst with
  | .none => ([], [])
  | .sca r => ([r], [])
  | .vec r => ([], (List.range ((p.n + 3) / 4)).map (r + ·))
def Query.dstRegs (q : Query) : List Nat := if q.wide || q.op == 0x28A then [q.dst, q.dst + 1] else [q.dst]
/-- Those a queued drain or claim returns to (R199, R210). -/
def MxKind.dstRegs : MxKind → List Nat × List Nat
  | .drain code _ _ _ nrows dst w _ =>
    let p := drainPack code
    ([], (List.range ((16 * nrows + p * w - 1) / (p * w) * if code = 1 then 2 else 1)).map (dst + ·))
  | .claim _ _ d => (d.toList, [])
  | .quarter .. | .zero .. => ([], [])

/-- The places in the windows of registers of a group (R91, R235). -/
def State.regPlaces (s : State) (gi : Nat) (ss vs : List Nat) : List (Loc × Nat) :=
  let g := s.grpAt gi
  let c := (s.teamOf g.team).col
  (vs.map fun r => (winLoc c 0 (g.slot * 2 ^ 43 + r * 2 ^ 35), 512)) ++ ss.map fun r => (winLoc c 1 (g.slot * 2 ^ 43 + r * 2 ^ 35), 8)

/-- Window accesses to a group's registers that an instruction of it comes after are still under way: those a barrier it passed orders
before it, and what a release it would observe there covers (R229, R235, R239). -/
def State.regsLate (s : State) (gi : Nat) (ss vs : List Nat) : Bool :=
  (!s.debts.isEmpty || !(s.grpAt gi).syncs.isEmpty) && (s.regPlaces gi ss vs).any fun r =>
    s.owes (.split gi) 4 r.1 r.2 || (s.grpAt gi).syncs.any fun y => s.pend.any fun p =>
      p.grp == y.grp && p.id < y.upTo && p.lanes.any fun x => x.res.isNone && x.loc.overlaps p.n r.1 r.2

/-- MSTAT reads MQSTAT under selector 0, as special register 79 does (R218). -/
def readsMqstat (i : Instr) : Bool :=
  i.specials.contains 79 || match i with
    | .mstat f => f.a.litVal == some 0
    | _ => false

/-- An instruction of split `k` waits for results of its group that are still to come: on its registers, on the status bits
it reads, on an acquire of its own split and on window accesses, whose order its registers take part in (R228, R235), and, where it
closes the group's region, on all the region issued and on the flash its partner reads for it (R301). -/
def State.hazard (s : State) (gi k : Nat) (i : Instr) : Bool :=
  let (ss, vs) := i.regs
  let sp := i.specials
  let closing := i.closes && (s.grpAt gi).regionOpen
  s.pend.any (fun p => p.grp == gi && (p.dstRegs.1.any ss.contains || p.dstRegs.2.any vs.contains || (p.acq && p.sp == k) ||
      (p.acc.reads && (readsMqstat i || (closing && p.region))))) ||
    s.queries.any (fun q => q.grp == gi && (q.dstRegs.any vs.contains || sp.contains 78 || (closing && q.region))) ||
    ((s.col (s.teamOf (s.grpAt gi).team).col).ops.any fun o =>
      o.grp == gi && (o.kind.dstRegs.1.any ss.contains || o.kind.dstRegs.2.any vs.contains)) || s.regsLate gi ss vs ||
    (closing && s.filling.any (s.granuleWait (gi, 1 - k)))

/-! ## Which splits may issue (R70, R260, R278) -/

/-- A wait of split `k` that ends when its split goes on is over. A counter's address is checked again, as its page may have
changed; a peer's is read again once no read of it is under way (R144). -/
def State.waitOver (s : State) (gi k : Nat) (x : Split) : Bool :=
  match x.wait with
  | .none => true
  | .drain => s.drained gi
  | .fence upTo _ strong _ => s.fenced gi upTo strong
  | .fill gs => gs.all fun g => !s.filling.contains g
  | .retry => true
  | .await n _ => s.reached gi n
  | .cwait a v scope _ => match s.access (s.teamOf (s.grpAt gi).team) a 8 8 .read with
    | .ok l =>
      if !s.granuleReady l then !s.filling.contains (l.a / 2 ^ 21)
      else s.mayPoll gi k a l scope && if l.isRemote then !s.polling gi k else v ≤ s.rdN l 8
    | _ => true
  | _ => false

def Split.isAnswer (x : Split) : Bool := match x.wait with
  | .answer .. | .fetching .. => x.live
  | _ => false

/-- A TKMATCH of the group still reads its labels and values, whose addresses are checked as it goes (R278). -/
def State.matching (s : State) (gi : Nat) : Bool := s.queries.any fun q => q.grp == gi && q.op == 0x28A && q.lanes.any (·.res.isNone)

/-- The split's group may issue at all: it stands on a column, and no access of it waits for an answer or has checks to pass (R98,
R278). -/
def State.groupRuns (s : State) (gi : Nat) : Bool :=
  let g := s.grpAt gi
  let t := s.teamOf g.team
  !g.ended && !t.ended && !t.stopped && t.col < 512 && !g.s0.isAnswer && !g.s1.isAnswer && !s.matching gi

/-- A split inside an instruction that has more checks to pass: its partner issues nothing before (R131, R278; log entry 81). -/
def Split.first (x : Split) : Bool := x.live && match x.wait with
  | .retry | .drain | .fill _ => true
  | _ => false
/-- A stopped group's split goes on only inside an instruction it has issued (R280), and none ahead of its partner's checks. -/
def Group.lets (g : Group) (k : Nat) : Bool :=
  (!g.stopped || ((g.sp k).midway && (g.sp k).fault.isNone)) && ((g.sp k).first || !(g.sp (1 - k)).first)

/-- The split's instruction has executed and its wait alone is left: what it waits for stands since (R42, R143, R144, R195). -/
def Wait.waitsOnly : Wait → Bool
  | .await .. | .cwait .. | .fence .. => true
  | _ => false

/-- A split is ready (R260): what holds its whole column back is no part of it. -/
def State.ready (s : State) (gi k : Nat) : Bool :=
  let g := s.grpAt gi
  let x := g.sp k
  x.live && s.groupRuns gi && g.lets k && s.waitOver gi k x && (x.wait.waitsOnly || (g.suspect.isSome && !x.midway) ||
    match s.fetch (s.teamOf g.team) x.pc with
    | .ok (w, v, ls) =>
      if s.unstaged ls then !(ls.any fun l => s.filling.contains (l.a / 2 ^ 21) && !s.granuleReady l)
      else match decode w v with
        | .ok i => !s.hazard gi k i
        | .error _ => true
    | _ => true)

/-! ## Issue -/

/-- Split `k` of group `gi` has its column's issue slot of this cycle (R260). -/
def State.issuing (s : State) (gi k : Nat) : State :=
  { s with cur := gi, curSplit := k, issued := (s.teamOf (s.grpAt gi).team).col :: s.issued }

/-- The next instruction of the executing split: the fetch's fault, the decode's, or the instruction's own meaning (R49, R88). -/
def State.runNext (s : State) : Out :=
  match s.fetch s.team s.split.pc with
  | .flt f => .next (s.fault f)
  | .wait t p m f => .next (s.awaitFetch t p m f)
  | .ok (w, v, ls) =>
    if s.unstaged ls then .next (s.wantFlash ls)
    else match decode w v with
      | .error e => .next (s.fault e.flt)
      | .ok i => exec i s

/-- A split issues, or goes on after its wait: at an instruction boundary a suspect batch's 0x30 comes first (R221). -/
def State.issueAt (s : State) (gi k : Nat) : Out :=
  let s := s.issuing gi k
  let x := s.split
  let s := if x.wait = .none then s else s.setSplit { x with wait := .none }
  match x.wait with
  | .await n next => .next (s.endAwait n next)
  | .cwait a v scope next => .next (s.endCwait a v scope next)
  | .fence upTo scope _ next => .next (s.endFence upTo scope next)
  | _ => match if x.midway then none else s.grp.suspect with
    | some r =>
      let f : Flt := { code := 0x30, info32 := s.grp.idemRetry, info64 := .ofNat 64 (mod32 r.1 + mod32 r.2 * 2 ^ 32) }
      .next ((s.setGrp { s.grp with suspect := none }).fault f)
    | none => s.runNext

/-! ## The choices of a step -/

inductive Choice where
  | issue (gi k : Nat)
  | event (e : Instr)
  /-- A landing piece's count goes ahead of its bytes (R144). -/
  | count (job k : Nat)
  | age (item : Nat)
  /-- A team on a column below the floor is asked to move (R73). -/
  | relieve (team : Nat)
  | retrain (link : Nat)
  | fillLine (sp : FillSpace) (line : Nat)
  | migrate (die ten dest : Nat)
  /-- The k-th waiting line of a host's or peer's write lands; the k-th read through BAR 0 is answered. -/
  | line (k : Nat)
  | bar0 (k : Nat)
  deriving DecidableEq, Repr

/-- The ready splits of a column, and the one its arbiter issues: ready longest, ties by a pointer that rotates
over the 64 positions (R260). -/
def State.readyOn (s : State) (col : Nat) : List (Nat × Nat) :=
  s.allSplits.filter fun p => (s.teamOf (s.grpAt p.1).team).col == col && s.ready p.1 p.2
def State.position (s : State) (p : Nat × Nat) : Nat := (2 * (s.grpAt p.1).slot + p.2 + 64 - s.tick % 64) % 64
def State.arbiter (s : State) (col : Nat) : Option (Nat × Nat) :=
  (s.readyOn col).foldl (fun b p =>
    match b with
    | none => some p
    | some q =>
      let x := s.spAt p
      let y := s.spAt q
      if x.since < y.since || (x.since == y.since && s.position p < s.position q) then some p else b) none

/-- Columns with resident teams, each once. -/
def State.busyColumns (s : State) : List Nat :=
  distinct ((s.teams.filter fun t => !t.ended && !t.stopped && t.col < 512).map (·.col))

/-- What accesses, queries, directories and code fills under way may do next. -/
def State.pendingAccess (s : State) : List Instr :=
  [(s.pend.flatMap fun p => if p.acc.writes then
     [.homeWrite p.id, .stringWrite p.id, .rcvReleaseApply p.id, .loadResultReturn p.id false] else [.loadResultReturn p.id false]),
   (s.queries.flatMap fun q => ((List.range q.lanes.length).map fun k => .queryRead q.id k) ++ [.queryResultReturn q.id false]),
   ((s.dirs.filter fun d => !d.built).map fun d => .directoryBuildEnd d.id),
   (s.filling.map fun g => .stagingFillComplete g false)].flatten

/-- What the engines, the matrix columns and the installs under way may do next. -/
def State.pendingEngine (s : State) : List Instr :=
  [(s.jobs.flatMap fun j => match j.st with
     | .landing ps => (List.range ps.length).map fun k => .enginePieceLand j.id k []
     | _ => [.engineJobStart j.id]),
   (s.columns.flatMap fun c => c.2.ops.map fun o => .mmaQuarterComplete o.id),
   (s.columns.flatMap fun c => (List.range 4).flatMap fun a =>
     if c.2.proving.contains a then [.proofProductCheck c.1 a true]
     else if s.set.proofEvery ≤ Map.get 0 c.2.sinceProof a then [.proofProductStart c.1 a] else []),
   (s.installs.flatMap fun i => [.installStart i.id, .installUnitProgrammed i.id false, .installCommit i.id, .installEnd i.id])].flatten

/-- What the schedulers may do next: naps, saves, dispatch, initial records, joins, launches and fault records. -/
def State.pendingSched (s : State) : List Instr :=
  [((s.allSplits.filter fun p => match (s.spAt p).wait with
     | .nap _ => true
     | _ => false).map fun p => .napExpiry p.1 p.2),
   ((s.teams.filter fun t => !t.requests.isEmpty).map fun t => .teamSave t.uid),
   (s.items.map fun i => .dispatch i.die i.ten),
   ((List.range s.launches.length).filterMap fun k => s.launches[k]?.bind fun l => if l.next < l.nteams then some (.initialRecordWrite k) else none),
   ((List.range s.joinWaits.length).map fun k => .parentJoinPush k),
   (([0, 1].filter fun p => (s.port p).subBusy).map fun p => .launchAccept p),
   ((List.range s.posts.length).map fun k => .faultRecordPost k)].flatten

/-- What recovery jobs, page edits, resizes, links, reports and an entry into BIVOUAC may do next. -/
def State.pendingSystem (s : State) : List Instr :=
  [(s.rjobs.flatMap fun j => if j.progress.isSome then [.checkpointCommitWrite j.ten j.id.toNat, .checkpointSeal j.ten j.id.toNat]
     else if j.rolling || j.container.isSome then [.rollbackRestore j.ten j.id.toNat] else []),
   (s.edits.map fun e => .pageEditComplete e.ten (4096 * e.page)),
   (if s.set.stagingNew.isSome then [.stagingResizeApply] else []),
   ((s.remote.filterMap s.routeOf).eraseDups.map fun n => .flitReceive n ⟨s.nextFlit n, []⟩),
   ((List.range s.remote.length).map fun k => .resendTimeout k),
   (if s.boot.signing then [.attestationReportDone] else []),
   (if s.biv.phase = 1 then [.bivouacEntryComplete] else [])].flatten

/-- Events the device itself may bring about in this state, for what is under way; those of the board, the host,
the sensors and of failing parts come as inputs (log entry 9). -/
def State.pending (s : State) : List Instr :=
  if s.biv.phase = 2 then []
  else if s.biv.phase = 3 then [.firmwareVerifyDone, .attestationReportDone]
  else if s.boot.brstate != 5 then
    [.powerOn, .firmwareVerifyDone, .attestationReportDone]
  else s.pendingAccess ++ s.pendingEngine ++ s.pendingSched ++ s.pendingSystem

def State.perform (s : State) : Choice → Out
  | .issue gi k => s.issueAt gi k
  | .event e => exec e s
  | .count j k => .next (s.countAhead j k)
  | .age i => execItemAging i s
  | .relieve t => execPreemptionRequest t .migration s
  | .retrain n => execLinkRetrainComplete n s
  | .fillLine sp n => execBackgroundFillLine sp n s
  | .migrate d t e => execWorkMigration d t e s
  | .line k => .next (s.lineLands k)
  | .bar0 k => .next (s.answerRead k)

/-- Sequences longer than the migration depth (R276). -/
def State.crowded (s : State) : List (Nat × Nat) :=
  (distinct (s.items.map fun i => (i.die, i.ten))).filter fun p => s.set.depth < (s.items.filter fun i => i.die == p.1 && i.ten == p.2).length

/-- What the ports have brought waits for the memory and the registers (R342, R343). -/
def State.pendingHost (s : State) : List Choice :=
  (List.range s.lines.length).map Choice.line ++ (List.range s.reads.length).map Choice.bar0

/-- What runs by itself with time: items age, crowded dies and columns send work away, links retrain, fresh memory is filled. -/
def State.passing (s : State) : List Choice :=
  if s.boot.brstate != 5 || s.biv.phase ≥ 2 then []
  else [s.items.map fun i => .age i.id,
    (s.teams.filter s.candidate).map fun t => .relieve t.uid,
    s.crowded.flatMap fun p => ((List.range 8) ++ s.routes.map (8 + ·)).map fun d => .migrate p.1 p.2 d,
    s.links.map fun l => .retrain l.1,
    s.fill.map fun f => .fillLine f.1 f.2.1,
    s.jobs.flatMap fun j => match j.st with
      | .landing ps => (List.range ps.length).map fun k => .count j.id k
      | _ => []].flatten

/-- An event that changes something; what moves spare units changes an install, a region or the wear too. -/
def State.enabled (s : State) (c : Choice) : Bool := match s.perform c with
  | .next s' => ({ s' with spares := [] } : State) != { s with spares := [] }
  | _ => false

/-- A column issues in this cycle: it is not throttled (R70) nor held by the power controller (R9), and has not issued yet (R260). -/
def State.columnIssues (s : State) (col : Nat) : Bool :=
  s.boot.brstate == 5 && s.biv.phase < 2 && (s.col col).band < 3 && !s.issued.contains col
/-- The splits the columns' arbiters issue in this cycle. -/
def State.issues (s : State) : List (Nat × Nat) := (s.busyColumns.filter s.columnIssues).filterMap s.arbiter
/-- What may happen next: what is under way goes on, and each column issues one word in a cycle (R260, R261). -/
def State.options (s : State) : List Choice :=
  (s.pending.map Choice.event ++ s.passing ++ s.pendingHost).filter s.enabled ++ s.issues.map fun p => .issue p.1 p.2

/-- The order of what may happen next is open (R226, R260, R261): one of several is a free choice (log entry 9). -/
def State.pick (s : State) : Option (Choice × State) :=
  match s.options with
  | [] => none
  | [c] => some (c, s)
  | c :: cs =>
    let (w, s) := s.fresh
    some ((c :: cs).getD (w.toNat % (cs.length + 1)) c, s)

/-! ## Between steps -/

/-- A job whose undo log was full asks for its checkpoint (R310). -/
def State.wantCkpt (s : State) : State :=
  s.rjobs.foldl (fun (s : State) j => if j.want && j.progress.isNone then
    (match s.rjob? j.ten j.id with
    | some x => s.setRJob { x with want := false }
    | none => s).startCkpt j.ten j.id false else s) s

/-- A split that is not ready has not been ready for any time (R260). -/
def State.markReady (s : State) : State :=
  let mark (gi k : Nat) (x : Split) : Split := if x.live && !s.ready gi k then { x with since := s.tick } else x
  { s with groups := s.groups.zipIdx.map fun p => { p.1 with s0 := mark p.2 0 p.1.s0, s1 := mark p.2 1 p.1.s1 } }

/-- A cycle ends once every column that has a ready split has issued (R260); one in which none issued takes as many cycles as the
part takes (log entry 4). -/
def State.pass (s : State) : State :=
  if !s.issues.isEmpty then s
  else { s with tick := s.tick + 1, clock := s.clock + 1 + (if s.issued.isEmpty then Config.stall s.tick else 0), issued := [] }
/-- Releases below the system's scope, fences and barriers are told apart no longer once all they cover is complete (R229, R239). -/
def State.settleDebts (s : State) : State :=
  { s with
    debts := s.debts.filter s.owing
    groups := s.groups.zipIdx.map fun p => { p.1 with
      fences := p.1.fences.filter fun m => s.busyBefore p.2 m.upTo
      syncs := p.1.syncs.filter fun y => s.busyBefore y.grp y.upTo ||
        (s.col (s.teamOf p.1.team).col).ops.any fun o => o.grp == y.grp && o.id < y.upTo } }
/-- Between steps: what is covered no longer is forgotten, checkpoints asked for start. -/
def State.after (s : State) : State := s.pass.settleDebts.wantCkpt.markReady

def Out.after : Out → Out
  | .next s => .next s.after
  | .fault f => .fault f
  | .refused r => .refused r

/-! ## Placing an instruction where the next step fetches -/

/-- Page-table entries: a pointer, and an executable 4 KiB leaf of tenant 0. -/
def ptrEntry (frame : Nat) : Nat := 2 ^ 63 + 7 * 2 ^ 60 + frame * 2 ^ 12
def codeEntry (frame : Nat) : Nat := 2 ^ 63 + frame * 2 ^ 12 + 2 ^ 9

/-- One tenant, one launch, one team of one group on column 0, its code page at generic address 0x10000 and
frame 0x14, its page tables in frames 0x10 to 0x13 (log entry 18). -/
def State.withWord (s : State) (nbits w : Nat) : State :=
  let m := Memory.wrN s.mem 0x10000 8 (ptrEntry 0x11)
  let m := Memory.wrN m 0x11000 8 (ptrEntry 0x12)
  let m := Memory.wrN m 0x12000 8 (ptrEntry 0x13)
  let m := Memory.wrN m 0x13080 8 (codeEntry 0x14)
  let m := Memory.wrN m 0x14000 16 (w % 2 ^ nbits)
  { s with
    mem := m, fill := [], inputs := [], lines := [], reads := [], issued := [], cur := 0, curSplit := 0
    boot := { s.boot with brstate := 5 }, biv := ⟨0, false, false⟩
    tenants := [{ n := 0, root := 0x10000, weight := 1, spent := [], tagCtr := 1, nextLaunch := 2, hostSeq := 0, imageArea := 0, cancelled := [], key := 0 }]
    launches := [{ Launch.empty with
      id := 1, code := 0x10000, nteams := 1, scratch := 4096, vregs := 256, groups := 1, width := 32, barriers := 16
      rqcap := 128, next := 1, enq := 1, complete := false }]
    teams := [{ Team.empty with uid := 1, launch := 1, ngroups := 1, vregs := 256, ended := false }]
    groups := [Group.start 1 0 0 0x10000 32 s.tick]
    nextId := max s.nextId 2 }

end Sys2Proof.Machine
end

