-- ==== Sys2Proof/Machine/Step.lean ====
section
/-!
DEFINITION. One step of the module.
-/
namespace Sys2Proof.Machine

/-- An input that waits happens first; else one of what may happen next; else a cycle passes. -/
def step (s : State) : Host.Outcome State Fault Refusal :=
  match s.inputs with
  | e :: r => Out.after (exec e { s with inputs := r })
  | [] => match s.pick with
    | some (c, s) => Out.after (s.perform c)
    | none => .next s.after

/-- The instruction of bits `w` stands where the next step fetches (log entry 18). -/
def State.withFetchWord (s : State) (nbits w : Nat) : State := s.withWord nbits w

end Sys2Proof.Machine
end

