-- ==== Sys2Proof/Safety.lean ====
section
/-!
DEFINITION. What claims about runs are stated in: the canonical form of the byte memories, the states a run
reaches, and runs that never stop.
-/
namespace Sys2Proof.Machine

/-- The three byte memories are in canonical form. -/
abbrev State.MemOk (s : State) : Prop := s.mem.wf = true ∧ s.flash.wf = true ∧ s.sram.wf = true

/-- A run of `n` steps never stops: every step answers a next state. -/
def State.Runs : Nat → State → Prop
  | 0, _ => True
  | n + 1, s => ∃ s', step s = .next s' ∧ State.Runs n s'

end Sys2Proof.Machine
end

