-- ==== Sys2Proof/WellFormed.lean ====
section
/-!
DEFINITION. Well-formed instructions: those the encoding of R31 and R39 can carry and the checks of R49 let pass.
-/
namespace Sys2Proof

def Instr.wfFull (i : Instr) (f : Fields) : Bool :=
  f.fits && !i.form.illegal f && (i.form.bad? f).isNone

def wfPair (h0 h1 : Half) : Bool :=
  !h0.illegal && !h1.illegal && !pairIllegal h0 h1 && (pairBad? h0 h1).isNone

/-- An event carries no encoding and is always well formed; whether it is enabled is the machine's question. -/
def Instr.wf (i : Instr) : Bool :=
  match i.full? with
  | some (_, f) => i.wfFull f
  | none =>
    match i.pair? with
    | some (h0, h1) => wfPair h0 h1
    | none => true

/-- An instruction that has words: a full form or a pair. -/
def Instr.isWord (i : Instr) : Bool := i.full?.isSome || i.pair?.isSome

end Sys2Proof
end

