-- ==== Sys2Proof/Certificates/Slice0/Obligations.lean ====
section
/-!
DEFINITION. The statements for the provers. Most say what one instruction or event does: that it completes, the
values the rules give, and all it leaves alone. `Claims` holds the words they are said in, written from the rules
and not from the meanings.
-/

namespace Sys2Proof.Claims
open Machine

/-! ## What a statement about an instruction word says -/

/-- The executing group is one of the machine's groups. -/
abbrev Here (s : State) : Prop := s.cur < s.groups.length

/-- A lane is effective (R31); MMA takes no mask register, so its M0 alone counts (R23). -/
abbrev Effective (i : Instr) (f : Fields) (s : State) : Prop := match i with
  | .mma _ => s.split.m0 ≠ 0
  | _ => s.eff f.msk.toNat ≠ 0

/-- A full form passes the checks at issue: its register and barrier numbers lie below the group's counts (R355),
and no deferred error comes before it (R132), unless no lane is effective (R44). -/
abbrev Issues (i : Instr) (f : Fields) (s : State) : Prop :=
  Here s ∧ s.countFault i f = none ∧
    ((readsDone f.a || readsDone f.b || readsDone f.c) = true → Effective i f s → s.doneFault = none)

/-- The executing split has gone on to the next word (R27), its partner is where it was. -/
def Moved (i : Instr) (s t : State) : Prop :=
  t.split = { s.split with pc := s.split.pc + .ofNat 64 (8 * i.words), wait := .none, since := s.tick + 1 } ∧
    t.partner = s.partner

/-- Registers and splits aside, the executing group is as it was; a region-closing instruction leaves no region
open (R301). -/
def GroupKept (i : Instr) (s t : State) : Prop :=
  { t.grp with sregs := s.grp.sregs, vregs := s.grp.vregs, masks := s.grp.masks, s0 := s.grp.s0, s1 := s.grp.s1 } =
    if i.closes then { s.grp with regionOpen := false } else s.grp

/-- Outside the executing group nothing changes: no other group, no other piece of state, no byte of memory
(a window onto registers shows registers and is told of by them). -/
structure Outside (s t : State) : Prop where
  rest : { t with groups := s.groups } = s
  count : t.groups.length = s.groups.length
  others : ∀ g, g ≠ s.cur → t.grpAt g = s.grpAt g
  bytes : ∀ l : Loc, l.sp ≠ .win ∨ 2 ≤ winArea l.a → t.rdB l = s.rdB l

/-- An instruction that leaves these scalar registers, vector lanes and masks, goes on, and does nothing else. -/
structure Result (i : Instr) (s t : State) (sca : Nat → Word) (vec : Nat → Nat → Lane) (mask : Nat → Mask) : Prop where
  scalars : ∀ k, t.rdS k = sca k
  vectors : ∀ k l, l < 128 → t.grp.rdV k l = vec k l
  masks : ∀ k, t.rdM k = mask k
  moved : Moved i s t
  kept : GroupKept i s t
  outside : Outside s t

/-- One scalar register gets a value. -/
def ScaResult (i : Instr) (s t : State) (r : Nat) (v : Word) : Prop :=
  Result i s t (fun k => if k = r then v else s.rdS k) s.grp.rdV s.rdM

/-- The lanes `ls` of a vector register, or of a pair, get values; `v l` is the register's or the pair's as one number. -/
def VecResult (i : Instr) (s t : State) (pair : Bool) (r : Nat) (ls : List Nat) (v : Nat → Nat) : Prop :=
  Result i s t s.rdS (fun k l =>
    if l ∈ ls ∧ k = r then .ofNat 32 (v l)
    else if l ∈ ls ∧ pair = true ∧ k = r + 1 then .ofNat 32 (v l / 2 ^ 32)
    else s.grp.rdV k l) s.rdM

/-- One mask register gets a value. -/
def MaskResult (i : Instr) (s t : State) (r : Nat) (v : Mask) : Prop :=
  Result i s t s.rdS s.grp.rdV (fun k => if k = r then v else s.rdM k)

/-- Nothing but the program counter changes. -/
def NoResult (i : Instr) (s t : State) : Prop := Result i s t s.rdS s.grp.rdV s.rdM

/-! ## Numbers (R37, R162, R167) -/

/-- The low `w` bits of `n` as two's complement, or as a natural number. -/
def num (sg : Bool) (w n : Nat) : Int := if sg then (BitVec.ofNat w n).toInt else ((BitVec.ofNat w n).toNat : Int)

/-- Width of a scalar type: 64 for .i64 (00) and .n64 (11), 32 for .i32 (01) and .n32 (10). -/
def scaW (m : BitVec 10) : Nat := if m.getLsbD 0 = m.getLsbD 1 then 64 else 32
def scaSigned (m : BitVec 10) : Bool := !m.getLsbD 1

/-- A result cut to the type and extended to the register: sign for .i, zeros for .n. -/
def spread (m : BitVec 10) (r : Int) : Word :=
  if scaSigned m then (BitVec.ofInt (scaW m) r).signExtend 64 else (BitVec.ofInt (scaW m) r).setWidth 64

/-- The conditions of R38: eq, ne, lt, le, gt, ge. -/
def condHolds (c : Nat) (a b : Int) : Bool :=
  if c = 0 then a = b else if c = 1 then a ≠ b else if c = 2 then a < b else if c = 3 then a ≤ b
  else if c = 4 then a > b else a ≥ b

def quotient (a b : Int) : Int := if b = 0 then 0 else a.tdiv b
def remainder (a b : Int) : Int := if b = 0 then a else a.tmod b

/-- Bit `k` of a number. -/
def bitOf (n k : Nat) : Bool := n / 2 ^ k % 2 = 1

/-- The bits of a field descriptor (R165): is bit `k` of a `w`-bit element inside the field? -/
def inField (w F k : Nat) : Bool := F % 64 ≤ k ∧ k < F % 64 + F / 2 ^ 8 % 2 ^ 7 ∧ k < w

/-- The length of the field within the element. -/
def fieldBits (w F : Nat) : Nat := min (F / 2 ^ 8 % 2 ^ 7) (w - F % 64)
def extract (sg : Bool) (w a F : Nat) : Int :=
  if fieldBits w F = 0 then 0 else num sg (fieldBits w F) (a % 2 ^ w / 2 ^ (F % 64))

/-- Bit `k` of an insert: A's low bits inside the field, D's own outside. -/
def inserted (w d a F k : Nat) : Bool := if inField w F k then bitOf a (k - F % 64) else bitOf d k

/-- Ones, and leading zeros, among `w` bits. -/
def ones (w n : Nat) : Nat := (List.range w).countP (bitOf n)
def leading (w n : Nat) : Nat := (BitVec.ofNat w n).clz.toNat

end Sys2Proof.Claims
open Sys2Proof Sys2Proof.Machine Sys2Proof.Claims

/-! ## Sources and special registers (R33 to R35, R45, R46) -/

namespace Sys2Proof.Claims

/-- The special registers of R45 by number, but for the counts of other chapters (76, 77, 79, 80). -/
def specialOf (s : State) : Nat → Option Word
  | 64 => some (.ofNat 64 s.launch.width)
  | 65 => some (if s.launch.width ≤ 32 then 1 else .ofNat 64 (s.launch.width / 32))
  | 66 => some (.ofNat 64 s.grp.gid)
  | 67 => some (.ofNat 64 s.team.id)
  | 68 => some (.ofNat 64 ((s.launch.guest.map (·.2)).getD s.launch.id))
  | 69 => some s.launch.graph
  | 70 => some (.ofNat 64 s.team.col)
  | 71 => some (.ofNat 64 (s.team.col / 64))
  | 72 => some (.ofNat 64 (s.team.col / 4))
  | 73 => some (.ofNat 64 s.set.devId)
  | 74 => some (.ofNat 64 s.team.ten)
  | 75 => some (.ofNat 64 (s.grp.batchOpen % 2 ^ 32))
  | 78 => some (.ofNat 64 (s.grp.qnone.toNat + 2 * s.grp.cut.toNat + 4 * s.grp.split.toNat + 8 * s.grp.mqpart.toNat + 16 * (s.grp.idemRetry % 4)))
  | 81 => some (.ofNat 64 (s.genOf s.team.ten s.launch.job))
  | 82 => some (.ofNat 64 (0x3000000000000000 + s.team.scrBase))
  | 83 => some (.ofNat 64 s.launch.scratch)
  | 84 => some s.team.frame
  | 85 => some (.ofNat 64 s.launch.nteams)
  | _ => none

end Sys2Proof.Claims

/-! ## Scalar instructions (R162 to R166) -/

namespace Sys2Proof.Claims

/-- The arithmetic of R163 and R164: the exact result on the sources cut to the type. -/
def scaArith : Instr → Option (Fields × (Bool → Nat → Nat → Nat → Int))
  | .smov f => some (f, fun sg w a _ => num sg w a)
  | .sadd f => some (f, fun sg w a b => num sg w a + num sg w b)
  | .ssub f => some (f, fun sg w a b => num sg w a - num sg w b)
  | .smul f => some (f, fun sg w a b => num sg w a * num sg w b)
  | .smulh f => some (f, fun sg w a b => num sg w a * num sg w b / 2 ^ w)
  | .sdiv f => some (f, fun sg w a b => quotient (num sg w a) (num sg w b))
  | .srem f => some (f, fun sg w a b => remainder (num sg w a) (num sg w b))
  | .smin f => some (f, fun sg w a b => min (num sg w a) (num sg w b))
  | .smax f => some (f, fun sg w a b => max (num sg w a) (num sg w b))
  | .scmp f => some (f, fun sg w a b => if condHolds (f.mod.toNat / 4 % 16) (num sg w a) (num sg w b) then 1 else 0)
  | .spopc f => some (f, fun _ w a _ => ones w a)
  | .sclz f => some (f, fun _ w a _ => leading w a)
  | .sbfe f => some (f, fun sg w a F => extract sg w a F)
  | _ => none

/-- The bitwise instructions and shifts: bit `k` of the `w`-bit result. -/
def scaBits : Instr → Option (Fields × (Nat → Nat → Nat → Nat → Bool))
  | .sand f => some (f, fun _ a b k => bitOf a k && bitOf b k)
  | .sor f => some (f, fun _ a b k => bitOf a k || bitOf b k)
  | .sxor f => some (f, fun _ a b k => bitOf a k != bitOf b k)
  | .sandn f => some (f, fun _ a b k => bitOf a k && !bitOf b k)
  | .sshl f => some (f, fun w a b k => decide (b % w ≤ k) && bitOf a (k - b % w))
  | .sshr f => some (f, fun w a b k => decide (k + b % w < w) && bitOf a (k + b % w))
  | .ssar f => some (f, fun w a b k => bitOf a (min (k + b % w) (w - 1)))
  | _ => none

end Sys2Proof.Claims

/-- R162 to R164: Each of thirteen scalar instructions leaves in its destination the result of its row, computed on the
sources cut to the type and extended to 64 bits; nothing else changes. -/
def Obligations.ScalarArithmetic : Prop :=
  ∀ i f op s, scaArith i = some (f, op) → Issues i f s →
    ∃ t, exec i s = .next t ∧ ScaResult i s t f.dst.toNat
      (spread f.mod (op (scaSigned f.mod) (scaW f.mod) (s.scalarSrc f.a).toNat (s.scalarSrc f.b).toNat))

/-- R162, R163, R165: The bitwise scalar instructions and shifts, bit for bit. SBFI replaces the field of D by the low
bits of A and keeps every other bit of the type; what a 32-bit form leaves above bit 31 is the model's choice, log
entry 73 (DESIGN CHOICE): the result is extended there. (That an SBFI of .i32 or .n32 spreads its result over the
whole register is the model's choice, log entry 73.) -/
def Obligations.ScalarBits : Prop :=
  (∀ i f bit s, scaBits i = some (f, bit) → Issues i f s →
    ∃ t v, exec i s = .next t ∧ ScaResult i s t f.dst.toNat (spread f.mod (v : Nat)) ∧
      ∀ k, k < scaW f.mod → bitOf v k = bit (scaW f.mod) (s.scalarSrc f.a).toNat (s.scalarSrc f.b).toNat k) ∧
  (∀ f s, Issues (.sbfi f) f s →
    ∃ t v, exec (.sbfi f) s = .next t ∧ ScaResult (.sbfi f) s t f.dst.toNat (spread f.mod (v : Nat)) ∧
      ∀ k, k < scaW f.mod →
        bitOf v k = inserted (scaW f.mod) (s.rdS f.dst.toNat).toNat (s.scalarSrc f.a).toNat (s.scalarSrc f.b).toNat k)

/-- R33 to R35, R45, R46, R163, R166: A scalar source is a register, a special register, a word of the constant bank, an
inline literal extended by its sign, or the literal word; a guest launch keeps the LAUNCHID its own module gave it; a
lane reads the low 32 bits of each, and of a vector register its own lane. SSEL, SLEA, SRDL and SGETS. SWRL writes one
lane of a register or pair, whatever the masks. -/
def Obligations.ScalarMoves : Prop :=
  (∀ (s : State) (n : BitVec 8) l, (n.toNat < 64 → s.src64 (.sca n) l = s.rdS n.toNat) ∧ ∀ v, specialOf s n.toNat = some v → s.src64 (.sca n) l = v) ∧
  (∀ (s : State) (k : BitVec 8) l, s.src64 (.cst k) l = Map.get 0 s.launch.bank k.toNat) ∧
  (∀ (s : State) (v : BitVec 8) l, (s.src64 (.lit v) l).toInt = v.toInt ∧ (s.src32 (.lit v) l).toInt = v.toInt) ∧
  (∀ (s : State) (w : Word) l, s.src64 (.litWord w) l = w) ∧
  (∀ (s : State) (r : BitVec 8) l, s.src32 (.reg r) l = s.grp.rdV r.toNat l ∧
    (s.src64 (.reg r) l).toNat = (s.grp.rdV (r.toNat + 1) l).toNat * 2 ^ 32 + (s.grp.rdV r.toNat l).toNat) ∧
  (∀ (s : State) x l, (∀ r, x ≠ .reg r) → (s.src32 x l).toNat = (s.scalarSrc x).toNat % 2 ^ 32) ∧
  (∀ f s, Issues (.ssel f) f s → ∃ t, exec (.ssel f) s = .next t ∧
    ScaResult (.ssel f) s t f.dst.toNat (if s.scalarSrc f.c = 0 then s.scalarSrc f.b else s.scalarSrc f.a)) ∧
  (∀ f s, Issues (.slea f) f s → ∃ t, exec (.slea f) s = .next t ∧
    ScaResult (.slea f) s t f.dst.toNat
      (.ofNat 64 ((s.scalarSrc f.a).toNat + (s.scalarSrc f.b).toNat * 2 ^ ((s.scalarSrc f.c).toNat % 64)))) ∧
  (∀ f r s, f.a = .reg r → Issues (.srdl f) f s → ∃ t, exec (.srdl f) s = .next t ∧
    ScaResult (.srdl f) s t f.dst.toNat
      (let k := (s.scalarSrc f.b).toNat % s.width
       let lo := (s.grp.rdV r.toNat k).toNat
       if scaW f.mod = 64 then .ofNat 64 ((s.grp.rdV (r.toNat + 1) k).toNat * 2 ^ 32 + lo) else spread f.mod lo)) ∧
  (∀ f s, Issues (.sgets f) f s → ∃ t, exec (.sgets f) s = .next t ∧
    ScaResult (.sgets f) s t f.dst.toNat
      (let sel := (s.scalarSrc f.a).toNat
       if sel = 0 then .ofNat 64 s.grp.slot
       else if sel = 1 then .ofNat 64 (s.team.col % 4)
       else if sel = 2 then .ofNat 64 s.curSplit
       else if sel = 3 then .ofNat 64 (s.grp.s0.live.toNat + s.grp.s1.live.toNat)
       else if 16 ≤ sel ∧ sel ≤ 31 then .ofNat 64 (s.rdM (sel - 16)).toNat
       else if 32 ≤ sel ∧ sel ≤ 47 then .ofNat 64 ((s.rdM (sel - 32)).toNat / 2 ^ 64)
       else 0)) ∧
  (∀ f s, Issues (.swrl f) f s → 0 < s.width → s.width ≤ 128 → ∃ t, exec (.swrl f) s = .next t ∧
    VecResult (.swrl f) s t (scaW f.mod == 64) f.dst.toNat [(s.scalarSrc f.b).toNat % s.width]
      fun _ => (s.scalarSrc f.a).toNat)

/-! ## Vector integer instructions (R167 to R170) -/

namespace Sys2Proof.Claims

/-- The types of MOD bits 2 to 0 (R37): .i32, .n32, .i16x2, .n16x2, .i8x4, .n8x4, .i64, .n64. -/
def vecTy (m : BitVec 10) : Nat := m.toNat % 8
def vecW (m : BitVec 10) : Nat :=
  if vecTy m < 2 then 32 else if vecTy m < 4 then 16 else if vecTy m < 6 then 8 else 64

/-- Elements of a lane, whether a pair is one element, and signedness. -/
def vecN (m : BitVec 10) : Nat := if vecTy m = 2 ∨ vecTy m = 3 then 2 else if vecTy m = 4 ∨ vecTy m = 5 then 4 else 1
def vecPair (m : BitVec 10) : Bool := decide (vecTy m = 6 ∨ vecTy m = 7)
def vecSigned (m : BitVec 10) : Bool := decide (vecTy m % 2 = 0)

/-- A source in a lane as one number: its 32 bits, or with a 64-bit type its 64 (R35, R167). -/
def laneOf (s : State) (m : BitVec 10) (x : Src) (l : Nat) : Nat :=
  if vecPair m then (s.src64 x l).toNat else (s.src32 x l).toNat

/-- Element `k` of a lane. -/
def el (w n k : Nat) : Nat := n / 2 ^ (w * k) % 2 ^ w

/-- The least and the greatest number of an element, and a result clamped to them (R170). -/
def least (sg : Bool) (w : Nat) : Int := if sg then -(2 : Int) ^ (w - 1) else 0
def most (sg : Bool) (w : Nat) : Int := if sg then (2 : Int) ^ (w - 1) - 1 else (2 : Int) ^ w - 1

/-- An exact result delivered: clamped with .sat (MOD bit 3), else wrapped modulo 2^w. -/
def deliver (m : BitVec 10) (w : Nat) (r : Int) : Int :=
  (if m.getLsbD 3 then max (least (vecSigned m) w) (min r (most (vecSigned m) w)) else r) % (2 : Int) ^ w

/-- The elementwise arithmetic of R168, exact. -/
def vecArith : Instr → Option (Fields × (Bool → Nat → Nat → Nat → Int))
  | .vmov f => some (f, fun sg w a _ => num sg w a)
  | .vadd f => some (f, fun sg w a b => num sg w a + num sg w b)
  | .vsub f => some (f, fun sg w a b => num sg w a - num sg w b)
  | .vmul f => some (f, fun sg w a b => num sg w a * num sg w b)
  | .vmulh f => some (f, fun sg w a b => num sg w a * num sg w b / 2 ^ w)
  | .vmin f => some (f, fun sg w a b => min (num sg w a) (num sg w b))
  | .vmax f => some (f, fun sg w a b => max (num sg w a) (num sg w b))
  | .vabs f => some (f, fun sg w a _ => (num sg w a).natAbs)
  | .vpopc f => some (f, fun _ w a _ => ones w a)
  | .vclz f => some (f, fun _ w a _ => leading w a)
  | .vbfe f => some (f, fun sg w a F => extract sg w a F)
  | .vdiv f => some (f, fun sg w a b => quotient (num sg w a) (num sg w b))
  | .vrem f => some (f, fun sg w a b => remainder (num sg w a) (num sg w b))
  | _ => none

/-- The bitwise vector instructions and shifts: bit `k` of a `w`-bit element. -/
def vecBits : Instr → Option (Fields × (Nat → Nat → Nat → Nat → Bool))
  | .vand f => some (f, fun _ a b k => bitOf a k && bitOf b k)
  | .vor f => some (f, fun _ a b k => bitOf a k || bitOf b k)
  | .vxor f => some (f, fun _ a b k => bitOf a k != bitOf b k)
  | .vandn f => some (f, fun _ a b k => bitOf a k && !bitOf b k)
  | .vshl f => some (f, fun w a b k => decide (b % w ≤ k) && bitOf a (k - b % w))
  | .vshr f => some (f, fun w a b k => decide (k + b % w < w) && bitOf a (k + b % w))
  | .vsar f => some (f, fun w a b k => bitOf a (min (k + b % w) (w - 1)))
  | .vbrev f => some (f, fun w a _ k => bitOf a (w - 1 - k))
  | _ => none

/-- Saturation belongs to VADD, VSUB, VMUL, VMAD and VABS (R168, R170). -/
def noSat (f : Fields) : Prop := f.mod.getLsbD 3 = false

end Sys2Proof.Claims

/-- R167, R168, R170: The elementwise arithmetic. Every element of every effective lane gets the exact result of its row,
wrapped or, with .sat, clamped; other lanes and everything else stay. The bitwise vector instructions, the shifts and
VBREV, bit for bit in every element. -/
def Obligations.VectorArithmetic : Prop :=
  (∀ i f op s, vecArith i = some (f, op) → Issues i f s →
    ∃ t v, exec i s = .next t ∧ VecResult i s t (vecPair f.mod) f.dst.toNat (s.effLanes f.msk.toNat) v ∧
      ∀ l ∈ s.effLanes f.msk.toNat, ∀ k, k < vecN f.mod → (el (vecW f.mod) (v l) k : Int) =
        deliver f.mod (vecW f.mod) (op (vecSigned f.mod) (vecW f.mod)
          (el (vecW f.mod) (laneOf s f.mod f.a l) k) (el (vecW f.mod) (laneOf s f.mod f.b l) k))) ∧
  (∀ i f bit s, vecBits i = some (f, bit) → noSat f → Issues i f s →
    ∃ t v, exec i s = .next t ∧ VecResult i s t (vecPair f.mod) f.dst.toNat (s.effLanes f.msk.toNat) v ∧
      ∀ l ∈ s.effLanes f.msk.toNat, ∀ k, k < vecN f.mod → ∀ j, j < vecW f.mod →
        bitOf (el (vecW f.mod) (v l) k) j = bit (vecW f.mod)
          (el (vecW f.mod) (laneOf s f.mod f.a l) k) (el (vecW f.mod) (laneOf s f.mod f.b l) k) j)

/-- R165, R168: VMAD, VBFI, VSEL, VLID and VBCAST. -/
def Obligations.VectorOthers : Prop :=
  (∀ f s, vecN f.mod = 1 → Issues (.vmad f) f s → ∃ t v, exec (.vmad f) s = .next t ∧
    VecResult (.vmad f) s t (vecPair f.mod) f.dst.toNat (s.effLanes f.msk.toNat) v ∧
    ∀ l ∈ s.effLanes f.msk.toNat, (v l : Int) = deliver f.mod (vecW f.mod)
      (let x (y : Src) : Int := num (vecSigned f.mod) (vecW f.mod) (laneOf s f.mod y l); x f.a * x f.b + x f.c)) ∧
  (∀ f s, vecN f.mod = 1 → Issues (.vbfi f) f s → ∃ t v, exec (.vbfi f) s = .next t ∧
    VecResult (.vbfi f) s t (vecPair f.mod) f.dst.toNat (s.effLanes f.msk.toNat) v ∧
    ∀ l ∈ s.effLanes f.msk.toNat, ∀ k, k < vecW f.mod → bitOf (v l) k =
      inserted (vecW f.mod) (laneOf s f.mod (.reg f.dst) l) (laneOf s f.mod f.a l) (laneOf s f.mod f.b l) k) ∧
  (∀ f r s, f.c = .reg r → Issues (.vsel f) f s → ∃ t, exec (.vsel f) s = .next t ∧
    VecResult (.vsel f) s t (vecPair f.mod) f.dst.toNat (s.effLanes f.msk.toNat)
      fun l => laneOf s f.mod (if (s.rdM r.toNat).getLsbD l then f.a else f.b) l) ∧
  (∀ f s, Issues (.vlid f) f s → ∃ t, exec (.vlid f) s = .next t ∧
    VecResult (.vlid f) s t false f.dst.toNat (s.effLanes f.msk.toNat) fun l => l) ∧
  (∀ f s, Issues (.vbcast f) f s → ∃ t, exec (.vbcast f) s = .next t ∧
    VecResult (.vbcast f) s t (vecPair f.mod) f.dst.toNat (s.effLanes f.msk.toNat)
      fun l => laneOf s f.mod f.a (laneOf s f.mod f.b l % s.width))

/-- R169: VCMP writes the comparison of its element pair into bit `l` of its mask for each effective lane `l` and keeps
every other bit of the mask; a word whose destination is not a mask register 1 to 15 does not decode to it. -/
def Obligations.VectorCompare : Prop :=
  (∀ f s, 0 < f.dst.toNat → vecN f.mod = 1 → Issues (.vcmp f) f s →
    ∃ t v, exec (.vcmp f) s = .next t ∧ MaskResult (.vcmp f) s t f.dst.toNat v ∧
      ∀ l, l < 128 → v.getLsbD l = (decide (l < s.width) && if l ∈ s.effLanes f.msk.toNat then
        condHolds (f.mod.toNat / 16 % 16) (num (vecSigned f.mod) (vecW f.mod) (laneOf s f.mod f.a l))
          (num (vecSigned f.mod) (vecW f.mod) (laneOf s f.mod f.b l))
        else (s.rdM f.dst.toNat).getLsbD l)) ∧
  (∀ w lit f, decode w lit = .ok (.vcmp f) → 1 ≤ f.dst.toNat ∧ f.dst.toNat ≤ 15 ∧ vecN f.mod = 1)

/-! ## Masks (R171) and lanes that cooperate (R172 to R176) -/

namespace Sys2Proof.Claims

def maskLogicOp : Instr → Option (Fields × (Bool → Bool → Bool))
  | .mmov f => some (f, fun a _ => a)
  | .mand f => some (f, fun a b => a && b)
  | .mor f => some (f, fun a b => a || b)
  | .mxor f => some (f, fun a b => a != b)
  | .mandn f => some (f, fun a b => a && !b)
  | .mnot f => some (f, fun a _ => !a)
  | _ => none

/-- The lane-cooperative instructions but STCOMP (R172). -/
def cooperates : Instr → Option Fields
  | .vshfl f => some f
  | .vred f => some f
  | .vscan f => some f
  | .vcomp f => some f
  | .ballot f => some f
  | .mrank f => some f
  | _ => none

/-- The membership of an instruction, and that it lies inside M0 (R172). -/
def membership (s : State) (f : Fields) : Mask := if f.msk = 0 then s.rdM 0 else s.rdM f.msk.toNat
abbrev MembersOk (s : State) (f : Fields) : Prop := membership s f &&& ~~~s.rdM 0 = 0

/-- The source lane of VSHFL, by its mode (R174). -/
def shuffled (mode l b : Nat) : Int :=
  if mode = 0 then b else if mode = 1 then (l : Int) - b else if mode = 2 then (l : Int) + b else ((l ^^^ b : Nat) : Int)

/-- What VRED computes over a list of lanes, by its operation code (R175): add, min, max, and, or, xor. -/
def reduction (f : Fields) (v : Nat → Nat) (ls : List Nat) : Int :=
  let w := vecW f.mod
  let x (l : Nat) : Int := num (vecSigned f.mod) w (v l)
  let bits (op : Nat → Nat → Nat) (e : Nat) : Int := ((ls.map v).foldl op e : Nat)
  match f.mod.toNat / 16 % 16 with
  | 0 => (ls.map x).sum
  | 1 => (ls.map x).foldl min (most (vecSigned f.mod) w)
  | 2 => (ls.map x).foldl max (least (vecSigned f.mod) w)
  | 3 => bits (· &&& ·) (2 ^ w - 1)
  | 4 => bits (· ||| ·) 0
  | _ => bits (· ^^^ ·) 0

end Sys2Proof.Claims

/-- R171: The mask instructions, lane by lane over the width. MPOPC counts ones, MFIRST finds the lowest lane, MSETS fills
a mask from two scalars. -/
def Obligations.Masks : Prop :=
  (∀ i f op ra rb s, maskLogicOp i = some (f, op) → f.a = .reg ra → f.b = .reg rb → 0 < f.dst.toNat → Issues i f s →
    ∃ t v, exec i s = .next t ∧ MaskResult i s t f.dst.toNat v ∧
      ∀ l, l < 128 → v.getLsbD l =
        (decide (l < s.width) && op ((s.rdM ra.toNat).getLsbD l) ((s.rdM rb.toNat).getLsbD l))) ∧
  (∀ f r s, f.a = .reg r → Issues (.mpopc f) f s → ∃ t, exec (.mpopc f) s = .next t ∧
    ScaResult (.mpopc f) s t f.dst.toNat (.ofNat 64 ((List.range 128).countP fun l => (s.rdM r.toNat).getLsbD l))) ∧
  (∀ f r s, f.a = .reg r → Issues (.mfirst f) f s → ∃ t v, exec (.mfirst f) s = .next t ∧
    ScaResult (.mfirst f) s t f.dst.toNat v ∧
    ((s.rdM r.toNat = 0 ∧ v = 0xFFFFFFFFFFFFFFFF#64) ∨
      ((s.rdM r.toNat).getLsbD v.toNat = true ∧ ∀ l, l < v.toNat → (s.rdM r.toNat).getLsbD l = false))) ∧
  (∀ f s, 0 < f.dst.toNat → Issues (.msets f) f s → ∃ t v, exec (.msets f) s = .next t ∧
    MaskResult (.msets f) s t f.dst.toNat v ∧ ∀ l, l < 128 → v.getLsbD l = (decide (l < s.width) &&
      if l < 64 then (s.scalarSrc f.a).getLsbD l else (s.scalarSrc f.b).getLsbD (l - 64)))

/-- R172 to R176: The lane-cooperative instructions on their participants. VSHFL takes the lane its mode names when that
lane takes part, else its own; VRED gives every participant the reduction over all, VSCAN over those below it (and
itself, unless .ex); VCOMP packs the participants' values downward; BALLOT gathers the non-zero lanes; MRANK counts
the ones of a mask below each lane. A membership that holds a lane outside M0 is fault 0x04 naming the lowest such
lane; no register, mask or byte of memory changes, and the program counter stays. -/
def Obligations.LanesCooperate : Prop :=
  (∀ f s, Issues (.vshfl f) f s → MembersOk s f → ∃ t, exec (.vshfl f) s = .next t ∧
    VecResult (.vshfl f) s t (vecPair f.mod) f.dst.toNat (s.effLanes f.msk.toNat) fun (l : Nat) =>
      let b : Nat := (s.src32 f.b l).toNat
      let j := shuffled (f.mod.toNat / 16 % 4) l b
      laneOf s f.mod f.a (if 0 ≤ j ∧ j.toNat ∈ s.effLanes f.msk.toNat then j.toNat else l)) ∧
  (∀ f s, vecN f.mod = 1 → Issues (.vred f) f s → MembersOk s f → ∃ t v, exec (.vred f) s = .next t ∧
    VecResult (.vred f) s t (vecPair f.mod) f.dst.toNat (s.effLanes f.msk.toNat) v ∧
    ∀ l ∈ s.effLanes f.msk.toNat, (v l : Int) =
      deliver f.mod (vecW f.mod) (reduction f (laneOf s f.mod f.a) (s.effLanes f.msk.toNat))) ∧
  (∀ f s, vecN f.mod = 1 → Issues (.vscan f) f s → MembersOk s f → ∃ t v, exec (.vscan f) s = .next t ∧
    VecResult (.vscan f) s t (vecPair f.mod) f.dst.toNat (s.effLanes f.msk.toNat) v ∧
    ∀ l ∈ s.effLanes f.msk.toNat, (v l : Int) = deliver f.mod (vecW f.mod) (reduction f (laneOf s f.mod f.a)
      ((s.effLanes f.msk.toNat).filter fun p => if f.mod.getLsbD 8 then p < l else p ≤ l))) ∧
  (∀ f s, Issues (.vcomp f) f s → MembersOk s f → ∃ t, exec (.vcomp f) s = .next t ∧
    VecResult (.vcomp f) s t (vecPair f.mod) f.dst.toNat (List.range (s.effLanes f.msk.toNat).length)
      fun k => laneOf s f.mod f.a ((s.effLanes f.msk.toNat).getD k 0)) ∧
  (∀ f s, 0 < f.dst.toNat → Issues (.ballot f) f s → MembersOk s f → ∃ t v, exec (.ballot f) s = .next t ∧
    MaskResult (.ballot f) s t f.dst.toNat v ∧
    ∀ l, l < 128 → v.getLsbD l = decide (l ∈ s.effLanes f.msk.toNat ∧ s.src32 f.a l ≠ 0)) ∧
  (∀ f r s, f.a = .reg r → Issues (.mrank f) f s → MembersOk s f → ∃ t, exec (.mrank f) s = .next t ∧
    VecResult (.mrank f) s t false f.dst.toNat (s.effLanes f.msk.toNat)
      fun l => (List.range l).countP fun k => (s.rdM r.toNat).getLsbD k) ∧
  (∀ i f s, cooperates i = some f → Issues i f s → ¬MembersOk s f →
    ∃ t e, exec i s = .next t ∧ t = s.stopAt s.cur s.curSplit s.split.pc false e ∧ e.code = 0x04 ∧
      ((∃ l, l < s.width ∧ (membership s f &&& ~~~s.rdM 0).getLsbD l = true) →
        (membership s f &&& ~~~s.rdM 0).getLsbD e.lane = true ∧
          ∀ l, l < e.lane → (membership s f &&& ~~~s.rdM 0).getLsbD l = false))

/-! ## Floating point (R51 to R57, R177 to R183) -/

namespace Sys2Proof.Claims

/-- The formats of the vector unit: .f32, .f64, .bf16x2, .f16x2 (MOD bits 1 to 0). -/
def floatFmt (m : BitVec 10) : Fmt :=
  if m.toNat % 4 = 0 then fF32 else if m.toNat % 4 = 1 then fF64 else if m.toNat % 4 = 2 then fBf16 else fF16
def floatPair (m : BitVec 10) : Bool := decide (m.toNat % 4 = 1)
def floatN (m : BitVec 10) : Nat := if m.toNat % 4 < 2 then 1 else 2
abbrev vectorFormats : List Fmt := [fF32, fF64, fBf16, fF16]

/-- Sign, magnitude and kind of a code (R51). -/
def negOf (F : Fmt) (c : Nat) : Bool := bitOf c (F.w - 1)
def magOf (F : Fmt) (c : Nat) : Nat := c % 2 ^ (F.w - 1)
def isNan (F : Fmt) (c : Nat) : Bool := decide (F.top + 1 < magOf F c)
def isInf (F : Fmt) (c : Nat) : Bool := decide (magOf F c = F.top + 1)
def isZero (F : Fmt) (c : Nat) : Bool := decide (magOf F c = 0)
def signBit (F : Fmt) (neg : Bool) : Nat := if neg then 2 ^ (F.w - 1) else 0
def infCode (F : Fmt) (neg : Bool) : Nat := signBit F neg + F.top + 1

/-- The canonical quiet NaN. -/
def nanCode (F : Fmt) : Nat := F.top + 1 + 2 ^ (F.mb - 1)

/-- A magnitude code as a number of the format's least subnormals, of which 1 has 2^`scaleOf`. The exponent is not
bounded above. -/
def units (F : Fmt) (mag : Nat) : Nat :=
  if mag / 2 ^ F.mb = 0 then mag else (2 ^ F.mb + mag % 2 ^ F.mb) * 2 ^ (mag / 2 ^ F.mb - 1)
def scaleOf (F : Fmt) : Nat := F.bias + F.mb - 1
def signedUnits (F : Fmt) (c : Nat) : Int := if negOf F c then -(units F (magOf F c) : Int) else units F (magOf F c)

/-- The direction (0 .rn, 1 .rz, 2 .ru, 3 .rd) rounds a number of this sign toward zero, or away from it. -/
def towardZero (d : Nat) (neg : Bool) : Bool := d = 1 || (d = 2 && neg) || (d = 3 && !neg)

/-- The magnitude num/den, in least subnormals, rounds to the code `mag`: to the nearest with ties to even, or to the
neighbour in the direction's sense. -/
def RoundsTo (F : Fmt) (d : Nat) (neg : Bool) (num den mag : Nat) : Prop :=
  if d = 0 then
    (2 * num < (units F mag + units F (mag + 1)) * den ∨ (2 * num = (units F mag + units F (mag + 1)) * den ∧ mag % 2 = 0)) ∧
    (mag = 0 ∨ (units F (mag - 1) + units F mag) * den < 2 * num ∨
      ((units F (mag - 1) + units F mag) * den = 2 * num ∧ mag % 2 = 0))
  else if towardZero d neg then units F mag * den ≤ num ∧ num < units F (mag + 1) * den
  else num ≤ units F mag * den ∧ (mag = 0 ∨ units F (mag - 1) * den < num)

/-- A finite non-zero result delivered: rounded once, or what an overflow gives (R57, R177). -/
def Delivered (F : Fmt) (d : Nat) (sat neg : Bool) (num den c : Nat) : Prop :=
  ∃ mag, RoundsTo F d neg num den mag ∧
    c = signBit F neg + if F.top < mag then (if sat || towardZero d neg then F.top else F.top + 1) else mag

/-- `c` is A + B. -/
def SumIs (F : Fmt) (d : Nat) (sat : Bool) (a b c : Nat) : Prop :=
  let x := signedUnits F a + signedUnits F b
  if isNan F a || isNan F b || (isInf F a && isInf F b && negOf F a != negOf F b) then c = nanCode F
  else if isInf F a then c = infCode F (negOf F a)
  else if isInf F b then c = infCode F (negOf F b)
  else if x = 0 then c = signBit F ((negOf F a && negOf F b) || (d = 3 && (negOf F a || negOf F b)))
  else Delivered F d sat (x < 0) x.natAbs 1 c

/-- `c` is A × B. -/
def ProductIs (F : Fmt) (d : Nat) (sat : Bool) (a b c : Nat) : Prop :=
  let neg := negOf F a != negOf F b
  if isNan F a || isNan F b || (isInf F a && isZero F b) || (isZero F a && isInf F b) then c = nanCode F
  else if isInf F a || isInf F b then c = infCode F neg
  else if isZero F a || isZero F b then c = signBit F neg
  else Delivered F d sat neg (units F (magOf F a) * units F (magOf F b)) (2 ^ scaleOf F) c

/-- `c` is A / B. -/
def QuotientIs (F : Fmt) (d : Nat) (sat : Bool) (a b c : Nat) : Prop :=
  let neg := negOf F a != negOf F b
  if isNan F a || isNan F b || (isInf F a && isInf F b) || (isZero F a && isZero F b) then c = nanCode F
  else if isInf F a || isZero F b then c = infCode F neg
  else if isInf F b || isZero F a then c = signBit F neg
  else Delivered F d sat neg (units F (magOf F a) * 2 ^ scaleOf F) (units F (magOf F b)) c

/-! Exact values, for what is not said in least subnormals. -/

/-- What a code stands for: no number, an infinity, or a sign and a magnitude. -/
inductive Val where
  | nan
  | inf (neg : Bool)
  | num (neg : Bool) (q : Rat)

/-- The value of a magnitude code, its exponent not bounded above. -/
def size (F : Fmt) (mag : Nat) : Rat := (units F mag : Rat) / (2 : Rat) ^ scaleOf F

/-- The value of a code; the formats without infinities have none, and e4m3 alone of them a NaN (R54). -/
def valOf (F : Fmt) (c : Nat) : Val :=
  if magOf F c ≤ F.top then .num (negOf F c) (size F (magOf F c))
  else if F.kind = .ieee ∧ magOf F c = F.top + 1 then .inf (negOf F c) else .nan
def ofInt (x : Int) : Val := .num (x < 0) x.natAbs

def Val.neg : Val → Bool
  | .nan => false
  | .inf n => n
  | .num n _ => n
def Val.isZero : Val → Bool
  | .num _ q => q == 0
  | _ => false
def Val.isNan : Val → Bool
  | .nan => true
  | _ => false
def Val.isInf : Val → Bool
  | .inf _ => true
  | _ => false

/-- A number with its sign. -/
def Val.signed : Val → Rat
  | .num n q => if n then -q else q
  | _ => 0

/-- The exact product. -/
def Val.times (x y : Val) : Val :=
  if x.isNan || y.isNan || (x.isInf && y.isZero) || (x.isZero && y.isInf) then .nan
  else if x.isInf || y.isInf then .inf (x.neg != y.neg)
  else .num (x.neg != y.neg) (x.signed.abs * y.signed.abs)

/-- The exact quotient. -/
def Val.over (x y : Val) : Val :=
  if x.isNan || y.isNan || (x.isInf && y.isInf) || (x.isZero && y.isZero) then .nan
  else if x.isInf || y.isZero then .inf (x.neg != y.neg)
  else if y.isInf then .num (x.neg != y.neg) 0
  else .num (x.neg != y.neg) (x.signed.abs / y.signed.abs)

/-- The exact sum of addends (R52, R61). A sum of zero is −0 when every addend is negative, and toward −∞ when some is. -/
def total (xs : List Val) (down : Bool) : Val :=
  if xs.any Val.isNan || (xs.any (fun x => x.isInf && x.neg) && xs.any fun x => x.isInf && !x.neg) then .nan
  else if xs.any Val.isInf then .inf (xs.any fun x => x.isInf && x.neg)
  else
    let sum := xs.foldl (fun r x => r + x.signed) 0
    if sum = 0 then .num ((!xs.isEmpty && xs.all Val.neg) || (down && xs.any Val.neg)) 0 else .num (sum < 0) sum.abs

/-- The magnitude `q` rounds to the code `mag`, as `RoundsTo` says it. -/
def Nearest (F : Fmt) (d : Nat) (neg : Bool) (q : Rat) (mag : Nat) : Prop :=
  if d = 0 then
    (2 * q < size F mag + size F (mag + 1) ∨ (2 * q = size F mag + size F (mag + 1) ∧ mag % 2 = 0)) ∧
    (mag = 0 ∨ size F (mag - 1) + size F mag < 2 * q ∨ (size F (mag - 1) + size F mag = 2 * q ∧ mag % 2 = 0))
  else if towardZero d neg then size F mag ≤ q ∧ q < size F (mag + 1)
  else q ≤ size F mag ∧ (mag = 0 ∨ size F (mag - 1) < q)

/-- The magnitude `q` rounds to the natural number `n`. -/
def Whole (d : Nat) (neg : Bool) (q : Rat) (n : Nat) : Prop :=
  if d = 0 then (2 * q < 2 * n + 1 ∨ (2 * q = 2 * n + 1 ∧ n % 2 = 0)) ∧ (2 * n < 2 * q + 1 ∨ (2 * n = 2 * q + 1 ∧ n % 2 = 0))
  else if towardZero d neg then n ≤ q ∧ q < n + 1
  else q ≤ n ∧ n < q + 1

/-- What lies beyond the largest finite value gives (R57). -/
def beyond (F : Fmt) (d : Nat) (sat neg : Bool) : Nat :=
  let most := signBit F neg + F.top
  if sat || towardZero d neg || F.kind == .finite then most else if F.kind = .e4m3 then 0x7F else most + 1

/-- `c` is an exact value rounded once into a format (R57). -/
def Gives (F : Fmt) (d : Nat) (sat : Bool) (v : Val) (c : Nat) : Prop :=
  match v with
  | .nan => c = if F.kind = .ieee then nanCode F else if F.kind = .e4m3 then 0x7F else 0
  | .inf neg => c = if F.kind = .ieee then infCode F neg else beyond F d sat neg
  | .num neg q => (q = 0 → c = signBit F neg) ∧
      (q ≠ 0 → ∃ mag, Nearest F d neg q mag ∧ c = if F.top < mag then beyond F d sat neg else signBit F neg + mag)

/-- `n` is an exact value rounded to an integer and clamped (R57). -/
def GivesInt (d : Nat) (lo hi : Int) (v : Val) (n : Int) : Prop :=
  match v with
  | .nan => n = 0
  | .inf neg => n = if neg then lo else hi
  | .num neg q => ∃ m : Nat, Whole d neg q m ∧ n = max lo (min hi (if neg then -(m : Int) else m))

/-- The integer, t2 and b1 elements by code (R54, R135): the number one stands for, and the range of a format. -/
def elementInt (e b : Nat) : Int :=
  if e = 10 then num true 8 b else if e = 11 then num false 8 b else if e = 12 then num true 4 b else if e = 13 then num false 4 b
  else if e = 14 then (if b % 4 = 1 then 1 else if b % 4 = 3 then -1 else 0) else if b % 2 = 1 then 1 else -1
def elementRange (e : Nat) : Int × Int :=
  if e = 10 then (-128, 127) else if e = 11 then (0, 255) else if e = 12 then (-8, 7) else if e = 13 then (0, 15) else (-1, 1)

/-- The value of an element; an f19 is its 32-bit container. -/
def elementVal (e b : Nat) : Val :=
  match elemFmt? e with
  | some F => valOf F (if e = 2 then b / 2 ^ 13 else b)
  | none => ofInt (elementInt e b)

/-- `c` is an exact value converted to an element (R57). -/
def GivesElement (e d : Nat) (sat : Bool) (v : Val) (c : Nat) : Prop :=
  match elemFmt? e with
  | some F => ∃ k, Gives F d sat v k ∧ c = if e = 2 then k * 2 ^ 13 else k
  | none => if e = 15 then c = (if v.neg then 0 else 1)
    else ∃ n, GivesInt d (elementRange e).1 (elementRange e).2 v n ∧ c = (n % 2 ^ elemW e).toNat

/-- The modifiers of R177 on an element: absolute value, then negation. -/
def modified (F : Fmt) (ab ng : Bool) (c : Nat) : Nat :=
  signBit F ((negOf F c && !ab) != ng) + magOf F c

/-- The elementwise floating instructions, code to code. `rnd` and `sat` are MOD bits 3 to 2 and 4. -/
def floatOp : Instr → Option (Fields × (Nat → Fmt → Rnd → Bool → Nat → Nat → Nat))
  | .fadd f => some (f, fun _ F d sat a b => fAdd d sat F a b)
  | .fsub f => some (f, fun _ F d sat a b => fSub d sat F a b)
  | .fmul f => some (f, fun _ F d sat a b => fMul d sat F a b)
  | .fdiv f => some (f, fun _ F d sat a b => fDiv d sat F a b)
  | .fmin f => some (f, fun _ F _ _ a b => fMinMax false F a b)
  | .fmax f => some (f, fun _ F _ _ a b => fMinMax true F a b)
  | .frnd f => some (f, fun _ F d _ a _ => fRound d F a)
  | .fsqrt f => some (f, fun _ F d _ a _ => F.deliver d false (sqrtEx (F.decode a)))
  | .frcp f => some (f, fun ty F _ _ a _ => fRcp ty F a)
  | .frsq f => some (f, fun ty F _ _ a _ => fRsq ty F a)
  | .fexp2 f => some (f, fun ty F _ _ a _ => fExp2 ty F a)
  | .flog2 f => some (f, fun ty F _ _ a _ => fLog2 ty F a)
  | .fsin f => some (f, fun ty F _ _ a _ => fSin ty F a)
  | .fcos f => some (f, fun ty F _ _ a _ => fCos ty F a)
  | .ftanh f => some (f, fun ty F _ _ a _ => fTanh ty F a)
  | _ => none

def rndOf (n : Nat) : Rnd := if n = 0 then .rn else if n = 1 then .rz else if n = 2 then .ru else .rd

/-- A source in a lane of a floating type as one number. -/
def floatLane (s : State) (m : BitVec 10) (x : Src) (l : Nat) : Nat :=
  if floatPair m then (s.src64 x l).toNat else (s.src32 x l).toNat

/-- The order of two codes neither of which is a NaN, by value. -/
def valueOf (F : Fmt) (c : Nat) : Int :=
  if isInf F c then (if negOf F c then -(units F (F.top + 1) : Int) else units F (F.top + 1)) else signedUnits F c

/-- The floating conditions of R38 by their codes: six ordered ones, the same six or unordered, ord, uno. -/
def floatCond (F : Fmt) (c a b : Nat) : Bool :=
  let un := isNan F a || isNan F b
  if c < 6 then !un && condHolds c (valueOf F a) (valueOf F b)
  else if c < 12 then un || condHolds (c - 6) (valueOf F a) (valueOf F b)
  else if c = 12 then !un else un

/-- The class of a code (R179). -/
def classOf (F : Fmt) (c : Nat) : Nat :=
  if isNan F c then (if bitOf c (F.mb - 1) then 1 else 0)
  else if isInf F c then (if negOf F c then 2 else 9)
  else if isZero F c then (if negOf F c then 5 else 6)
  else if magOf F c < 2 ^ F.mb then (if negOf F c then 4 else 7)
  else if negOf F c then 3 else 8

end Sys2Proof.Claims

/-- R53, R177, R178: The elementwise floating instructions. Every element of every effective lane gets its operation's
result on the sources with their modifiers; what the operations compute, this statement says of FRND and other
statements of the others. FRND gives the integral value its direction names, with the sign of A, which is its own
result where it is zero or infinite. -/
def Obligations.FloatElementwise : Prop :=
  (∀ i f op s, floatOp i = some (f, op) → Issues i f s →
    ∃ t v, exec i s = .next t ∧ VecResult i s t (floatPair f.mod) f.dst.toNat (s.effLanes f.msk.toNat) v ∧
      ∀ l ∈ s.effLanes f.msk.toNat, ∀ k, k < floatN f.mod →
        let F := floatFmt f.mod
        el F.w (v l) k = op (f.mod.toNat % 4) F (rndOf (f.mod.toNat / 4 % 4)) (f.mod.getLsbD 4)
          (modified F (f.mod.getLsbD 6) (f.mod.getLsbD 7) (el F.w (floatLane s f.mod f.a l) k))
          (modified F (f.mod.getLsbD 8) (f.mod.getLsbD 9) (el F.w (floatLane s f.mod f.b l) k)) % 2 ^ F.w) ∧
  (∀ F ∈ vectorFormats, ∀ d a, d < 4 → a < 2 ^ F.w →
    let c := fRound (rndOf d) F a
    (isNan F a = true → c = nanCode F) ∧ ((isInf F a || isZero F a) = true → c = a) ∧
    (isNan F a = false → isInf F a = false → ∃ n mag, Whole d (negOf F a) (size F (magOf F a)) n ∧ mag ≤ F.top ∧ size F mag = n ∧
      c = signBit F (negOf F a) + mag))

/-- R52, R53, R57, R178: A sum is exact and rounded once, in every format and direction; NaNs are canonical, an exact zero
has the sign IEEE 754 gives it. FSUB adds B with its sign turned. A product and a quotient are exact and rounded once.
FSQRT: the root of −0 is −0, a negative number gives NaN, and a positive one its root correctly rounded (the root r of
x satisfies r² = x, in squares of least subnormals). -/
def Obligations.FloatRounding : Prop :=
  (∀ F ∈ vectorFormats, ∀ d sat a b, d < 4 → a < 2 ^ F.w → b < 2 ^ F.w →
    SumIs F d sat a b (fAdd (rndOf d) sat F a b) ∧
    SumIs F d sat a (signBit F (!negOf F b) + magOf F b) (fSub (rndOf d) sat F a b)) ∧
  (∀ F ∈ vectorFormats, ∀ d sat a b, d < 4 → a < 2 ^ F.w → b < 2 ^ F.w →
    ProductIs F d sat a b (fMul (rndOf d) sat F a b) ∧ QuotientIs F d sat a b (fDiv (rndOf d) sat F a b)) ∧
  (∀ F ∈ vectorFormats, ∀ d a, d < 4 → a < 2 ^ F.w →
    let c := F.deliver (rndOf d) false (sqrtEx (F.decode a))
    if isNan F a || (negOf F a && !isZero F a) then c = nanCode F
    else if isZero F a || isInf F a then c = a
    else
      let x := units F (magOf F a) * 2 ^ scaleOf F
      if d = 0 then (units F (c - 1) + units F c) ^ 2 < 4 * x ∧ 4 * x < (units F c + units F (c + 1)) ^ 2
      else if d = 2 then units F (c - 1) ^ 2 < x ∧ x ≤ units F c ^ 2
      else units F c ^ 2 ≤ x ∧ x < units F (c + 1) ^ 2)

/-- R178, R179: FMIN and FMAX return one of their inputs bit for bit, the lesser or the greater, −0 below +0; a NaN loses
to a number, and two NaNs give the canonical one. FFMA, the exact product plus C rounded once; FCMP; FCLASS; FSCALE, A
× 2^B rounded once. -/
def Obligations.FloatOthers : Prop :=
  (∀ F ∈ vectorFormats, ∀ mx a b, a < 2 ^ F.w → b < 2 ^ F.w →
    let c := fMinMax mx F a b
    if isNan F a && isNan F b then c = nanCode F
    else if isNan F a then c = b
    else if isNan F b then c = a
    else
      let aFirst := decide (valueOf F a < valueOf F b) || (decide (valueOf F a = valueOf F b) && (negOf F a || !negOf F b))
      c = if aFirst != mx then a else b) ∧
  (∀ f s, Issues (.ffma f) f s → ∃ t v, exec (.ffma f) s = .next t ∧
    VecResult (.ffma f) s t (floatPair f.mod) f.dst.toNat (s.effLanes f.msk.toNat) v ∧
    ∀ l ∈ s.effLanes f.msk.toNat, ∀ k, k < floatN f.mod →
      let F := floatFmt f.mod
      let a := modified F (f.mod.getLsbD 6) (f.mod.getLsbD 7) (el F.w (floatLane s f.mod f.a l) k)
      let b := modified F (f.mod.getLsbD 8) (f.mod.getLsbD 9) (el F.w (floatLane s f.mod f.b l) k)
      let c := modified F false (f.mod.getLsbD 5) (el F.w (floatLane s f.mod f.c l) k)
      let d := f.mod.toNat / 4 % 4
      Gives F d (f.mod.getLsbD 4) (total [(valOf F a).times (valOf F b), valOf F c] (d = 3)) (el F.w (v l) k)) ∧
  (∀ f s, 0 < f.dst.toNat → floatN f.mod = 1 → Issues (.fcmp f) f s →
    ∃ t v, exec (.fcmp f) s = .next t ∧ MaskResult (.fcmp f) s t f.dst.toNat v ∧
      ∀ l, l < 128 → v.getLsbD l = (decide (l < s.width) && if l ∈ s.effLanes f.msk.toNat then
        (let F := floatFmt f.mod
         floatCond F (f.mod.toNat / 4 % 16) (modified F (f.mod.getLsbD 6) (f.mod.getLsbD 7) (floatLane s f.mod f.a l))
          (modified F (f.mod.getLsbD 8) (f.mod.getLsbD 9) (floatLane s f.mod f.b l)))
        else (s.rdM f.dst.toNat).getLsbD l)) ∧
  (∀ f s, Issues (.fclass f) f s → ∃ t v, exec (.fclass f) s = .next t ∧
    VecResult (.fclass f) s t false f.dst.toNat (s.effLanes f.msk.toNat) v ∧
    ∀ l ∈ s.effLanes f.msk.toNat, ∀ k, k < 2 → el 16 (v l) k =
      if k < floatN f.mod then 2 ^ classOf (floatFmt f.mod) (el (floatFmt f.mod).w (floatLane s f.mod f.a l) k) else 0) ∧
  (∀ f s, floatN f.mod = 1 → Issues (.fscale f) f s → ∃ t v, exec (.fscale f) s = .next t ∧
    VecResult (.fscale f) s t (floatPair f.mod) f.dst.toNat (s.effLanes f.msk.toNat) v ∧
    ∀ l ∈ s.effLanes f.msk.toNat,
      let F := floatFmt f.mod
      let a := valOf F (modified F (f.mod.getLsbD 6) (f.mod.getLsbD 7) (floatLane s f.mod f.a l))
      Gives F (f.mod.toNat / 4 % 4) (f.mod.getLsbD 4) (a.times (.num false ((2 : Rat) ^ (s.src32 f.b l).toInt))) (v l))

/-- R180: The special and the exact values of the approximated functions, whatever the part's choice within their error
bounds (log entry 3): FSIN and FCOS at multiples of a quarter turn; for .f32, FEXP2 at integers and FLOG2 at powers of
two. FRCP lies within one unit in the last place. -/
def Obligations.ApproximatedSpecials : Prop :=
  ∀ ty F, (ty, F) ∈ [(0, fF32), (1, fF64), (2, fBf16), (3, fF16)] → ∀ a, a < 2 ^ F.w →
    let one := F.bias * 2 ^ F.mb
    (isNan F a = true → [fRcp ty F a, fRsq ty F a, fExp2 ty F a, fLog2 ty F a, fSin ty F a, fCos ty F a, fTanh ty F a] =
      List.replicate 7 (nanCode F)) ∧
    (isZero F a = true → fRcp ty F a = infCode F (negOf F a) ∧ fRsq ty F a = infCode F (negOf F a) ∧
      fLog2 ty F a = infCode F true ∧ fSin ty F a = a ∧ fTanh ty F a = a ∧ fCos ty F a = one) ∧
    (isInf F a = true → fRcp ty F a = signBit F (negOf F a) ∧ fRsq ty F a = (if negOf F a then nanCode F else 0) ∧
      fExp2 ty F a = (if negOf F a then 0 else infCode F false) ∧
      fLog2 ty F a = (if negOf F a then nanCode F else infCode F false) ∧
      fSin ty F a = nanCode F ∧ fCos ty F a = nanCode F ∧ fTanh ty F a = signBit F (negOf F a) + one) ∧
    (negOf F a = true → isNan F a = false → isZero F a = false → fRsq ty F a = nanCode F ∧ fLog2 ty F a = nanCode F) ∧
    (∀ j : Nat, isNan F a = false → isInf F a = false → 4 * size F (magOf F a) = j →
      let neg := negOf F a
      fSin ty F a = (if j % 4 = 0 then signBit F neg else if j % 4 = 1 then signBit F neg + one else if j % 4 = 2 then 0 else signBit F (!neg) + one) ∧
      fCos ty F a = (if j % 4 = 0 then one else if j % 4 = 2 then signBit F true + one else 0)) ∧
    (isNan F a = false → isInf F a = false → isZero F a = false → ∃ mag, fRcp ty F a = signBit F (negOf F a) + mag ∧ mag ≤ F.top + 1 ∧
      size F (mag - 1) ≤ 1 / size F (magOf F a) ∧ (mag ≤ F.top → 1 / size F (magOf F a) ≤ size F (mag + 1))) ∧
    (∀ n : Nat, ty = 0 → isNan F a = false → isInf F a = false → size F (magOf F a) = n →
      (negOf F a = false → n ≤ 127 → fExp2 ty F a = (127 + n) * 2 ^ 23) ∧
      (negOf F a = true → n ≤ 126 → fExp2 ty F a = (127 - n) * 2 ^ 23) ∧
      (negOf F a = true → 127 ≤ n → n ≤ 149 → fExp2 ty F a = 2 ^ (149 - n))) ∧
    (∀ n : Nat, ty = 0 → (1 ≤ n → n ≤ 254 → a = n * 2 ^ 23 → valOf F (fLog2 ty F a) = ofInt ((n : Int) - 127)) ∧
      (n < 23 → a = 2 ^ n → valOf F (fLog2 ty F a) = ofInt ((n : Int) - 149)))

namespace Sys2Proof.Claims

/-- CVT's types by code (R181): 64-bit ones, the formats of 4 to 7, and the width, signedness and range of the integers 0 to 3. -/
def cvtWide (t : Nat) : Bool := t = 2 || t = 3 || t = 5
def cvtFormat (t : Nat) : Fmt := if t = 4 then fF32 else if t = 5 then fF64 else if t = 6 then fBf16 else fF16
def cvtBits (t : Nat) : Nat := if t < 2 then 32 else 64
def cvtLo (t : Nat) : Int := if t % 2 = 0 then -2 ^ (cvtBits t - 1) else 0
def cvtHi (t : Nat) : Int := if t % 2 = 0 then 2 ^ (cvtBits t - 1) - 1 else 2 ^ cvtBits t - 1

/-- `c` is the conversion of `a` from type `st` to type `dt`. -/
def Converts (dt st d : Nat) (sat : Bool) (a c : Nat) : Prop :=
  let x := num (st % 2 = 0) (cvtBits st) a
  if dt < 4 ∧ st < 4 then c = ((if sat then max (cvtLo dt) (min (cvtHi dt) x) else x) % 2 ^ cvtBits dt).toNat
  else if dt < 4 then ∃ n, GivesInt d (cvtLo dt) (cvtHi dt) (valOf (cvtFormat st) a) n ∧ c = (n % 2 ^ cvtBits dt).toNat
  else Gives (cvtFormat dt) d sat (if st < 4 then ofInt x else valOf (cvtFormat st) a) c

/-- The scale codes of R56, and the largest finite values of R183. -/
def e8m0Val (b : Nat) : Val := if b % 256 = 255 then .nan else .num false ((2 : Rat) ^ ((b % 256 : Nat) - 127 : Int))
def e3m5Size (b : Nat) : Rat :=
  let m : Rat := (b % 32 : Nat) / 32
  if b / 32 % 8 = 0 then m / 4 else (1 + m) * (2 : Rat) ^ ((b / 32 % 8 : Nat) - 3 : Int)
def mostOf (e : Nat) : Rat := ([448, 57344, 28, 15 / 2, 6, 127, 255, 7, 15] : List Rat).getD (e - 5) 0

/-- The least of the codes from `lo` to `hi` that passes, or `hi` where none does. -/
def LeastCode (lo hi : Nat) (fits : Nat → Prop) (c : Nat) : Prop :=
  lo ≤ c ∧ c ≤ hi ∧ (fits c ∨ c = hi) ∧ ∀ k, lo ≤ k → k < c → ¬fits k

end Sys2Proof.Claims

/-- R57, R178, R181 to R183: FDOT2, two products and C, exact, rounded once to .f32; CVT between the integers, modulo the
width or clamped, from a floating value rounded and clamped, and into a floating format rounded once; PACK, elements
of A divided by the scale; UNPACK, elements times the scale; BSCALE, the least scale that brings A into range. They
write their results and nothing else. -/
def Obligations.Conversions : Prop :=
  (∀ f s, Issues (.fdot2 f) f s → ∃ t v, exec (.fdot2 f) s = .next t ∧
    VecResult (.fdot2 f) s t false f.dst.toNat (s.effLanes f.msk.toNat) v ∧
    ∀ l ∈ s.effLanes f.msk.toNat,
      let F := floatFmt f.mod
      let a (k : Nat) : Val := valOf F (modified F (f.mod.getLsbD 6) (f.mod.getLsbD 7) (el 16 (s.src32 f.a l).toNat k))
      let b (k : Nat) : Val := valOf F (modified F (f.mod.getLsbD 8) (f.mod.getLsbD 9) (el 16 (s.src32 f.b l).toNat k))
      let d := f.mod.toNat / 4 % 4
      2 ≤ f.mod.toNat % 4 → Gives fF32 d (f.mod.getLsbD 4)
        (total [(a 0).times (b 0), (a 1).times (b 1), valOf fF32 (s.src32 f.c l).toNat] (d = 3)) (v l)) ∧
  (∀ f s, Issues (.cvt f) f s → ∃ t v, exec (.cvt f) s = .next t ∧
    (let d := f.mod.toNat / 128
     let c := f.mod.toNat / 16 % 8
     VecResult (.cvt f) s t (cvtWide d) f.dst.toNat (s.effLanes f.msk.toNat) v ∧
     ∀ l ∈ s.effLanes f.msk.toNat, Converts d c (f.mod.toNat / 4 % 4) (f.mod.getLsbD 1)
       (if cvtWide c then (s.src64 f.a l).toNat else (s.src32 f.a l).toNat) (v l))) ∧
  (∀ f r s, f.a = .reg r → Issues (.pack f) f s → ∃ t v, exec (.pack f) s = .next t ∧
    VecResult (.pack f) s t false f.dst.toNat (s.effLanes f.msk.toNat) v ∧
    ∀ l ∈ s.effLanes f.msk.toNat, v l < 2 ^ (packN (f.mod.toNat % 16) * elemW (f.mod.toNat % 16)) ∧ ∀ k, k < packN (f.mod.toNat % 16) →
      let e := f.mod.toNat % 16
      2 ≤ e → GivesElement e (f.mod.toNat / 16 % 4) (f.mod.getLsbD 6)
        ((valOf fF32 (s.grp.rdV (r.toNat + k) l).toNat).over (valOf fF32 (s.src32 f.b l).toNat)) (el (elemW e) (v l) k)) ∧
  (∀ f s, Issues (.unpack f) f s → ∃ (t : State) (v : Nat → Nat → Nat), exec (.unpack f) s = .next t ∧
    Result (.unpack f) s t s.rdS (fun k l =>
      if l ∈ s.effLanes f.msk.toNat ∧ f.dst.toNat ≤ k ∧ k < f.dst.toNat + packN (f.mod.toNat % 16) then .ofNat 32 (v (k - f.dst.toNat) l)
      else s.grp.rdV k l) s.rdM ∧
    ∀ l ∈ s.effLanes f.msk.toNat, ∀ k, k < packN (f.mod.toNat % 16) →
      let e := f.mod.toNat % 16
      2 ≤ e → Gives fF32 0 false ((elementVal e (el (elemW e) (s.src32 f.a l).toNat k)).times (valOf fF32 (s.src32 f.b l).toNat)) (v k l)) ∧
  (∀ f s, 5 ≤ f.mod.toNat % 16 → f.mod.toNat % 16 ≤ 13 → Issues (.bscale f) f s → ∃ t v, exec (.bscale f) s = .next t ∧
    VecResult (.bscale f) s t false f.dst.toNat (s.effLanes f.msk.toNat) v ∧ ∀ l ∈ s.effLanes f.msk.toNat,
      let e := f.mod.toNat % 16
      match valOf fF32 (s.src32 f.a l).toNat with
      | .num _ q => if f.mod.getLsbD 4 then LeastCode 1 0xFF (fun c => q ≤ mostOf e * e3m5Size c) (v l)
        else LeastCode 0 0xFE (fun c => q ≤ mostOf e * (2 : Rat) ^ ((c : Int) - 127)) (v l)
      | _ => v l = 0xFF)

/-! ## Memory instructions (R87 to R101, R184 to R195) -/

namespace Sys2Proof.Claims

/-- The size in bytes and the order of MOD (R37), and whether the order is acquire or release. -/
def bytesIn (m : BitVec 10) : Nat := 2 ^ (m.toNat % 8)
def acquires (m : BitVec 10) : Bool := decide (m.toNat / 16 % 4 = 1)
def releases (m : BitVec 10) : Bool := decide (m.toNat / 16 % 4 = 2)
def scopeOf (m : BitVec 10) : Nat := m.toNat / 64 % 8

/-- The address of a lane: A + B modulo 2⁶⁴, a vector B a signed 32-bit offset (R184). -/
def addressOf (s : State) (f : Fields) (l : Nat) : Word :=
  match f.b with
  | .reg n => s.src64 f.a l + (s.grp.rdV n.toNat l).signExtend 64
  | x => s.src64 f.a l + s.src64 x l

/-- What a memory instruction accesses: its fields, bytes of an access, use, lanes with their addresses (0xFFFF for
a scalar access), the destination, and the data and compare value of a lane. -/
structure Access where
  f : Fields
  n : Nat
  use : Use
  lanes : List (Nat × Word)
  dst : Dst
  data : Nat → Nat × Nat

/-- The data of a store's lane: C at the size, four registers for .b128 (R185). -/
def storeOf (s : State) (f : Fields) (l : Nat) : Nat :=
  if bytesIn f.mod = 16 then
    match f.c with
    | .reg r => (List.range 4).foldl (fun v k => v + (s.grp.rdV (r.toNat + k) l).toNat * 2 ^ (32 * k)) 0
    | x => (s.src32 x l).toNat
  else if bytesIn f.mod = 8 then (s.src64 f.c l).toNat else (s.src32 f.c l).toNat

/-- New value and compare value of an atomic's lane; .cas reads both from registers (R191). -/
def atomOf (s : State) (f : Fields) (l : Nat) : Nat × Nat :=
  let wide := f.mod.getLsbD 9
  let r := srcNum f.c
  if f.mod.toNat % 16 = 10 then
    if wide then ((s.grp.rdV64 (r + 2) l).toNat, (s.grp.rdV64 r l).toNat) else ((s.grp.rdV (r + 1) l).toNat, (s.grp.rdV r l).toNat)
  else ((if wide then (s.src64 f.c l).toNat else (s.src32 f.c l).toNat), 0)
def atomsOf (s : State) (f : Fields) : Nat × Nat :=
  let cut (w : Word) : Nat := if f.mod.getLsbD 9 then w.toNat else w.toNat % 2 ^ 32
  if f.mod.toNat % 16 = 10 then (cut (s.rdS (srcNum f.c + 1)), cut (s.rdS (srcNum f.c))) else (cut (s.scalarSrc f.c), 0)

def scalarAddress (s : State) (f : Fields) : List (Nat × Word) := [(0xFFFF, s.scalarSrc f.a + s.scalarSrc f.b)]
def laneAddresses (s : State) (f : Fields) : List (Nat × Word) := (s.effLanes f.msk.toNat).map fun l => (l, addressOf s f l)

def accessOf (s : State) : Instr → Option Access
  | .ld f => some ⟨f, bytesIn f.mod, .read, laneAddresses s f, .vec f.dst.toNat, fun _ => (0, 0)⟩
  | .lds f => some ⟨f, bytesIn f.mod, .read, scalarAddress s f, .sca f.dst.toNat, fun _ => (0, 0)⟩
  | .ldexp f => some ⟨f, bytesIn f.mod, .read, (s.effLanes f.msk.toNat).zipIdx.map fun p =>
      (p.1, s.scalarSrc f.a + s.scalarSrc f.b + .ofNat 64 (p.2 * bytesIn f.mod)), .vec f.dst.toNat, fun _ => (0, 0)⟩
  | .st f => some ⟨f, bytesIn f.mod, .write, laneAddresses s f, .none, fun l => (storeOf s f l, 0)⟩
  | .sts f => some ⟨f, bytesIn f.mod, .write, scalarAddress s f, .none, fun _ => ((s.scalarSrc f.c).toNat, 0)⟩
  | .atom f => some ⟨f, if f.mod.getLsbD 9 then 8 else 4, .atomic, laneAddresses s f, .vec f.dst.toNat, atomOf s f⟩
  | .atoms f => some ⟨f, if f.mod.getLsbD 9 then 8 else 4, .atomic, scalarAddress s f, .sca f.dst.toNat, fun _ => atomsOf s f⟩
  | _ => none

/-- The places of the lanes, each checked as R187 says. -/
def Places (s : State) (x : Access) (pl : Nat → Loc) : Prop :=
  ∀ p ∈ x.lanes, s.access s.team p.2 x.n x.n x.use = .ok (pl p.1)

/-- The access of some lanes as it is queued: number, issuer, what it does, where; a path 0x5 address is marked (R94). -/
def queued (i : Instr) (s : State) (id : Nat) (x : Access) (ls : List (Nat × Word)) (pl : Nat → Loc) : Pend :=
  let ctl := ls.any fun l => (pl l.1).sp == .ctl
  { id, grp := s.cur, sp := s.curSplit, pc := s.split.pc, n := x.n, dst := x.dst, scope := scopeOf x.f.mod
    acc := match x.use with
      | .read => .load (x.f.mod.getLsbD 3)
      | .write => .store
      | _ => .atom (x.f.mod.toNat % 16)
    lanes := ls.map fun l => { lane := l.1, loc := pl l.1, data := (x.data l.1).1, cmp := (x.data l.1).2, res := none, own5 := l.2.toNat / 2 ^ 60 == 5 }
    acq := (acquires x.f.mod && x.use != .write) || ctl, rel := (releases x.f.mod && x.use != .read) || ctl
    region := s.grp.regionOpen && !i.closes }

/-- A place in a peer's memory. -/
def far (l : Loc) : Bool := match l.sp with
  | .remote _ => true
  | _ => false

/-- What some lanes of a store queue from number `id` on: one access per lane (R227), those that go to a peer together, for
their lines to merge (R338). -/
def stores (i : Instr) (s : State) (id : Nat) (x : Access) (ls : List (Nat × Word)) (pl : Nat → Loc) : List Pend :=
  let near := ls.filter fun l => !far (pl l.1)
  let away := ls.filter fun l => far (pl l.1)
  (near.zipIdx.map fun p => queued i s (id + p.2) x [p.1] pl) ++ if away = [] then [] else [queued i s (id + near.length) x away pl]

/-- What an instruction queues: a store as above, a load or atomic one access for all its lanes. -/
def accesses (i : Instr) (s : State) (x : Access) (pl : Nat → Loc) : List Pend :=
  if x.use = .write then stores i s s.nextId x x.lanes pl
  else if x.lanes = [] then [] else [queued i s s.nextId x x.lanes pl]

/-- Accesses of the executing group that read, issued so far, are under way: loads, atomics and queries. -/
def Reading (s : State) : Prop :=
  (∃ p ∈ s.pend, p.grp = s.cur ∧ p.id < s.nextId ∧ p.acc ≠ .store) ∨ ∃ q ∈ s.queries, q.grp = s.cur ∧ q.id < s.nextId

/-- What the barriers that the executing group has passed order before its next access is complete (R239). -/
def Ordered (s : State) : Prop := ∀ y ∈ s.grp.syncs, s.nextId < y.after ∨ s.busyBefore y.grp y.upTo = false

/-- So is every access of its own. -/
def AllDone (s : State) : Prop := s.inFlight s.cur = false ∧ Ordered s

/-- STCOMP's elements are stored run by run of one 4 KiB page (R192). -/
def pageStores (i : Instr) (s : State) (x : Access) (pl : Nat → Loc) : Nat → List (List (Nat × Word)) → List Pend
  | _, [] => []
  | id, ls :: r => stores i s id x ls pl ++ pageStores i s x pl (id + (stores i s id x ls pl).length) r

end Sys2Proof.Claims

/-- R184, R185, R187, R191, R193, R227: A load, store or atomic whose lanes all pass their checks queues its accesses,
each lane at its address with its data, and goes on; no register and no byte of memory changes yet. A path 0xF access
waits for no earlier one, nor for what a barrier orders before it. A load may ask the staging cache for granules. -/
def Obligations.MemoryIssue : Prop :=
  ∀ i s x pl, accessOf s i = some x → Issues i x.f s → Places s x pl →
    ((∀ p ∈ x.lanes, (pl p.1).sp ≠ .ctl) ∨ AllDone s) →
    ∃ t fl, exec i s = .next t ∧
      NoResult i { s with pend := s.pend ++ accesses i s x pl, nextId := s.nextId + (accesses i s x pl).length, filling := fl } t ∧
      ∀ g, g ∈ fl ↔ g ∈ s.filling ∨
        (x.use = .read ∧ g ∉ s.staged ∧ ∃ p ∈ x.lanes, (pl p.1).sp = .flash ∧ g = (pl p.1).a / 2 ^ 21)

/-- R192, R194, R195, R229, R233, R239: STCOMP stores its participants one after another from its base and counts them;
PREF asks for the staging granules of its lanes that pass, and changes no value. A FENCE with .tot, or at the system's
or recovery scope, waits while an access that its group issued before it is under way, one at a narrower scope while
one that reads is, and both while what a barrier orders before it is; where stores are left under way it leaves a
mark, so that the writes after it are releases of those within the scope. That a narrower FENCE waits for reads alone
and leaves a mark is log entry 28 (DEDUCED). When its wait is over its split goes on after it. (Where a page of STCOMP
is not present, log entry 25; that a FENCE below system scope waits for reads alone and leaves a mark is log entry 28,
DEDUCED.) -/
def Obligations.CompressPrefetchFence : Prop :=
  (∀ f r s pl, f.c = .reg r → Issues (.stcomp f) f s → MembersOk s f →
    (let n := bytesIn f.mod
     let ps := s.effLanes f.msk.toNat
     let base := s.scalarSrc f.a + s.scalarSrc f.b
     let x : Access := ⟨f, n, .write, ps.zipIdx.map fun p => (p.1, base + .ofNat 64 (p.2 * n)), .none, fun l => (storeOf s f l, 0)⟩
     Places s x pl → (base.toNat / 2 ^ 60 = 15 → AllDone s) → f.mod.toNat % 8 < 4 →
     let q := pageStores (.stcomp f) s x pl s.nextId (x.lanes.splitBy fun a b => a.2.toNat / 4096 == b.2.toNat / 4096)
     ∃ t, exec (.stcomp f) s = .next t ∧
       ScaResult (.stcomp f) { s with pend := s.pend ++ q, nextId := s.nextId + q.length } t f.dst.toNat (.ofNat 64 ps.length))) ∧
  (∀ f s, Issues (.pref f) f s → ∃ t fl, exec (.pref f) s = .next t ∧ NoResult (.pref f) { s with filling := fl } t ∧
    ∀ g, g ∈ fl ↔ g ∈ s.filling ∨ (g ∉ s.staged ∧ ∃ l ∈ s.effLanes f.msk.toNat, ∃ p,
      s.access s.team (addressOf s f l) 1 1 .read = .ok p ∧ p.sp = Sp.flash ∧ g = p.a / 2 ^ 21)) ∧
  (∀ f s, Issues (.fence f) f s →
    let strong : Prop := f.mod.getLsbD 9 = true ∨ 5 ≤ scopeOf f.mod
    let marked : State := s.setGrp { s.grp with fences := ⟨s.curSplit, scopeOf f.mod, s.nextId⟩ :: s.grp.fences }
    let waits (tot : Bool) : Prop := exec (.fence f) s = .next ((s.closeRegion).setSplit
      { s.split with wait := .fence s.nextId (scopeOf f.mod) tot (s.split.pc + .ofNat 64 (8 * (Instr.fence f).words)) })
    (AllDone s → ∃ t, exec (.fence f) s = .next t ∧ NoResult (.fence f) s t) ∧
    (strong → (s.busyBefore s.cur s.nextId = true ∨ ¬Ordered s) → waits true) ∧
    (¬strong → (Reading s ∨ ¬Ordered s) → waits false) ∧
    (¬strong → ¬Reading s → Ordered s → s.busyBefore s.cur s.nextId = true →
      ∃ t, exec (.fence f) s = .next t ∧ NoResult (.fence f) marked t)) ∧
  (∀ (s : State) gi k upTo scope tot next, gi < s.groups.length → k < 2 → (s.spAt (gi, k)).wait = .fence upTo scope tot next →
    ∃ t, s.issueAt gi k = .next t ∧ t.spAt (gi, k) = { s.spAt (gi, k) with pc := next, wait := .none, since := s.tick + 1 } ∧
      (t.grpAt gi).fences = (if s.busyBefore gi upTo then [⟨k, scope, upTo⟩] else []) ++ (s.grpAt gi).fences ∧
      t.spAt (gi, 1 - k) = s.spAt (gi, 1 - k) ∧ ∀ g, g ≠ gi → t.grpAt g = s.grpAt g)

namespace Sys2Proof.Claims

/-- An access of `n` bytes at an address takes a fault of this code, with the address and the access code (R284). -/
abbrev Denied (s : State) (t : Team) (a : Word) (n : Nat) (u : Use) (code : Nat) : Prop :=
  s.access t a n n u = .flt { code, addr := a, info32 := u.code }

/-- The path of an address, and the rest of it. -/
abbrev path (a : Word) : Nat := a.toNat / 2 ^ 60
abbrev below (a : Word) : Nat := a.toNat % 2 ^ 60

end Sys2Proof.Claims

/-- R87 to R89, R91, R94, R95, R98, R187, R301: If any lane fails, the instruction takes the first failing check of the
lowest failing lane, and no lane accesses memory (that one of a region-closing kind has closed its region then is log
entry 69). What an address's path decides. Reserved paths and set bits where a path wants zeros are 0x12, and device
control without privilege, or by an engine, is 0x11; then a misaligned address is 0x13; then what lies outside the
team's scratchpad, or at an unpaired peer, is 0x11. A translated address ends at its leaf's frame; a page of another
tenant is 0x11, a write to a read-only page, to flash or along path 0x2 is 0x14, and a page that is absent or
malformed waits for the host. (That the place in memory follows from FRAME alone is log entry 55, that a report names
the 4 KiB page of the address log entry 56: DESIGN CHOICES.) (Where a leaf's bytes stand, whatever its placement and
target, is log entry 55, the page a report names for any leaf size log entry 56; that a region is closed before a
check that fails is log entry 69.) -/
def Obligations.AccessFaults : Prop :=
  (∀ i s x pre l a post e, accessOf s i = some x → Issues i x.f s → x.lanes = pre ++ (l, a) :: post →
    (∀ p ∈ pre, ∃ loc, s.access s.team p.2 x.n x.n x.use = .ok loc) → s.access s.team a x.n x.n x.use = .flt e →
    exec i s = .next ((if i.closes then s.closeRegion else s).fault { e with lane := l })) ∧
  (∀ (s : State) (t : Team) (a : Word) (n : Nat) (u : Use), 0 < n →
    (6 ≤ path a → path a ≤ 14 → Denied s t a n u 0x12) ∧
    (path a ≤ 2 → below a / 2 ^ 48 ≠ 0 → Denied s t a n u 0x12) ∧
    (path a = 3 → below a / 2 ^ 27 ≠ 0 → Denied s t a n u 0x12) ∧
    (path a = 4 → 4 ≤ below a / 2 ^ 48 % 8 → Denied s t a n u 0x12) ∧
    (path a = 4 → u = .atomic → Denied s t a n u 0x12) ∧
    (path a = 5 → below a / 2 ^ 48 % 16 ≠ 0 → Denied s t a n u 0x12) ∧
    (path a = 15 → s.set.supervisor ≠ some t.ten → Denied s t a n u 0x11) ∧
    (path a = 15 → u = .engRead ∨ u = .engWrite → Denied s t a n u 0x11) ∧
    (path a ≤ 2 → below a / 2 ^ 48 = 0 → a.toNat % n ≠ 0 → Denied s t a n u 0x13) ∧
    (path a = 3 → below a / 2 ^ 27 = 0 → a.toNat % n ≠ 0 → Denied s t a n u 0x13) ∧
    (path a = 3 → below a / 2 ^ 27 = 0 → a.toNat % n = 0 →
      (below a < t.scrBase ∨ t.scrBase + (s.launchOf t.ten t.launch).scratch < below a + n) → Denied s t a n u 0x11) ∧
    (path a = 3 → below a / 2 ^ 27 = 0 → a.toNat % n = 0 → t.scrBase ≤ below a →
      below a + n ≤ t.scrBase + (s.launchOf t.ten t.launch).scratch → s.access t a n n u = .ok ⟨.sram (t.col / 4), below a⟩) ∧
    (path a = 5 → below a / 2 ^ 48 % 16 = 0 → a.toNat % n = 0 →
      (∀ x ∈ s.pairs, ¬(x.1 = t.ten ∧ x.2.1 = below a / 2 ^ 52)) → Denied s t a n u 0x11)) ∧
  (∀ (s : State) (t : Team) (a : Word) (n : Nat) (u : Use), path a ≤ 2 → below a / 2 ^ 48 = 0 → a.toNat % n = 0 →
    let writes : Bool := u = .write || u = .atomic || u = .engWrite
    (∀ e, s.walk t.ten (below a) = .leaf e → e / 2 ^ 55 % 32 ≠ t.ten → Denied s t a n u 0x11) ∧
    (∀ e, s.walk t.ten (below a) = .leaf e → e / 2 ^ 55 % 32 = t.ten → writes = true →
      (path a = 2 ∨ bitOf e 10 = true ∨ bitOf e 5 = true) → Denied s t a n u 0x14) ∧
    (∀ e, s.walk t.ten (below a) = .leaf e → e / 2 ^ 55 % 32 = t.ten → u ≠ .fetch →
      (writes = false ∨ (path a ≠ 2 ∧ bitOf e 10 = false ∧ bitOf e 5 = false)) →
      ∃ l, s.access t a n n u = .ok l ∧ l.a = 4096 * (e / 2 ^ 12 % 2 ^ 32) + below a % (4096 * pageUnits (e / 2 ^ 60 % 8)) ∧
        l.sp = if bitOf e 5 then .flash else .mem (bitOf e 8) (bitOf e 7)) ∧
    (s.walk t.ten (below a) = .absent →
      s.access t a n n u = .wait t.ten (below a / 4096) false { code := 0x10, addr := a, info32 := u.code }) ∧
    (s.walk t.ten (below a) = .malformed →
      s.access t a n n u = .wait t.ten (below a / 4096) true { code := 0x10, addr := a, info32 := u.code }))

/-! ## Homes and results (R68, R101, R114, R185, R188, R191, R240) -/

namespace Sys2Proof.Claims

/-- What an atomic leaves over `old` (R191), operations 0 to 10; the floating ones are sums. -/
def atomLeaves (op n old data cmp : Nat) : Nat :=
  let w := 8 * n
  let less (sg : Bool) : Bool := num sg w old ≤ num sg w data
  match op with
  | 0 => (old + data) % 2 ^ w
  | 1 => (old + 2 ^ w - data) % 2 ^ w
  | 2 => if less true then old else data
  | 3 => if less false then old else data
  | 4 => if less true then data else old
  | 5 => if less false then data else old
  | 6 => old &&& data
  | 7 => old ||| data
  | 8 => old ^^^ data
  | 9 => data
  | 10 => if old = cmp then data else old
  | 11 => fAdd .rn false fF32 old data
  | _ => fAdd .rn false fBf16 (old % 2 ^ 16) (data % 2 ^ 16) + 2 ^ 16 * fAdd .rn false fBf16 (old / 2 ^ 16) (data / 2 ^ 16)

/-- A place of `n` bytes in DRAM, or in one Rope's scratchpad. -/
def InMemory (l : Loc) (n : Nat) : Prop := (∃ ix dur, l.sp = .mem ix dur) ∨ (∃ r, l.sp = .sram r ∧ l.a + n ≤ 2 ^ 27)

/-- A write over the whole of a remembered release; and one by group `g`, which hides no release of its own. -/
def hides (l : Loc) (n : Nat) (d : Debt) : Bool := d.loc.sp.key == l.sp.key && l.a ≤ d.loc.a && d.loc.a + d.n ≤ l.a + n
def hidesFrom (g : Nat) (l : Loc) (n : Nat) (d : Debt) : Bool := (d.grp != g || d.job.isSome) && hides l n d

/-- Which event serves a lane of a store or atomic: a string write on an indexed page, a release at recovery scope,
any other (R114, R240). -/
def serves (id : Nat) (p : Pend) (x : PLane) : Instr :=
  if p.rel ∧ p.scope = 6 then .rcvReleaseApply id
  else match x.loc.sp with
    | .mem true _ => .stringWrite id
    | _ => .homeWrite id

/-- Lane `x` of a store or atomic is its lowest still open, and the edges before it let its home serve it. -/
def Served (s : State) (p : Pend) (pre : List PLane) (x : PLane) (post : List PLane) : Prop :=
  s.pend.find? (fun q => q.id == p.id) = some p ∧ p.acc.writes = true ∧ p.lanes = pre ++ x :: post ∧
    (∀ y ∈ pre, y.res ≠ none ∨ y.sent = true) ∧ x.res = none ∧ x.sent = false ∧ s.mayServe p x = true

/-- Releases that a write of `p` at a place is, while accesses of its group before them are under way: itself, at a scope below
the system's, one for each FENCE of its split before it, and one for each of its group's earlier releases it comes over (R228, R229). -/
def releasesOf (s : State) (p : Pend) (l : Loc) : List Debt :=
  let fences := (s.grpAt p.grp).fences.filter fun m => m.sp == p.sp && m.upTo ≤ p.id
  let own := s.debts.filter fun d => d.grp == p.grp && d.job.isNone && d.loc.overlaps d.n l p.n
  let all := (if p.rel = true ∧ p.scope < 5 then [(p.scope, p.id)] else []) ++ (fences.map fun m => (min p.scope m.scope, m.upTo)) ++
    own.map fun d => (p.scope, d.upTo)
  (all.filter fun m => s.busyBefore p.grp m.2).map fun m => { loc := l, n := p.n, grp := p.grp, scope := m.1, upTo := m.2, job := none }

/-- A number read from places, least byte first. -/
def readAt (s : State) (ls : List Loc) : Nat := ((ls.zipIdx).map fun p => (s.rdB p.1).toNat * 256 ^ p.2).sum

/-- Byte `k` of a number. -/
def byteAt (v k : Nat) : Byte := .ofNat 8 (v / 256 ^ k)

/-- What an 8-byte store to a register of the group-control block (R285) leaves there. -/
def blockWith (g : GCtl) (o : Nat) (v : Word) : Option GCtl :=
  if o = 0x10000 then some { g with target := v } else if o = 0x10008 then some { g with gsel := v }
  else if o = 0x10010 then some { g with seq := v } else if o = 0x10018 then some { g with act := v }
  else if o = 0x10020 then some { g with pc0 := v } else if o = 0x10028 then some { g with pc1 := v } else none

end Sys2Proof.Claims

namespace Sys2Proof.Claims

/-- A loaded or old value of `n` bytes at a register's width: extended by its sign under .sx (R185). -/
def widened (sx : Bool) (n w v : Nat) : Nat :=
  if sx ∧ 8 * n < w then ((BitVec.ofNat (8 * n) v).signExtend w).toNat else v

/-- The lanes of a load or atomic as they return: what was served, the rest read now. -/
def returned (s : State) (p : Pend) (x : PLane) : Nat :=
  x.res.getD (if x.loc.sp = .ctl then s.ctlReadN none x.loc.a p.n else s.rdN x.loc p.n)

/-- A lane that reads an accumulator bank nobody holds (R92). -/
def readsOpen (s : State) (x : PLane) : Bool := x.res.isNone && x.loc.sp == .win && s.openBank x.loc.a

end Sys2Proof.Claims

/-- R68, R92, R114, R185, R188, R189, R191, R228, R229, R235, R236, R240, R285: The home of a store or atomic serves its
lowest lane still open once the edges before it allow: the bytes at the lane's place hold the data, or what the atomic
leaves, the old value is the lane's result, and every other byte of memory keeps its value. A write on an indexed page
leaves the parts of each built directory of that page exact; a release below the system's scope, or a write after a
FENCE there, is remembered while accesses before it are under way, until a plain write of another group covers it; one
over it by its own group is a release in its turn. A store to a window writes the bytes of a slot, of an accumulator
tile, of a vector register's lanes or of a scalar register, and nothing else of the machine; one to device control
writes the register there: of the group-control block the 8 bytes of a register, or with a narrower store its own
bytes of one. The results of a load or atomic return once every lane is served or may be: each lane's register gets
its value, extended under .sx, the access is gone, and everything else stays, but for MQSTAT.UNALLOC where a lane read
an unallocated bank. (Registers of one lane's value: one below 8 bytes, a pair for 8, four for 16.) With an
uncorrectable error nothing is written, its staging granules are not kept, and the group takes 0x30. (That lanes are
served one by one from the lowest is log entry 24, narrow accesses to device control log entry 15, weak releases log
entry 28.) -/
def Obligations.MemoryServed : Prop :=
  (∀ s p pre x post, Served s p pre x post → InMemory x.loc p.n → (p.acc ≠ .store → x.data < 2 ^ (8 * p.n)) →
    let old := s.rdN x.loc p.n
    let new := match p.acc with
      | .atom op => atomLeaves op p.n old x.data x.cmp
      | _ => x.data
    ∃ t, exec (serves p.id p x) s = .next t ∧ t.rdN x.loc p.n = new % 2 ^ (8 * p.n) ∧
      (∀ l : Loc, l.sp ≠ .win → (∀ r, l.sp = .sram r → l.a < 2 ^ 27) → l.overlaps 1 x.loc p.n = false → t.rdB l = s.rdB l) ∧
      (p.acc ≠ .store → p.dst ≠ .none → { p with lanes := pre ++ { x with res := some old } :: post } ∈ t.pend) ∧
      t.dirs = s.dirs.map (fun d => if (∃ dur, x.loc.sp = .mem true dur) ∧ d.built = true ∧ x.loc.a / 4096 * 4096 ∈ d.pages then
        { d with parts := t.partsOf d } else d) ∧
      t.debts = releasesOf s p x.loc ++ (if p.acc = .store then s.debts.filter fun d => !hidesFrom p.grp x.loc p.n d else s.debts) ∧
      { t with mem := s.mem, sram := s.sram, fill := s.fill, pend := s.pend, rjobs := s.rjobs, dirs := s.dirs, debts := s.debts } = s) ∧
  (∀ s p pre x post, Served s p pre x post → p.acc = .store → x.loc.sp = .win → winLayout x.loc.a = true →
    x.loc.a % winUnit x.loc.a + p.n ≤ winUnit x.loc.a →
    let a := x.loc.a
    let c := winCol a
    let into (lo k : Nat) (old : Byte) : Byte := if lo ≤ k ∧ k < lo + p.n then byteAt x.data (k - lo) else old
    ∃ t, exec (serves p.id p x) s = .next t ∧
      { t with columns := s.columns, groups := s.groups, pend := s.pend, debts := s.debts } = s ∧
      (2 ≤ winArea a → t.groups = s.groups ∧ ∀ d, d ≠ c → t.col d = s.col d) ∧
      (winArea a ≤ 1 → t.columns = s.columns) ∧
      (winArea a = 2 → { t.col c with slots := (s.col c).slots } = s.col c ∧
        ∀ k, Memory.rd (t.col c).slots k = into (a % 2 ^ 18) k (Memory.rd (s.col c).slots k)) ∧
      (winArea a = 3 → { t.col c with accum := (s.col c).accum } = s.col c ∧
        ∀ k, Memory.rd (t.col c).accum k = into (a % 2 ^ 19) k (Memory.rd (s.col c).accum k)) ∧
      (∀ g, s.residentAt? c (winSlot a) = some g → winArea a ≤ 1 → (∀ h, h ≠ g → t.grpAt h = s.grpAt h) ∧
        { t.grpAt g with vregs := (s.grpAt g).vregs, sregs := (s.grpAt g).sregs } = s.grpAt g ∧
        (∀ r l k, l < 128 → k < 4 → byteOf ((t.grpAt g).rdV r l) k =
          if winArea a = 0 ∧ r = a / 2 ^ 35 % 256 then into (a % 512) (4 * l + k) (byteOf ((s.grpAt g).rdV r l) k)
          else byteOf ((s.grpAt g).rdV r l) k) ∧
        ∀ r k, k < 8 → byteOf ((t.grpAt g).rdS r) k =
          if winArea a = 1 ∧ r = a / 2 ^ 35 % 64 then into (a % 8) k (byteOf ((s.grpAt g).rdS r) k)
          else byteOf ((s.grpAt g).rdS r) k)) ∧
  (∀ s p pre x post g, Served s p pre x post → p.acc = .store → x.loc.sp = .ctl →
    let kept (t : State) : Prop := { t with gctl := s.gctl, pend := s.pend, debts := s.debts } = s
    (p.n = 8 → blockWith s.gctl x.loc.a (.ofNat 64 x.data) = some g →
      ∃ t, exec (serves p.id p x) s = .next t ∧ t.gctl = g ∧ kept t) ∧
    (∀ v : Word, p.n < 8 → x.loc.a % 8 + p.n ≤ 8 → blockWith s.gctl (x.loc.a / 8 * 8) v = some g →
      (∀ k, k < 8 → byteOf v k = if x.loc.a % 8 ≤ k ∧ k < x.loc.a % 8 + p.n then byteAt x.data (k - x.loc.a % 8)
        else byteAt (s.ctlRead none (x.loc.a / 8 * 8)) k) →
      ∃ t, exec (serves p.id p x) s = .next t ∧ t.gctl = g ∧ kept t)) ∧
  (∀ s p, s.pend.find? (fun q => q.id == p.id) = some p → p.acc ≠ .store → p.grp < s.groups.length →
    p.n ∈ [1, 2, 4, 8, 16] → (∀ x ∈ p.lanes, ∀ v, x.res = some v → v < 2 ^ (8 * p.n)) →
    (p.acc.writes = true → ∀ x ∈ p.lanes, x.res ≠ none) →
    (∀ x ∈ p.lanes, x.res ≠ none ∨ (x.sent = false ∧ far x.loc = false ∧ s.mayServe p x = true)) →
    (∃ t, exec (.loadResultReturn p.id false) s = .next t ∧
        { t with groups := s.groups, pend := s.pend } = s ∧ t.pend = s.pend.filter (fun q => q.id != p.id) ∧
        (∀ g, g ≠ p.grp → t.grpAt g = s.grpAt g) ∧
        { t.grpAt p.grp with sregs := (s.grpAt p.grp).sregs, vregs := (s.grpAt p.grp).vregs } =
          { s.grpAt p.grp with unalloc := (s.grpAt p.grp).unalloc || p.lanes.any (readsOpen s) } ∧
        (∀ r x, p.dst = .sca r → p.lanes = [x] → ∀ k, (t.grpAt p.grp).rdS k =
          if k = r then .ofNat 64 (widened p.acc.sx p.n 64 (returned s p x)) else (s.grpAt p.grp).rdS k) ∧
        (∀ r, p.dst = .vec r → (p.lanes.map (·.lane)).Nodup → (∀ x ∈ p.lanes, x.lane < 128) →
          (∀ x ∈ p.lanes, ∀ k, k < (p.n + 3) / 4 → (t.grpAt p.grp).rdV (r + k) x.lane =
            .ofNat 32 (widened p.acc.sx p.n 32 (returned s p x) / 2 ^ (32 * k))) ∧
          ∀ k l, l < 128 → (k < r ∨ r + (p.n + 3) / 4 ≤ k ∨ l ∉ p.lanes.map (·.lane)) →
            (t.grpAt p.grp).rdV k l = (s.grpAt p.grp).rdV k l)) ∧
    exec (.loadResultReturn p.id true) s = .next
      (({ s with
          pend := s.pend.filter (fun q => q.id != p.id)
          staged := s.staged.filter fun g => !p.lanes.any fun x => x.loc.sp == Sp.flash && x.loc.a / 2 ^ 21 == g }).takeFault p.grp p.sp p.pc false
        { code := 0x30, info32 := (s.grpAt p.grp).idemRetry }))

/-! ## The copy engine, batches, guards and bins (R128 to R156, R357) -/

namespace Sys2Proof.Claims

/-- The state of the guard slot a command names: MOD bit 8 and bits 7 to 5 (R129). -/
def guardSlot (f : Fields) : Option Nat := if f.mod.getLsbD 8 then some (f.mod.toNat / 32 % 8) else none
def guardOpen (s : State) (f : Fields) : Bool := (guardSlot f).any fun n => s.grp.guard n == .open
def guardFalse (s : State) (f : Fields) : Bool := (guardSlot f).any fun n => s.grp.guard n == .false

/-- A command may enter: it passes issue, its completion word is good and its counter's address passes, and no Deliver
answer stands in its addresses' place. -/
def Enters (i : Instr) (f : Fields) (s : State) (cw : Cw) (cf : List Foot) : Prop :=
  Issues i f s ∧ s.split.denied = none ∧
    ∃ q, parseCw s.launch.barriers (s.scalarSrc f.c) = some q ∧ s.placeCw s.team q = .ok (cw, cf)

/-- The job a command becomes: last of the executing group's, in its open batch (R128, R140), waiting on its guard
while that is open (R147). It keeps what it was issued to do. -/
def jobFor (s : State) (f : Fields) (r : Recipe) (kind : JobKind) (els : List El) (cw : Cw) (foot : List Foot) : Job :=
  { id := s.nextId, grp := s.cur, team := s.grp.team, batch := s.grp.batchOpen, kind
    guard := if guardOpen s f then guardSlot f else none, failed := none, st := .queued, recipe := r, els, cw, foot }

/-- The command is queued and the split goes on; nothing else changes. -/
def Queues (i : Instr) (f : Fields) (s t : State) (r : Recipe) (kind : JobKind) (els : List El) (cw : Cw) : Prop :=
  ∃ foot, NoResult i { s with jobs := s.jobs ++ [jobFor s f r kind els cw foot], nextId := s.nextId + 1 } t

/-- The tag of a handle or command id: the next of the tenant's counter that none of its live ones carries (R107, R149),
and the counter after it. -/
def NextTag (s : State) (ten : Tenant) (m tag ctr : Nat) : Prop :=
  ∃ k, tag = (ten.tagCtr + k) % m ∧ ctr = ten.tagCtr + k + 1 ∧ tag ∉ s.liveTags s.team.ten ∧
    ∀ i, i < k → (ten.tagCtr + i) % m ∈ s.liveTags s.team.ten

/-- The same state, its split without a Deliver answer. -/
def undenied (s : State) : State := s.setSplit { s.split with denied := none }

/-- Byte-by-byte copies between places. -/
def copied (src dst : List Loc) : List El := (src.zip dst).map fun p => ⟨[p.2], 0, 8, .at [p.1] 0 8⟩

/-- The lanes of a gather or scatter, with the indexed and the packed address (R134): S(a) the base, S(a+1) the row
length above a 40-bit stride, S(a+2) the packed base. -/
def rowLen (s : State) (f : Fields) : Nat := (s.rdS (srcNum f.a + 1)).toNat / 2 ^ 40
def rowLanes (s : State) (f : Fields) : List Nat := (s.effLanes f.msk.toNat).filter (· < 32)
def indexedAt (s : State) (f : Fields) (l : Nat) : Nat :=
  (s.rdS (srcNum f.a)).toNat + (s.src32 f.b l).toNat * ((s.rdS (srcNum f.a + 1)).toNat % 2 ^ 40)
def packedAt (s : State) (f : Fields) (l : Nat) : Nat := (s.rdS (srcNum f.a + 2)).toNat + l * rowLen s f

/-! CPTILE (R135 to R138). -/

/-- A field of a tensor record; its element code. -/
def recAt (r : List Byte) (lo n : Nat) : Nat := leNat ((r.drop lo).take n)
def elemOf (r : List Byte) : Nat := recAt r 8 1 % 16

/-- Source and destination origins (from register S(a+1) and S(a+4) on), extents, and the box's size. -/
def originOf (s : State) (f : Fields) (k d : Nat) : Nat := (s.rdS (srcNum f.a + k + d / 2)).toNat / 2 ^ (32 * (d % 2)) % 2 ^ 32
def extentOf (s : State) (f : Fields) (d : Nat) : Nat := (s.rdS (srcNum f.a + 3)).toNat / 2 ^ (16 * d) % 2 ^ 16
def boxSize (s : State) (f : Fields) : Nat := extentOf s f 0 * extentOf s f 1 * extentOf s f 2 * extentOf s f 3

/-- Coordinate `d` of the n-th index of the box, dimension 0 fastest; .tr takes its first two in each other's place. -/
def indexOf (s : State) (f : Fields) (n d : Nat) : Nat :=
  let e := extentOf s f
  (if d = 0 then n else if d = 1 then n / e 0 else if d = 2 then n / (e 0 * e 1) else n / (e 0 * e 1 * e 2)) % e d
def turned (f : Fields) (d : Nat) : Nat := if f.mod.getLsbD 3 ∧ d < 2 then 1 - d else d
def sourceX (s : State) (f : Fields) (n d : Nat) : Nat := originOf s f 1 d + indexOf s f n d
def destY (s : State) (f : Fields) (n d : Nat) : Nat := originOf s f 4 d + indexOf s f n (turned f d)

/-- An element within a tensor; and where one lies: first byte, bit in it, bytes touched. -/
def inside (r : List Byte) (x : Nat → Nat) : Bool := (List.range 4).all fun d => x d < recAt r (16 + 4 * d) 4
def elementAt (r : List Byte) (x : Nat → Nat) : Nat × Nat × Nat :=
  let b := x 0 * elemW (elemOf r)
  let row := recAt r 0 8 + x 1 * recAt r 37 5 + x 2 * recAt r 42 5 + x 3 * recAt r 47 5
  (row + b / 8, b % 8, (b % 8 + elemW (elemOf r) + 7) / 8)

/-- Elements within the destination, in order. -/
def keptOf (s : State) (f : Fields) (dr : List Byte) : List Nat := (List.range (boxSize s f)).filter fun n => inside dr (destY s f n)

/-- The bits are copied as they are. -/
def sameBits (c : Conv) : Bool := c.se = c.de && c.scale = 0x3F800000

/-- The handles name the tensors, the destination is no source alone, and every element's bytes pass their checks. -/
def TileFits (s : State) (f : Fields) (sr dr : List Byte) (sp dp : Nat → List Loc) : Prop :=
  let h := (s.rdS (srcNum f.a)).toNat
  s.tensor? (h % 2 ^ 32) = some sr ∧ s.tensor? (h / 2 ^ 32) = some dr ∧ recAt dr 10 1 % 2 = 0 ∧ ∀ n ∈ keptOf s f dr,
    (let y := elementAt dr (destY s f n)
     s.span s.team y.1 y.2.2 1 .engWrite = .ok (dp n)) ∧
    (inside sr (sourceX s f n) = true →
      (let x := elementAt sr (sourceX s f n)
       s.span s.team x.1 x.2.2 1 .engRead = .ok (sp n)))
def convOf (s : State) (f : Fields) (sr dr : List Byte) : Conv := ⟨elemOf sr, elemOf dr, (s.scalarSrc f.b).toNat % 2 ^ 32, f.mod.getLsbD 4⟩
def tileRecipe (s : State) (f : Fields) (sr dr : List Byte) : Recipe :=
  .tile f.mod sr dr ((List.range 6).map fun k => s.rdS (srcNum f.a + k)) (s.scalarSrc f.b) (s.scalarSrc f.c)

/-- The elements of the clipped box: each destination element gets its source element, or beyond the source's edge `edge`. -/
def tileElements (s : State) (f : Fields) (sr dr : List Byte) (sp dp : Nat → List Loc) (edge : Nat) : List El :=
  (keptOf s f dr).map fun n => ⟨dp n, (elementAt dr (destY s f n)).2.1, elemW (elemOf dr),
    if inside sr (sourceX s f n) then .at (sp n) (elementAt sr (sourceX s f n)).2.1 (elemW (elemOf sr)) else .lit edge⟩

/-- The code of 0 converted. -/
def EdgeIs (c : Conv) (edge : Nat) : Prop :=
  if sameBits c then edge = 0 else GivesElement c.de 0 c.sat ((Val.num false 0).over (valOf fF32 c.scale)) edge

end Sys2Proof.Claims

/-- R131 to R135, R137 to R139, R147, R149, R152, R301, R357: CPL, CPGATHER and CPSCATTER queue one job whose elements
copy each lane's bytes from its source to its destination, in lane order; a gather or scatter whose lanes are all
above 31 queues one that moves nothing. A Deliver answer a command got while its guard was open marks it failed while
the guard still is, and is its fault otherwise. CPFILL queues a byte of its pattern for each byte of its range. CPTILE
queues the elements of its box that lie within the destination, .tr turning the first two coordinates, each from its
source element or, beyond the source's edge, with the code of 0 converted. With .held the command waits under an id
that the destination gets, made of the lowest free entry and the tenant's next free tag, and with no free entry the
destination gets 0; its guard applies from its release on. A false guard drops a command that is not held. (The edge
element of CPTILE is log entry 10, the choice of entry and tag log entry 36; that a held command enters under its id
whatever its guard is log entry 11, DEDUCED.) (That a region is closed before a check that fails is log entry 69.) -/
def Obligations.EngineCommands : Prop :=
  (∀ f s cw cf, ∀ (sp dp : Nat → Loc), Enters (.cpl f) f s cw cf → guardFalse s f = false → s.effLanes f.msk.toNat ≠ [] →
    (let n := 4 * 2 ^ (f.mod.toNat % 4)
     (∀ l ∈ s.effLanes f.msk.toNat, s.access s.team (s.src64 f.b l) n n .engRead = .ok (sp l)) →
     (∀ l ∈ s.effLanes f.msk.toNat, s.access s.team (s.src64 f.a l) n n .engWrite = .ok (dp l)) →
     ∃ t, exec (.cpl f) s = .next t ∧ Queues (.cpl f) f s t (.copy ((s.effLanes f.msk.toNat).map fun l =>
       ⟨l, (s.src64 f.b l).toNat, (s.src64 f.a l).toNat, n, n⟩) (s.scalarSrc f.c)) .copy ((s.effLanes f.msk.toNat).flatMap fun l =>
       copied ((List.range n).map (sp l).plus) ((List.range n).map (dp l).plus)) cw)) ∧
  (∀ f s cw cf, ∀ (sp dp : Nat → List Loc), Enters (.cpgather f) f s cw cf → guardFalse s f = false → 1 ≤ rowLen s f → rowLen s f ≤ 4096 → s.effLanes f.msk.toNat ≠ [] →
    (∀ l ∈ rowLanes s f, s.span s.team (indexedAt s f l) (rowLen s f) 1 .engRead = .ok (sp l)) →
    (∀ l ∈ rowLanes s f, s.span s.team (packedAt s f l) (rowLen s f) 1 .engWrite = .ok (dp l)) →
    ∃ t, exec (.cpgather f) s = .next t ∧
      Queues (.cpgather f) f s t (.copy ((rowLanes s f).map fun l => ⟨l, indexedAt s f l, packedAt s f l, rowLen s f, 1⟩)
        (s.scalarSrc f.c)) .copy ((rowLanes s f).flatMap fun l => copied (sp l) (dp l)) cw) ∧
  (∀ f s cw cf, ∀ (sp dp : Nat → List Loc), Enters (.cpscatter f) f s cw cf → guardFalse s f = false → 1 ≤ rowLen s f → rowLen s f ≤ 4096 → s.effLanes f.msk.toNat ≠ [] →
    (∀ l ∈ rowLanes s f, s.span s.team (packedAt s f l) (rowLen s f) 1 .engRead = .ok (sp l)) →
    (∀ l ∈ rowLanes s f, s.span s.team (indexedAt s f l) (rowLen s f) 1 .engWrite = .ok (dp l)) →
    ∃ t, exec (.cpscatter f) s = .next t ∧
      Queues (.cpscatter f) f s t (.copy ((rowLanes s f).map fun l => ⟨l, packedAt s f l, indexedAt s f l, rowLen s f, 1⟩)
        (s.scalarSrc f.c)) .copy ((rowLanes s f).flatMap fun l => copied (sp l) (dp l)) cw) ∧
  (∀ f s q e, Issues (.cpl f) f s → s.effLanes f.msk.toNat ≠ [] → guardFalse s f = false → s.split.denied = some e →
    parseCw s.launch.barriers (s.scalarSrc f.c) = some q →
    (guardOpen s f = true → ∃ t j, exec (.cpl f) s = .next t ∧ j.failed = some e ∧ j.guard = guardSlot f ∧ j.els = [] ∧
      j.id = s.nextId ∧ j.batch = s.grp.batchOpen ∧
      NoResult (.cpl f) { undenied s with jobs := s.jobs ++ [j], nextId := s.nextId + 1 } t) ∧
    (guardOpen s f = false → exec (.cpl f) s = .next ((undenied s.closeRegion).fault e))) ∧
  (∀ f s cw cf ls, Enters (.cpfill f) f s cw cf → guardFalse s f = false → f.mod.getLsbD 9 = false →
    (let n := (s.rdS (srcNum f.a + 1)).toNat
     n ≤ 2 ^ 40 → s.span s.team (s.rdS (srcNum f.a)).toNat n 1 .engWrite = .ok ls →
     ∃ t, exec (.cpfill f) s = .next t ∧ Queues (.cpfill f) f s t (.fill (s.rdS (srcNum f.a)) n (s.scalarSrc f.b) (s.scalarSrc f.c)) .fill (ls.zipIdx.map fun p =>
       ⟨[p.1], 0, 8, .lit ((s.scalarSrc f.b).toNat / 2 ^ (8 * (p.2 % 8)) % 256)⟩) cw)) ∧
  (∀ f s cw cf sr dr sp dp, Enters (.cptile f) f s cw cf → guardFalse s f = false → f.mod.getLsbD 9 = false → TileFits s f sr dr sp dp →
    ∃ t edge, exec (.cptile f) s = .next t ∧ EdgeIs (convOf s f sr dr) edge ∧
      Queues (.cptile f) f s t (tileRecipe s f sr dr) (.tile (convOf s f sr dr)) (tileElements s f sr dr sp dp edge) cw) ∧
  (∀ f s cw cf sr dr sp dp ten, Enters (.cptile f) f s cw cf → f.mod.getLsbD 9 = true → TileFits s f sr dr sp dp →
    s.tenantOf? s.team.ten = some ten → (s.liveTags s.team.ten).length < 2 ^ 26 →
    (let k := s.freeHeld s.grp.team
     ∃ t, exec (.cptile f) s = .next t ∧ (k = 0 → ScaResult (.cptile f) s t f.dst.toNat 0) ∧
       (k ≠ 0 → ∃ (j : Job) (tag ctr edge : Nat), NextTag s ten (2 ^ 26) tag ctr ∧ EdgeIs (convOf s f sr dr) edge ∧ j.id = s.nextId ∧
         j.batch = s.grp.batchOpen ∧ j.guard = guardSlot f ∧ j.st = .held k tag false ∧ j.recipe = tileRecipe s f sr dr ∧
         j.els = tileElements s f sr dr sp dp edge ∧
         ScaResult (.cptile f) { s.setTenant { ten with tagCtr := ctr } with jobs := s.jobs ++ [j], nextId := s.nextId + 1 }
           t f.dst.toNat (.ofNat 64 (k + 64 * tag))))) ∧
  (∀ f s cw cf ls ten, Enters (.cpfill f) f s cw cf → f.mod.getLsbD 9 = true →
    (let n := (s.rdS (srcNum f.a + 1)).toNat
     let k := s.freeHeld s.grp.team
     n ≤ 2 ^ 40 → s.span s.team (s.rdS (srcNum f.a)).toNat n 1 .engWrite = .ok ls → s.tenantOf? s.team.ten = some ten →
     (s.liveTags s.team.ten).length < 2 ^ 26 → ∃ t, exec (.cpfill f) s = .next t ∧
       (k = 0 → ScaResult (.cpfill f) s t f.dst.toNat 0) ∧
       (k ≠ 0 → ∃ (j : Job) (tag ctr : Nat), NextTag s ten (2 ^ 26) tag ctr ∧ j.id = s.nextId ∧ j.batch = s.grp.batchOpen ∧
         j.guard = guardSlot f ∧ j.st = .held k tag false ∧ j.recipe = .fill (s.rdS (srcNum f.a)) n (s.scalarSrc f.b) (s.scalarSrc f.c) ∧
         ScaResult (.cpfill f) { s.setTenant { ten with tagCtr := ctr } with jobs := s.jobs ++ [j], nextId := s.nextId + 1 }
           t f.dst.toNat (.ofNat 64 (k + 64 * tag))))) ∧
  (∀ i f s cw, (i = .cpl f ∨ i = .cpgather f ∨ i = .cpscatter f) → Issues i f s → guardFalse s f = true → s.effLanes f.msk.toNat ≠ [] →
    (i ≠ .cpl f → 1 ≤ rowLen s f ∧ rowLen s f ≤ 4096) →
    parseCw s.launch.barriers (s.scalarSrc f.c) = some cw → ∃ t, exec i s = .next t ∧ NoResult i (undenied s) t) ∧
  (∀ i f s cw, (i = .cpfill f ∨ i = .cptile f) → Issues i f s → guardFalse s f = true → f.mod.getLsbD 9 = false →
    (i = .cpfill f → (s.rdS (srcNum f.a + 1)).toNat ≤ 2 ^ 40) →
    (i = .cptile f → ∃ sr dr, s.tensor? ((s.rdS (srcNum f.a)).toNat % 2 ^ 32) = some sr ∧
      s.tensor? ((s.rdS (srcNum f.a)).toNat / 2 ^ 32) = some dr ∧ recAt dr 10 1 % 2 = 0) →
    parseCw s.launch.barriers (s.scalarSrc f.c) = some cw → ∃ t, exec i s = .next t ∧ NoResult i (undenied s) t)

/-- R130: What a completion word asks for: nothing, a counter at a generic or scratchpad address, or a barrier of the
team; a word that breaks the layout is an illegal operand. -/
def Obligations.CompletionWords : Prop :=
  ∀ bars (w : Word),
    let n := w.toNat
    let addr := n % 2 ^ 48
    let scope := n / 2 ^ 59 % 8
    (w = 0 → parseCw bars w = some .nothing) ∧
    (n / 2 ^ 62 = 0 → w ≠ 0 → parseCw bars w = none) ∧
    (n / 2 ^ 62 = 3 → parseCw bars w = none) ∧
    (n / 2 ^ 48 % 2 ^ 10 ≠ 0 → parseCw bars w = none) ∧
    (n / 2 ^ 62 = 1 → n / 2 ^ 48 % 2 ^ 10 = 0 → scope < 7 → n / 2 ^ 58 % 2 = 0 → parseCw bars w = some (.counter scope addr)) ∧
    (n / 2 ^ 62 = 1 → n / 2 ^ 48 % 2 ^ 10 = 0 → scope < 7 → n / 2 ^ 58 % 2 = 1 → addr < 2 ^ 27 →
      parseCw bars w = some (.counter scope (0x3000000000000000 + addr))) ∧
    (n / 2 ^ 62 = 1 → scope = 7 → parseCw bars w = none) ∧
    (n / 2 ^ 62 = 1 → n / 2 ^ 58 % 2 = 1 → 2 ^ 27 ≤ addr → parseCw bars w = none) ∧
    (n / 2 ^ 62 = 2 → n / 2 ^ 48 % 2 ^ 14 = 0 → addr < bars → parseCw bars w = some (.barrier addr)) ∧
    (n / 2 ^ 62 = 2 → (n / 2 ^ 48 % 2 ^ 14 ≠ 0 ∨ bars ≤ addr) → parseCw bars w = none)

namespace Sys2Proof.Claims

/-- `a` comes no earlier than `b` in serial order modulo 2³² (R141). -/
def notBefore (a b : Nat) : Bool := (BitVec.ofNat 32 a - BitVec.ofNat 32 b).toNat < 2 ^ 31

/-- The batch that a target names in a group: one that is open or later is taken as the one before the open batch (R141). -/
def targetIn (g : Group) (n : Nat) : Nat := if notBefore n g.batchOpen then g.batchOpen - 1 else n % 2 ^ 32

/-- Its batches are complete; and it covers a batch. -/
def Reached (s : State) (gi n : Nat) : Prop := notBefore (s.batchDone gi) (targetIn (s.grpAt gi) n) = true
def Covers (g : Group) (n b : Nat) : Prop := notBefore (targetIn g n) b = true

end Sys2Proof.Claims

/-- R132, R140 to R144, R301: ACLOSE gives the open batch's number modulo 2³² and opens the next; AWAIT waits for its
target as it stands when it issues, and then goes on, or takes the 0x30 of the first batch with a deferred error that
the target covers; ATEST tells, or takes it; a target is reached in serial order modulo 2³², and one that is open or
later is the batch before the open one; CWAITGE goes on when the counter, read in its place among the group's accesses
as an acquire at its scope, has the value, and waits otherwise; one on flash comes through the staging cache; a peer's
counter is asked for by a transaction that reads its eight bytes. A wait holds its target and address from then on.
BATCHDONE is the largest n with batches 1 to n complete: no command, install, matrix operation or remote write of the
group lies in a batch up to it, and it is below the open batch; when it stands lower than that, the batch after it has
work. (That a counter on path 0xF is 0x11 for every group is log entry 27, DEDUCED; a peer that finds a fault, and the
bytes it answers with, log entry 6.) (That a region is closed before a check that fails is log entry 69.) -/
def Obligations.Batches : Prop :=
  (∀ f s, Issues (.aclose f) f s → ∃ t, exec (.aclose f) s = .next t ∧
    ScaResult (.aclose f) (s.setGrp { s.grp with batchOpen := s.grp.batchOpen + 1 }) t f.dst.toNat
      (.ofNat 64 (s.grp.batchOpen % 2 ^ 32))) ∧
  (∀ f s, Issues (.await f) f s →
    let n := (s.scalarSrc f.a).toNat
    let next := s.split.pc + .ofNat 64 (8 * (Instr.await f).words)
    (Reached s s.cur n → (∀ b ∈ s.grp.pend30, ¬Covers s.grp n b) → ∃ t, exec (.await f) s = .next t ∧ NoResult (.await f) s t) ∧
    (∀ pre b post, Reached s s.cur n → s.grp.pend30 = pre ++ b :: post → (∀ c ∈ pre, ¬Covers s.grp n c) → Covers s.grp n b →
      exec (.await f) s = .next (s.closeRegion.raise30 b)) ∧
    (¬Reached s s.cur n → s.grp.pend30 = [] → s.team.requests = [] →
      exec (.await f) s = .next (s.closeRegion.setSplit { s.split with wait := .await (targetIn s.grp n) next }))) ∧
  (∀ (s : State) gi k n next, gi < s.groups.length → k < 2 → (s.spAt (gi, k)).wait = .await n next →
    (∀ b ∈ (s.grpAt gi).pend30, ¬Covers (s.grpAt gi) n b) → s.issueAt gi k =
      .next ((s.issuing gi k).setSpAt (gi, k) { s.spAt (gi, k) with pc := next, wait := .none, since := s.tick + 1 })) ∧
  (∀ f s, Issues (.atest f) f s →
    let n := (s.scalarSrc f.a).toNat
    ((∀ b ∈ s.grp.pend30, ¬Covers s.grp n b) → ∃ t, exec (.atest f) s = .next t ∧
      (Reached s s.cur n → ScaResult (.atest f) s t f.dst.toNat 1) ∧ (¬Reached s s.cur n → ScaResult (.atest f) s t f.dst.toNat 0)) ∧
    (∀ pre b post, s.grp.pend30 = pre ++ b :: post → (∀ c ∈ pre, ¬Covers s.grp n c) → Covers s.grp n b →
      exec (.atest f) s = .next (s.closeRegion.raise30 b))) ∧
  (∀ f s l, Issues (.cwaitge f) f s → path (s.scalarSrc f.a) ≠ 4 → path (s.scalarSrc f.a) ≠ 15 →
    s.access s.team (s.scalarSrc f.a) 8 8 .read = .ok l → far l = false →
    let mayRead := s.mayPoll s.cur s.curSplit (s.scalarSrc f.a) l (scopeOf f.mod)
    let granule := l.a / 2 ^ 21
    (l.sp = .flash → granule ∉ s.staged → ∃ fl, exec (.cwaitge f) s = .next (({ s.closeRegion with filling := fl } : State).setSplit
        { s.split with wait := .fill [granule] }) ∧ ∀ g, g ∈ fl ↔ g ∈ s.filling ∨ g = granule) ∧
    ((l.sp = .flash → granule ∈ s.staged) → mayRead = true → (s.scalarSrc f.b).toNat ≤ s.rdN l 8 →
      ∃ t, exec (.cwaitge f) s = .next t ∧ NoResult (.cwaitge f) s t) ∧
    ((l.sp = .flash → granule ∈ s.staged) → (mayRead = false ∨ s.rdN l 8 < (s.scalarSrc f.b).toNat) → s.grp.pend30 = [] →
      s.team.requests = [] → exec (.cwaitge f) s = .next (s.closeRegion.setSplit
        { s.split with wait := .cwait (s.scalarSrc f.a) (s.scalarSrc f.b).toNat (scopeOf f.mod) (s.split.pc + .ofNat 64 (8 * (Instr.cwaitge f).words)) }))) ∧
  (∀ (s : State) gi k a v scope next l, gi < s.groups.length → k < 2 → (s.spAt (gi, k)).wait = .cwait a v scope next →
    s.access (s.teamOf (s.grpAt gi).team) a 8 8 .read = .ok l → far l = false → (l.sp = .flash → l.a / 2 ^ 21 ∈ s.staged) →
    s.issueAt gi k = .next ((s.issuing gi k).setSpAt (gi, k) (if s.mayPoll gi k a l scope = true ∧ v ≤ s.rdN l 8
      then { s.spAt (gi, k) with pc := next, wait := .none, since := s.tick + 1 } else s.spAt (gi, k)))) ∧
  (∀ f s a p ten, Issues (.cwaitge f) f s → a = s.scalarSrc f.a → path a = 5 → below a / 2 ^ 48 % 16 = 0 → a.toNat % 8 = 0 →
    s.pairs.find? (fun x => x.1 == s.team.ten && x.2.1 == below a / 2 ^ 52) = some (s.team.ten, p, ten) → p = below a / 2 ^ 52 →
    p ≠ s.set.devId → p ∈ s.routes → s.mayPoll s.cur s.curSplit a ⟨.remote p, a.toNat % 2 ^ 48⟩ (scopeOf f.mod) = true →
    s.polling s.cur s.curSplit = false → s.grp.pend30 = [] → s.team.requests = [] →
    let code := Config.peerFault p (a.toNat % 2 ^ 48) Use.read.code
    (code = 0 → ∃ t x, exec (.cwaitge f) s = .next t ∧
      t = { s.closeRegion.setSplit { s.split with wait := .cwait a (s.scalarSrc f.b).toNat (scopeOf f.mod) (s.split.pc + .ofNat 64 (8 * (Instr.cwaitge f).words)) } with
        remote := s.remote ++ [x], nextId := s.nextId + 1 } ∧
      x.peer = p ∧ x.addr = a.toNat % 2 ^ 48 / 128 * 128 ∧ x.op = .access (.read ((List.range 8).map (a.toNat % 128 + ·))) ∧
      x.who = .poll (s.scalarSrc f.b).toNat (s.split.pc + .ofNat 64 (8 * (Instr.cwaitge f).words)) ∧ x.grp = s.cur ∧ x.sp = s.curSplit) ∧
    (code ≠ 0 → exec (.cwaitge f) s = .next (s.closeRegion.fault { code, addr := a, info32 := Use.read.code }))) ∧
  (∀ f s a, Issues (.cwaitge f) f s → a = s.scalarSrc f.a → (path a = 4 ∨ path a = 15) →
    exec (.cwaitge f) s = .next (s.closeRegion.fault { code := 0x11, addr := a, info32 := 0 })) ∧
  (∀ (s : State) gi, (∀ b ∈ s.openWork gi, 1 ≤ b ∧ b ≤ (s.grpAt gi).batchOpen) → 1 ≤ (s.grpAt gi).batchOpen →
    s.batchDone gi < (s.grpAt gi).batchOpen ∧ (∀ b ∈ s.openWork gi, s.batchDone gi < b) ∧
      (s.batchDone gi + 1 = (s.grpAt gi).batchOpen ∨ s.batchDone gi + 1 ∈ s.openWork gi))

/-- R131, R147, R149 to R153, R301: GSET 0 discards the commands that wait on the slot, GSET 1 lets them start, GSET 2
opens a slot nobody waits on; with a waiting command, GSET 2 is 0x22. A failed waiting command is discarded at GSET 1,
the others start, and the first one's fault is taken there. BNCOUNT gives each lane its bin's count before its own
increment, lanes in order; BNPATCH changes a held command by count times multiplier; BNREL puts a held command at the
end of its group's queue, a patched one with its addresses found anew, and one whose check fails is discarded with its
fault, a Deliver answer too; BNRESET clears the bins. (That a region is closed before a check that fails is log entry
69.) -/
def Obligations.GuardsAndBins : Prop :=
  (∀ f s, Issues (.gset f) f s →
    let n := f.dst.toNat
    let waits (j : Job) : Bool := j.grp == s.cur && j.guard == some n && j.st == .queued
    let set (g : Guard) : State := s.setGrp { s.grp with guards := Map.set .true s.grp.guards n g }
    (s.scalarSrc f.a = 0 → ∃ t, exec (.gset f) s = .next t ∧
      NoResult (.gset f) { set .false with jobs := s.jobs.filter fun j => !waits j } t) ∧
    (s.scalarSrc f.a = 1 → (∀ j ∈ s.jobs, waits j = true → j.failed = none ∧ j.stale = false) → ∃ t, exec (.gset f) s = .next t ∧
      NoResult (.gset f) { set .true with jobs := s.jobs.map fun j => if waits j then { j with guard := none } else j } t) ∧
    (∀ e r, s.scalarSrc f.a = 1 → (∀ j ∈ s.jobs, waits j = true → j.stale = false) → (s.jobs.filter waits).filterMap (·.failed) = e :: r →
      exec (.gset f) s = .next (({ s.closeRegion.setGrp { s.closeRegion.grp with guards := Map.set .true s.grp.guards n .true } with
        jobs := (s.jobs.filter fun j => !(waits j && j.failed.isSome)).map fun j => if waits j then { j with guard := none } else j }).fault e)) ∧
    (s.scalarSrc f.a = 2 → (∀ j ∈ s.jobs, waits j = false) → ∃ t, exec (.gset f) s = .next t ∧ NoResult (.gset f) (set .open) t) ∧
    (s.scalarSrc f.a = 2 → (∃ j ∈ s.jobs, waits j = true) → exec (.gset f) s = .next (s.closeRegion.fault { code := 0x22 })) ∧
    (2 < (s.scalarSrc f.a).toNat → exec (.gset f) s = .next (s.closeRegion.fault (fieldFault 1)))) ∧
  (∀ f s, Issues (.bncount f) f s →
    (let ls := s.effLanes f.msk.toNat
     let bin (l : Nat) : Nat := (s.src32 f.a l).toNat % 256
     ∃ t bins, exec (.bncount f) s = .next t ∧
       VecResult (.bncount f) (s.setTeam { s.team with bins := bins }) t false f.dst.toNat ls
         (fun l => (s.team.bin (bin l)).toNat + (ls.filter fun k => decide (k < l) && bin k == bin l).length) ∧
       ∀ b, Map.get 0 bins b = s.team.bin b + .ofNat 32 (ls.filter fun l => bin l == b).length)) ∧
  (∀ f s j k g p, Issues (.bnpatch f) f s → (s.scalarSrc f.b).toNat ≤ 255 → s.heldJob? (s.scalarSrc f.a) = some j →
    j.st = .held k g p → ∃ t, exec (.bnpatch f) s = .next t ∧ NoResult (.bnpatch f) (s.setJob { j with
      recipe := j.recipe.patch (min ((s.team.bin (s.scalarSrc f.b).toNat).toNat * (s.scalarSrc f.c).toNat) (2 ^ 64 - 1)), st := .held k g true }) t) ∧
  (∀ f s j k g, Issues (.bnrel f) f s → s.heldJob? (s.scalarSrc f.a) = some j → j.st = .held k g false →
    j.failed = none → j.guard = none → j.stale = false → ∃ t, exec (.bnrel f) s = .next t ∧ NoResult (.bnrel f)
      { s with jobs := (s.jobs.filter fun x => x.id != j.id) ++ [{ j with id := s.nextId, st := .queued }], nextId := s.nextId + 1 } t) ∧
  (∀ f s j k g, Issues (.bnrel f) f s → s.heldJob? (s.scalarSrc f.a) = some j → j.st = .held k g true → j.guard = none →
    let bare : State := s.closeRegion.dropJob j.id
    (∀ e, s.split.denied = some e → exec (.bnrel f) s = .next ((undenied s.closeRegion).dropJob j.id |>.fault e)) ∧
    (∀ e, s.split.denied = none → s.closeRegion.replan { j with failed := none } = .flt e → exec (.bnrel f) s = .next (bare.fault e)) ∧
    (∀ x, s.split.denied = none → s.closeRegion.replan { j with failed := none } = .ok x → ∃ t, exec (.bnrel f) s = .next t ∧ NoResult (.bnrel f)
      { s with jobs := (s.jobs.filter fun y => y.id != x.id) ++ [{ x with id := s.nextId, st := .queued, guard := none }], nextId := s.nextId + 1 } t)) ∧
  (∀ f s, s.heldJob? (s.scalarSrc f.a) = none → Issues (.bnrel f) f s →
    exec (.bnrel f) s = .next (s.closeRegion.fault { code := 0x20, info32 := (s.scalarSrc f.a).toNat % 2 ^ 32 })) ∧
  (∀ f s, Issues (.bnreset f) f s → ∃ t, exec (.bnreset f) s = .next t ∧
    NoResult (.bnreset f) (s.setTeam { s.team with bins := [] }) t)

namespace Sys2Proof.Claims

/-- What an element of a job gets: a given value; bits of the bytes at its source, which a CPTILE converts unless it keeps them (R138);
or accumulator bytes as a drain delivers them (R209). -/
def ElementGets (s : State) (k : JobKind) : ESrc → Nat → Prop
  | .lit v, x => x = v
  | .at ls b w, x =>
    let v := readAt s ls / 2 ^ b % 2 ^ w
    (match k with
    | .tile c => if sameBits c then x = v else GivesElement c.de 0 c.sat ((elementVal c.se v).over (valOf fF32 c.scale)) x
    | _ => x = v)
  | .acc c a n code sat, x => x = drainConv code sat (Memory.rdN (s.col c).accum a n)

/-- An OLOAD's byte 48 to 63 of a row of an FP6 slot, which it writes as zero (R59). -/
def zeroTail (s : State) (j : Job) (e : El) : Bool := match j.kind with
  | .oload c _ _ => e.dst.any fun l => 48 ≤ l.a % 64 && (s.col c).fp6.contains (l.a / 1024 % 256)
  | _ => false

/-- A job whose sources and shared bytes lie in this module, every destination byte of an element holding bits of it; its moves, where it
is a copy of such, number its bytes. -/
def LocalJob (j : Job) : Prop :=
  (∀ e ∈ j.els, (∀ l, (∃ ls b w, e.src = .at ls b w ∧ l ∈ ls) → far l = false ∧ l.sp ≠ .ctl) ∧
    ((e.bit = 0 ∧ e.w % 8 = 0) ∨ ∀ l ∈ e.dst, far l = false) ∧ 0 < e.w ∧ e.bit < 8 ∧ e.bit + e.w ≤ 8 * e.dst.length ∧
    8 * e.dst.length < e.bit + e.w + 8) ∧
  ∀ ms cw, j.recipe = .copy ms cw → (ms.map (·.n)).sum = j.els.length

/-- The lane or row that element `k` of a copy belongs to. -/
def moveOf : List Move → Nat → Nat
  | [], _ => 0
  | m :: r, k => if k < m.n then 0 else 1 + moveOf r (k - m.n)
def rowOf (j : Job) (k : Nat) : Nat := match j.recipe with
  | .copy ms _ => moveOf ms k
  | _ => 0

/-- The line of a place that a piece lies in: 64 bytes of an indexed page, 128 bytes elsewhere. -/
def pieceLine (l : Loc) : Nat × Nat × Bool := match l.sp with
  | .mem true _ => (l.sp.key, l.a / 64, true)
  | _ => (l.sp.key, l.a / 128, false)

/-- The 64-byte lines an element's source lies in, by space and number. -/
def sourceLines (e : El) : List (Nat × Nat) := match e.src with
  | .at ls _ _ => distinct (ls.map fun l => (l.sp.key, l.a / 64))
  | _ => []

/-- The writes an element makes with a value: one, or where its bytes lie in two lines one for each byte (R114, R138). -/
def elementWrites (j : Job) (k : Nat) (e : El) (v : Nat) : List BitWr :=
  let whole : BitWr := ⟨e.dst, e.bit, e.w, v, sourceLines e, rowOf j k⟩
  if e.dst.all fun l => pieceLine l = pieceLine (e.dst.headD l) then [whole]
  else e.dst.zipIdx.filterMap fun p =>
    let lo := max e.bit (8 * p.2)
    let hi := min (e.bit + e.w) (8 * (p.2 + 1))
    if lo < hi then some { whole with locs := [p.1], bit := lo - 8 * p.2, w := hi - lo, v := v / 2 ^ (lo - e.bit) % 2 ^ (hi - lo) } else none

/-- Zeros for bytes 48 to 63 of a slot row that a CPTILE fills with FP6 elements (R59). -/
def RowTail (j : Job) (w : BitWr) : Prop :=
  let mine (l : Loc) : Prop := l.sp = .win ∧ winArea l.a = 2 ∧ ∃ e ∈ j.els, l ∈ e.dst
  ∃ c r i, j.kind = .tile c ∧ (c.de = 7 ∨ c.de = 8) ∧ i < 16 ∧ w = ⟨[⟨.win, 64 * r + 48 + i⟩], 0, 8, 0, [], 0⟩ ∧
    (∃ l, mine l ∧ l.a / 64 = r) ∧ ∀ l, mine l → l.a / 64 = r → l.a % 64 < 48

/-- The bytes a piece counts: of a CPTILE each destination byte once, of other commands all it carries. -/
def Counts (j : Job) (ws : List BitWr) (p : Piece) : Prop :=
  let mine := p.wr.filter fun w => ws.contains w
  match j.kind with
  | .tile _ => ∃ bs : List (Nat × Nat), bs.Nodup ∧ bs.length = p.count ∧ ∀ x, x ∈ bs ↔ ∃ w ∈ mine, ∃ l ∈ w.locs, x = (l.sp.key, l.a)
  | _ => p.count = (mine.map fun w => w.w / 8).sum

/-- A byte of DRAM, of a Rope's scratchpad, of a slot, of a held accumulator bank, or of a resident group's registers. -/
def Byteable (s : State) (l : Loc) : Prop :=
  InMemory l 1 ∨ (l.sp = .win ∧ l.a < 2 ^ 60 ∧ winLayout l.a = true ∧
    (winArea l.a = 3 → s.bankFree (winCol l.a) (l.a % 2 ^ 19 / 8192) = false) ∧
    (winArea l.a ≤ 1 → s.residentAt? (winCol l.a) (winSlot l.a) ≠ none))

/-- Bit `i` of the byte at a place, where a write puts one there. -/
def bitAt (b : BitWr) (l : Loc) (i : Nat) : Option Bool :=
  (b.locs.zipIdx.find? fun p => p.1.same l && b.bit ≤ 8 * p.2 + i && 8 * p.2 + i < b.bit + b.w).map fun p => bitOf b.v (8 * p.2 + i - b.bit)

/-- A piece whose writes go to bytes of this module, no bit of one twice. -/
def LocalPiece (s : State) (p : Piece) : Prop :=
  (∀ b ∈ p.wr, b.v < 2 ^ b.w ∧ b.bit + b.w ≤ 8 * b.locs.length ∧ (∀ l ∈ b.locs, Byteable s l) ∧
    b.locs.Pairwise fun l m => l.same m = false) ∧
  p.wr.Pairwise fun x y => ∀ l i, bitAt x l i = none ∨ bitAt y l i = none

/-- The bytes that bad source lines would have fed: those of the command's found bad as it read, and those of the piece's that
`bad` numbers; for OLOAD the whole slot row with each (R132, R201). -/
def spoiled (j : Job) (p : Piece) (bad : List Nat) (b : BitWr) : Bool :=
  let lines := distinct (p.wr.flatMap (·.src))
  let hit (c : BitWr) : Bool := c.src.any fun x => j.bad.contains x || bad.any fun k => lines[k]? == some x
  let row (c : BitWr) : List (Nat × Nat) := c.locs.map fun l => (l.sp.key, l.a / 64)
  hit b || match j.kind with
    | .oload .. => p.wr.any fun c => hit c && row c == row b
    | _ => false

/-- An earlier piece of a job writes a byte of this one: it lands first (R133, R134). -/
def Behind (ps : List Piece) (k : Nat) (p : Piece) : Prop :=
  ∃ q ∈ ps.take k, ∃ b ∈ q.wr, ∃ c ∈ p.wr, ∃ l ∈ b.locs, ∃ m ∈ c.locs, l.same m = true

/-- A CPTILE's writes fill a slot of a column. -/
def fills (j : Job) (ws : List BitWr) (c k : Nat) : Bool := match j.kind with
  | .tile _ => ws.any fun b => b.locs.any fun l => l.sp == .win && winArea l.a == 2 && winCol l.a == c && l.a / 1024 % 256 == k
  | _ => false

/-- The element format it fills it with. -/
def fillsWith (j : Job) : Nat := match j.kind with
  | .tile c => c.de
  | _ => 0

/-- Pieces of a job on their way to peers. -/
def piecesAway (s : State) (id : Nat) : Bool := s.remote.any fun t => match t.who with
  | .piece k _ => k == id
  | _ => false

end Sys2Proof.Claims

/-- R59, R77, R114, R132 to R134, R138, R144, R145, R201, R229, R338: A job that may start, a copy, a fill, a CPTILE, an
OLOAD or an ASTORE, reads every source first and becomes pieces, each within one 128-byte line, one lane's or row's
part of a 64-byte line on an indexed page. Their writes together are its elements with the values read, those of a
CPTILE converted, of an ASTORE as drained, of an OLOAD zero in the last bytes of the rows of an FP6 slot, and a
CPTILE's zeros in the last bytes of FP6 rows of a slot; each piece counts its bytes (which slots are FP6 slots, and
that a CPTILE's zeros count nothing, is log entry 32, DEDUCED). Nothing else changes. While a source granule is not
staged the job asks for the granule instead. A piece lands, after those before it that write a byte of it: the bits of
its writes hold what was read, in DRAM, scratchpads, slots, accumulators or registers, but those that source lines
with an uncorrectable error would have fed, and every other bit keeps its value; the directories of the strings it
writes stay exact. A counter gains the piece's count whether bytes were lost or not, unless it was told before the
bytes, as one at a scope below the system's may be (log entry 28, DEDUCED); a barrier loses it from its pending bytes,
and is complete where that completes it; lost bytes owe the group a 0x30 for the batch. The job is over with its last
piece. A piece that goes to a peer is sent as one write of its bytes, to be counted when it is delivered. A slot that
a CPTILE fills with FP6 elements is an FP6 slot, one it fills otherwise none (log entry 32). (That an OLOAD's zeros
land with the last piece and count nothing is log entry 32, DEDUCED; that a counter below system scope may be told
before its bytes log entry 28, DEDUCED.) -/
def Obligations.EngineRuns : Prop :=
  (∀ s j, s.jobs.find? (fun x => x.id == j.id) = some j → s.jobReady j = true → j.stale = false → LocalJob j →
    (∀ x ∈ s.remote, x.who ≠ .jobRead j.id) →
    let missing (g : Nat) : Prop := g ∉ s.staged ∧ ∃ e ∈ j.els, ∃ l ls b w, e.src = .at ls b w ∧ l ∈ ls ∧ l.sp = .flash ∧ l.a / 2 ^ 21 = g ∧
      (l.sp.key, l.a / 64) ∉ j.bad
    ((∀ g, ¬ missing g) → ∃ v : Nat → Nat, (∀ k e, j.els[k]? = some e →
        if zeroTail s j e then v k = 0 else ElementGets s j.kind e.src (v k)) ∧
      (let ws := j.els.zipIdx.flatMap fun p => elementWrites j p.2 p.1 (v p.2)
       j.els ≠ [] → ∃ t ps, exec (.engineJobStart j.id) s = .next t ∧ t = s.setJob { j with st := .landing ps, els := [] } ∧
        (∀ w, (∃ p ∈ ps, w ∈ p.wr) ↔ w ∈ ws ∨ RowTail j w) ∧
        ∀ p ∈ ps, Counts j ws p ∧ p.counted = false ∧ ∀ x ∈ p.wr, ∀ y ∈ p.wr, ∀ l ∈ x.locs, ∀ m ∈ y.locs, pieceLine l = pieceLine m ∧
          ((∃ d, l.sp = .mem true d) → x.row = y.row))) ∧
    ((∃ g, missing g) → ∃ t fl, exec (.engineJobStart j.id) s = .next t ∧ t = { s.setJob j with filling := fl } ∧
      ∀ g, g ∈ fl ↔ g ∈ s.filling ∨ missing g)) ∧
  (∀ s j ps k p bad, s.jobs.find? (fun x => x.id == j.id) = some j → j.st = .landing ps → ps[k]? = some p → j.grp < s.groups.length →
    let lost : Bool := p.wr.any (spoiled j p bad)
    let writes := p.wr.filter fun b => !spoiled j p bad b
    let told := if p.counted then 0 else p.count
    let lands (t : State) : Prop := exec (.enginePieceLand j.id k bad) s = .next t
    (Behind ps k p → lands s) ∧
    (¬Behind ps k p → LocalPiece s p → (s.teamOf j.team).ended = false →
      (j.cw = .none → ∃ t, lands t ∧
        (∀ l i, Byteable s l → i < 8 → (t.rdB l).getLsbD i = (writes.findSome? fun b => bitAt b l i).getD ((s.rdB l).getLsbD i)) ∧
        t.jobs = (if ps.length = 1 ∧ piecesAway s j.id = false then s.jobs.filter fun x => x.id != j.id
          else s.jobs.map fun x => if x.id = j.id then { j with st := .landing (ps.eraseIdx k) } else x) ∧
        (lost = true → j.batch ∈ (t.grpAt j.grp).pend30) ∧
        ((∀ b ∈ p.wr, ∀ l ∈ b.locs, l.sp = .win → 2 ≤ winArea l.a) → (lost = false → t.groups = s.groups) ∧
          { t.grpAt j.grp with pend30 := (s.grpAt j.grp).pend30 } = s.grpAt j.grp ∧ ∀ g, g ≠ j.grp → t.grpAt g = s.grpAt g) ∧
        ((∀ b ∈ p.wr, ∀ l ∈ b.locs, l.sp ≠ .win) → t.columns = s.columns) ∧
        (∀ c n, n ∈ (t.col c).fp6 ↔ if fills j writes c n then fillsWith j = 7 ∨ fillsWith j = 8 else n ∈ (s.col c).fp6) ∧
        t.dirs = s.dirs.map (fun d => if d.built = true ∧ (∃ b ∈ writes, ∃ l ∈ b.locs,
          (∃ dur, l.sp = .mem true dur) ∧ l.a / 4096 * 4096 ∈ d.pages) then { d with parts := t.partsOf d } else d) ∧
        t.debts = s.debts.filter (fun d => !writes.any fun b => b.locs.any fun l => hides l 1 d) ∧
        { t with mem := s.mem, sram := s.sram, fill := s.fill, columns := s.columns, rjobs := s.rjobs, jobs := s.jobs, groups := s.groups
                 dirs := s.dirs, debts := s.debts } = s) ∧
      (∀ scope l, j.cw = .counter scope l → InMemory l 8 → (∀ b ∈ p.wr, ∀ m ∈ b.locs, m.overlaps 1 l 8 = false) →
        ∃ t, lands t ∧ t.rdN l 8 = (s.rdN l 8 + told) % 2 ^ 64) ∧
      (∀ b, j.cw = .barrier b → (∃ x ∈ s.teams, x.uid = j.team) → told ≠ 0 →
        let x := (s.teamOf j.team).bar b
        let left := { x with pending := x.pending - .ofNat 64 told }
        (x.cond = .invalid → ∃ t, lands t ∧ t.teams = s.teams) ∧
        (x.cond ≠ .invalid → left.done = false → ∃ t, lands t ∧ t.teamOf j.team = (s.teamOf j.team).setBar b left) ∧
        (x.cond ≠ .invalid → left.done = true → ∃ t, lands t ∧ ((t.teamOf j.team).bar b).cond = .idle ∧
          ((t.teamOf j.team).bar b).phase = x.phase + 1 ∧ ((t.teamOf j.team).bar b).pending = 0))) ∧
    (∀ scope l, j.cw = .counter scope l → InMemory l 8 → scope < 5 → p.counted = false → p.count ≠ 0 → ∃ t,
      s.perform (.count j.id k) = .next t ∧ t.rdN l 8 = (s.rdN l 8 + p.count) % 2 ^ 64 ∧
      t.jobs = (s.jobs.map fun x => if x.id = j.id then { j with st := .landing (ps.set k { p with counted := true }) } else x) ∧
      t.debts = { loc := l, n := 8, grp := j.grp, scope, upTo := 0, job := some j.id } :: s.debts ∧
      ∀ m : Loc, InMemory m 1 → m.overlaps 1 l 8 = false → t.rdB m = s.rdB m) ∧
    (∀ peer line, ¬Behind ps k p → p.wr ≠ [] → lost = false → p.counted = false → (∀ b ∈ p.wr, ∃ l, b.locs = [l] ∧ b.bit = 0 ∧ b.w = 8 ∧ b.v < 256 ∧ l.sp = .remote peer ∧
        l.a / 128 = line) → (p.wr.Pairwise fun x y => ∀ l ∈ x.locs, ∀ m ∈ y.locs, l.overlaps 1 m 1 = false) →
      ∃ t x xs, lands t ∧ x.peer = peer ∧ x.addr = 128 * line ∧ x.op = .access (.write xs) ∧
        x.who = .piece j.id p.count ∧ (∀ b ∈ p.wr, ∀ l ∈ b.locs, (l.a % 128, .ofNat 8 b.v) ∈ xs) ∧ xs.length = p.wr.length ∧
        t = { s with remote := s.remote ++ [x], nextId := s.nextId + 1, freeCtr := t.freeCtr
                     jobs := s.jobs.map fun y => if y.id = j.id then { j with st := .landing (ps.eraseIdx k) } else y }))

/-! ## The matrix engine (R58 to R64, R196 to R223) -/

namespace Sys2Proof.Claims

/-- OCLAIM and ACLAIM, OREL and AREL: fields, how many slots or banks there are, and whether slots are meant. -/
def claimOf : Instr → Option (Fields × Nat × Bool)
  | .oclaim f => some (f, 256, true)
  | .aclaim f => some (f, 64, false)
  | _ => none
def releaseOf : Instr → Option (Fields × Nat × Bool)
  | .orel f => some (f, 256, true)
  | .arel f => some (f, 64, false)
  | _ => none

/-- The holder of a slot or bank: a team's number plus one, 0 for nobody; and its bytes. -/
def holder (c : Column) (slots : Bool) (n : Nat) : Nat := if slots then Map.get 0 c.slotHeld n else Map.get 0 c.bankHeld n
def unitBytes (slots : Bool) : Nat := if slots then 1024 else 8192
def unitByte (c : Column) (slots : Bool) (a : Nat) : Byte := if slots then Memory.rd c.slots a else Memory.rd c.accum a
def rangeIn (f : Fields) (s : State) (n : Nat) : Prop :=
  (s.scalarSrc f.a).toNat ≤ n ∧ n < (s.scalarSrc f.a).toNat + (s.scalarSrc f.b).toNat
def rangeOk (f : Fields) (s : State) (top : Nat) : Prop :=
  (s.scalarSrc f.b).toNat ≠ 0 ∧ (s.scalarSrc f.a).toNat + (s.scalarSrc f.b).toNat ≤ top

/-- The team's own mark as a holder, and its column. -/
abbrev mine (s : State) : Nat := s.grp.team + 1
abbrev colOf (s : State) : Nat := s.team.col

/-- Something on these slots or banks of the team's column is under way: a matrix operation, an OLOAD, an ASTORE that has not read, or
an access that has passed its checks at a window. -/
def Busy (s : State) (slots : Bool) (ns : List Nat) : Prop := (if slots then s.slotsBusy (colOf s) ns else s.banksBusy (colOf s) ns) = true

/-- The numbers of a range that nobody holds. -/
def freeOf (f : Fields) (s : State) (slots : Bool) : List Nat :=
  ((List.range (s.scalarSrc f.b).toNat).map ((s.scalarSrc f.a).toNat + ·)).filter fun n => holder (s.col (colOf s)) slots n == 0

/-- The column's queue gets operations, numbered from the next free number on, of the group's open batch. -/
def withOps (s : State) (ks : List MxKind) : State :=
  if ks = [] then s
  else { s.setCol (colOf s) { s.col (colOf s) with
      ops := (s.col (colOf s)).ops ++ ks.zipIdx.map fun p => ⟨s.nextId + p.2, s.cur, s.grp.batchOpen, p.1⟩ } with
    nextId := s.nextId + ks.length }

/-- The jobs, those that still wait with a place in the range of slots or banks to be placed anew when they go on (R92). -/
def staled (f : Fields) (s : State) (slots : Bool) : List Job :=
  let hit (l : Loc) : Bool := l.sp == .win && winCol l.a == colOf s && winArea l.a == (if slots then 2 else 3) &&
    (let n := if slots then l.a / 1024 % 256 else l.a / 8192 % 64
     decide ((s.scalarSrc f.a).toNat ≤ n ∧ n < (s.scalarSrc f.a).toNat + (s.scalarSrc f.b).toNat))
  s.jobs.map fun j => if (j.idle || (j.st == .queued && s.behindGuard j.grp j.id)) && j.locs.any hit then { j with stale := true } else j

/-- What a drain leaves in vector registers (R210): element `e` of the rows goes to register `dst + m`, or the pair at `dst + 2m`, at
lane `l`, two elements to a lane in the packed formats; every other lane keeps its contents. -/
def DrainedInto (elem : Nat → Nat) (code dst nrows w : Nat) (ls : List Nat) (old new : Nat → Nat → Lane) : Prop :=
  let p := if code = 2 ∨ code = 3 then 2 else 1
  let at_ (e : Nat) : Nat := if e < 16 * nrows then elem e else 0
  let value (m l : Nat) : Nat := if p = 2 then at_ (2 * (w * m + l)) + 2 ^ 16 * at_ (2 * (w * m + l) + 1) else at_ (w * m + l)
  let takes (m l : Nat) : Prop := m < (16 * nrows + p * w - 1) / (p * w) ∧ l ∈ ls ∧ p * (w * m + l) < 16 * nrows
  (∀ m l, takes m l → code ≠ 1 → new (dst + m) l = .ofNat 32 (value m l)) ∧
  (∀ m l, takes m l → code = 1 → new (dst + 2 * m) l = .ofNat 32 (value m l) ∧ new (dst + 2 * m + 1) l = .ofNat 32 (value m l / 2 ^ 32)) ∧
  (∀ k l, l < 128 → (∀ m, takes m l → k ≠ dst + (if code = 1 then 2 * m else m) ∧ (code = 1 → k ≠ dst + 2 * m + 1)) → new k l = old k l)

/-- Bytes of an accumulator element that a drain reads, and of one that it delivers to memory (R209); and element `e` of its rows. -/
def readsBytes (code : Nat) : Nat := if code = 1 ∨ code = 5 then 8 else 4
def givesBytes (code : Nat) : Nat := if code = 1 then 8 else if code = 2 ∨ code = 3 then 2 else 4
def elementPlace (code tile row0 e : Nat) : Nat := 1024 * tile + readsBytes code * (16 * row0 + e)
def openPattern (code : Nat) : Nat := if readsBytes code = 8 then 0x7FC000017FC00001 else 0x7FC00001

/-- A drain into registers waits for earlier work on its tiles, for what a barrier orders before it, and for what a release that it
would observe there covers. -/
def DrainWaits (s : State) (code tile : Nat) : Prop :=
  let ts := if readsBytes code = 8 then [tile, tile + 1] else [tile]
  (∃ o ∈ (s.col (colOf s)).ops, ∃ t ∈ ts, t ∈ o.kind.tiles) ∨ ¬Ordered s ∨ ∃ t ∈ ts, s.owes (.split s.cur) 4 (winLoc (colOf s) 3 (1024 * t)) 1024 = true

/-- MQSTAT.UNALLOC is set where a drain reads a bank that nobody holds (R216). -/
def sawOpen (s : State) (un : Bool) : State := s.setGrp { s.grp with unalloc := s.grp.unalloc || un }

/-- The lanes of quarter `q` at a width (R204), and the quarters an MMA issues: named by MSK, every lane active. -/
def inQuarter (w q l : Nat) : Prop := q * (w / 4) ≤ l ∧ l < (q + 1) * (w / 4)
def Issued (f : Fields) (s : State) (qs : List Nat) : Prop :=
  qs.Pairwise (· < ·) ∧ ∀ q, q ∈ qs ↔ q < 4 ∧ f.msk.getLsbD q = true ∧ ∀ l, inQuarter s.width q l → (s.rdM 0).getLsbD l = true

/-- The counts and values that the matrix instructions check before any holder (R200, R202, R205, R209, R210, R355). -/
def OloadOk (f : Fields) (s : State) : Prop :=
  (s.scalarSrc f.a).toNat / 2 ^ 12 % 2 ^ 12 = 0 ∧ (s.scalarSrc f.a).toNat % 256 + ((s.scalarSrc f.a).toNat / 256 % 16 + 1) ≤ 256
def AzeroOk (f : Fields) (s : State) : Prop :=
  (s.scalarSrc f.b).toNat ≠ 0 ∧ (s.scalarSrc f.a).toNat + (s.scalarSrc f.b).toNat ≤ 512
def mmaASlot (f : Fields) (s : State) (q : Nat) : Nat := (s.scalarSrc f.a).toNat % 256 + q * ((s.scalarSrc f.a).toNat / 256 % 256)
def mmaTile (f : Fields) (s : State) (q : Nat) : Nat := (s.scalarSrc f.c).toNat % 1024 + q * ((s.scalarSrc f.c).toNat / 2 ^ 16 % 1024)
def MmaOk (f : Fields) (s : State) (qs : List Nat) : Prop :=
  let fmt := f.mod.toNat % 32
  (∀ j ∈ mmaScaleRegs fmt, f.dst.toNat + j < s.launch.vregs) ∧ (s.width = 16 → fmt < 18 ∨ fmt = 31) ∧
    ∀ q ∈ qs, (s.scalarSrc f.a).toNat / 2 ^ 16 = 0 ∧ (s.scalarSrc f.b).toNat < 256 ∧ (s.scalarSrc f.c).toNat / 2 ^ 10 % 64 = 0 ∧
      (s.scalarSrc f.c).toNat / 2 ^ 26 = 0 ∧ mmaASlot f s q ≤ 255 ∧ mmaTile f s q ≤ 511 ∧ (fmt = 0 → mmaTile f s q % 2 = 0)
def drainRegs (f : Fields) (s : State) : Nat :=
  let p := if f.mod.toNat % 8 = 2 ∨ f.mod.toNat % 8 = 3 then 2 else 1
  (16 * ((s.scalarSrc f.b).toNat / 256 % 32) + p * s.width - 1) / (p * s.width) * (if f.mod.toNat % 8 = 1 then 2 else 1)
def AdrainOk (f : Fields) (s : State) : Prop :=
  let r := (s.scalarSrc f.b).toNat
  (s.scalarSrc f.a).toNat ≤ 511 ∧ (drainIn (f.mod.toNat % 8) = 8 → (s.scalarSrc f.a).toNat % 2 = 0) ∧ r / 2 ^ 13 = 0 ∧
    r / 16 % 16 = 0 ∧ 1 ≤ r / 256 % 32 ∧ r % 16 + r / 256 % 32 ≤ 16 ∧ f.dst.toNat + drainRegs f s ≤ s.launch.vregs
def AstoreOk (f : Fields) (s : State) : Prop :=
  let sp := (s.scalarSrc f.b).toNat
  path (s.scalarSrc f.a) = 3 ∧ sp / 2 ^ 10 % 64 = 0 ∧ sp / 2 ^ 20 % 16 = 0 ∧ sp / 2 ^ 29 % 8 = 0 ∧
    sp % 1024 ≤ 511 ∧ (drainIn (f.mod.toNat % 8) = 8 → sp % 1024 % 2 = 0) ∧ 1 ≤ sp / 2 ^ 24 % 32 ∧ sp / 2 ^ 16 % 16 + sp / 2 ^ 24 % 32 ≤ 16
def ValuesPass (s : State) : Instr → Prop
  | .oload f => OloadOk f s
  | .azero f => AzeroOk f s
  | .mma f => ∃ qs, Issued f s qs ∧ MmaOk f s qs
  | .adrain f => AdrainOk f s ∧ s.effLanes f.msk.toNat ≠ []
  | .astore f => AstoreOk f s
  | _ => False

/-! One quarter operation (R56, R58, R61, R63). -/

/-- The element code of an MMA format, and the formats by their scales. -/
def elementOf (fmt : Nat) : Nat := if fmt < 16 then fmt else [5, 6, 5, 6, 7, 8, 9, 9, 9, 5, 7, 10, 12, 12, 13, 10].getD (fmt - 16) 0
abbrev tileScaled : List Nat := [16, 17, 31]
abbrev per32 : List Nat := [18, 19, 20, 21, 22, 30]
abbrev per8 : List Nat := [23, 28]
abbrev banded : List Nat := [24, 25, 26, 29]

/-- Elements of k in a slot row; element `k` of row `r` of a slot. -/
def depthOf (fmt : Nat) : Nat := if elementOf fmt = 7 ∨ elementOf fmt = 8 then 64 else 512 / elemW (elementOf fmt)
def slotBits (slots : Memory) (fmt slot r k : Nat) : Nat :=
  Memory.rdN slots (1024 * slot + 64 * r) 64 / 2 ^ (k * elemW (elementOf fmt)) % 2 ^ elemW (elementOf fmt)

/-- The scales of row `r` of A (`b` 0) or column `r` of B (`b` 1) at `k`, in the lanes of the scale registers. -/
def scaleAt (fmt bs q : Nat) (sc : Map Lane) (b r k : Nat) : Val :=
  let lane (j l : Nat) : Nat := (Map.get 0 sc (128 * j + l)).toNat
  let block8 : Val := .num false (e3m5Size (lane (2 * b + k / 64) (r + 16 * (k / 32 % 2)) / 2 ^ (8 * (k / 8 % 4)) % 256))
  if fmt ∈ tileScaled then valOf fF32 (lane b q)
  else if fmt ∈ per32 then e8m0Val (lane (2 * b + k / 64) (r + 16 * (k / 32 % 2)) / 2 ^ (8 * bs))
  else if fmt ∈ per8 then block8
  else if fmt ∈ banded then block8.times (valOf fBf16 (lane 4 q / 2 ^ (16 * b) % 2 ^ 16))
  else if fmt = 27 then valOf fF32 (lane 0 (16 * b + r))
  else .num false 1

end Sys2Proof.Claims

/-- R92, R197, R199: The claims answer 2 for an empty range or one past the end, 1 when another team holds part of it, and
change nothing then; else 0, the whole range is held, what was free is zeroed and what was held keeps its bytes. Where
something on what was free is under way the range is held at once, and the zeroing and the answer come after it, as an
operation in the matrix order. (That zeroed slots are no FP6 slots is log entry 32.) The releases answer 2 and 1
likewise; else 0, and the range is held by nobody, its bytes left in place. AREL also ends every band ownership of the
banks it releases. Commands that still wait on a guard, with a place in the range, are checked again when they go on.
(That a release acts at once is log entry 37, DEDUCED.) -/
def Obligations.MatrixClaims : Prop :=
  (∀ i f top sl s, claimOf i = some (f, top, sl) → Issues i f s →
    (¬rangeOk f s top → ∃ t, exec i s = .next t ∧ ScaResult i s t f.dst.toNat 2) ∧
    (rangeOk f s top →
      (∃ n, rangeIn f s n ∧ holder (s.col (colOf s)) sl n ≠ 0 ∧ holder (s.col (colOf s)) sl n ≠ mine s) →
      ∃ t, exec i s = .next t ∧ ScaResult i s t f.dst.toNat 1) ∧
    (rangeOk f s top → (∀ n, rangeIn f s n → holder (s.col (colOf s)) sl n = 0 ∨ holder (s.col (colOf s)) sl n = mine s) →
      ¬Busy s sl (freeOf f s sl) → ∃ t c, exec i s = .next t ∧ ScaResult i (s.setCol (colOf s) c) t f.dst.toNat 0 ∧
        (∀ n, (rangeIn f s n → holder c sl n = mine s) ∧ (¬rangeIn f s n → holder c sl n = holder (s.col (colOf s)) sl n)) ∧
        (∀ a, unitByte c sl a =
          if (s.scalarSrc f.a).toNat ≤ a / unitBytes sl ∧ a / unitBytes sl < (s.scalarSrc f.a).toNat + (s.scalarSrc f.b).toNat ∧
            holder (s.col (colOf s)) sl (a / unitBytes sl) = 0 then 0 else unitByte (s.col (colOf s)) sl a) ∧
        c.fp6 = (s.col (colOf s)).fp6.filter (fun k => !(sl && (freeOf f s sl).contains k)) ∧
        { (if sl then { c with slots := (s.col (colOf s)).slots, slotHeld := (s.col (colOf s)).slotHeld }
          else { c with accum := (s.col (colOf s)).accum, bankHeld := (s.col (colOf s)).bankHeld }) with fp6 := (s.col (colOf s)).fp6 } =
          s.col (colOf s)) ∧
    (rangeOk f s top → (∀ n, rangeIn f s n → holder (s.col (colOf s)) sl n = 0 ∨ holder (s.col (colOf s)) sl n = mine s) →
      Busy s sl (freeOf f s sl) → ∃ t c, exec i s = .next t ∧
        NoResult i (withOps (s.setCol (colOf s) c)
          [if sl then .claim (freeOf f s sl) [] (some f.dst.toNat) else .claim [] (freeOf f s sl) (some f.dst.toNat)]) t ∧
        (∀ n, (rangeIn f s n → holder c sl n = mine s) ∧ (¬rangeIn f s n → holder c sl n = holder (s.col (colOf s)) sl n)) ∧
        (if sl then { c with slotHeld := (s.col (colOf s)).slotHeld } else { c with bankHeld := (s.col (colOf s)).bankHeld }) = s.col (colOf s))) ∧
  (∀ i f top sl s, releaseOf i = some (f, top, sl) → Issues i f s →
    (¬rangeOk f s top → ∃ t, exec i s = .next t ∧ ScaResult i s t f.dst.toNat 2) ∧
    (rangeOk f s top → (∃ n, rangeIn f s n ∧ holder (s.col (colOf s)) sl n ≠ mine s) →
      ∃ t, exec i s = .next t ∧ ScaResult i s t f.dst.toNat 1) ∧
    (rangeOk f s top → (∀ n, rangeIn f s n → holder (s.col (colOf s)) sl n = mine s) →
      ∃ t c, exec i s = .next t ∧ ScaResult i { s.setCol (colOf s) c with jobs := staled f s sl } t f.dst.toNat 0 ∧
        (∀ n, holder c sl n = if (s.scalarSrc f.a).toNat ≤ n ∧ n < (s.scalarSrc f.a).toNat + (s.scalarSrc f.b).toNat then 0
          else holder (s.col (colOf s)) sl n) ∧
        (sl = false → ∀ b r, r < 16 → c.ownerOf b r =
          if (s.scalarSrc f.a).toNat ≤ b ∧ b < (s.scalarSrc f.a).toNat + (s.scalarSrc f.b).toNat then 0
          else (s.col (colOf s)).ownerOf b r) ∧
        { c with slotHeld := (s.col (colOf s)).slotHeld, bankHeld := (s.col (colOf s)).bankHeld
                 rowOwner := (s.col (colOf s)).rowOwner } = s.col (colOf s)))

/-- R200 to R206, R208, R209, R211, R220, R301, R355: AZERO and MMA queue their operations in order, MMA one for each
quarter whose lanes are all active, with the scales read now; ABAND gives the rows of its mask to the group, or with
.rel to nobody. What the matrix instructions stop on: values out of range (0x03), then every sub-array fenced (0x30),
then a slot the team does not hold (0x21), a tile whose bank it does not hold (0x23), a band it does not own (0x24).
(The numbers INFO32 names are log entry 31, the first check log entry 33.) (That a region is closed before a check
that fails is log entry 69.) -/
def Obligations.MatrixQueues : Prop :=
  (∀ f s, Issues (.azero f) f s → (s.col (colOf s)).fenced ≠ 15#4 →
    (let first := (s.scalarSrc f.a).toNat
     let n := (s.scalarSrc f.b).toNat
     n ≠ 0 → first + n ≤ 512 → (∀ t, first ≤ t → t < first + n → holder (s.col (colOf s)) false (t / 8) = mine s) →
     ∃ t, exec (.azero f) s = .next t ∧ NoResult (.azero f) (withOps s [.zero first n]) t)) ∧
  (∀ f s, ∀ (qs : List Nat) (part : Bool), Issues (.mma f) f s → (s.col (colOf s)).fenced ≠ 15#4 → s.width ∈ [16, 32, 64, 128] →
    Issued f s qs → MmaOk f s qs →
    (part = true ↔ ∃ q, q < 4 ∧ f.msk.getLsbD q = true ∧ (∃ l, inQuarter s.width q l ∧ (s.rdM 0).getLsbD l = true) ∧
      ∃ l, inQuarter s.width q l ∧ (s.rdM 0).getLsbD l = false) →
    (∀ q ∈ qs, holder (s.col (colOf s)) true (mmaASlot f s q) = mine s ∧ holder (s.col (colOf s)) true (s.scalarSrc f.b).toNat = mine s ∧
      holder (s.col (colOf s)) false (mmaTile f s q / 8) = mine s) →
    ∃ t sc, exec (.mma f) s = .next t ∧
      NoResult (.mma f) (withOps (s.setGrp { s.grp with mqpart := part }) (qs.map fun q => .quarter q (f.mod.toNat % 32) (f.mod.toNat / 32 % 4)
        (f.mod.getLsbD 7) (mmaASlot f s q) ((s.scalarSrc f.b).toNat % 256) (mmaTile f s q) sc)) t ∧
      ∀ j ∈ mmaScaleRegs (f.mod.toNat % 32), ∀ l, l < 32 → Map.get 0 sc (128 * j + l) = s.grp.rdV (f.dst.toNat + j) l) ∧
  (∀ f s, Issues (.aband f) f s →
    (let b := (s.scalarSrc f.a).toNat
     let m := (s.scalarSrc f.b).toNat
     let c := s.col (colOf s)
     b ≤ 63 → m < 2 ^ 16 → holder c false b = mine s →
     (∀ r, r < 16 → bitOf m r = true → c.ownerOf b r = 0 ∨ c.ownerOf b r = s.cur + 1) →
     ∃ t o, exec (.aband f) s = .next t ∧ NoResult (.aband f) (s.setCol (colOf s) { c with rowOwner := o }) t ∧
       ∀ k, Map.get 0 o k = if k / 16 = b ∧ bitOf m (k % 16) = true then (if f.mod.getLsbD 0 then 0 else s.cur + 1)
         else Map.get 0 c.rowOwner k)) ∧
  (∀ i f s, (i = .oload f ∨ i = .azero f ∨ i = .mma f ∨ i = .adrain f ∨ i = .astore f) → Issues i f s → s.width ∈ [16, 32, 64, 128] →
    ValuesPass s i → (s.col (colOf s)).fenced = 15#4 →
    exec i s = .next (s.closeRegion.fault { code := 0x30, info32 := s.grp.idemRetry })) ∧
  (∀ f s t, Issues (.azero f) f s → (s.col (colOf s)).fenced ≠ 15#4 →
    (let first := (s.scalarSrc f.a).toNat
     let n := (s.scalarSrc f.b).toNat
     n ≠ 0 → first + n ≤ 512 → first ≤ t → t < first + n → holder (s.col (colOf s)) false (t / 8) ≠ mine s →
     (∀ u, first ≤ u → u < t → holder (s.col (colOf s)) false (u / 8) = mine s) →
     exec (.azero f) s = .next (s.closeRegion.fault { code := 0x23, info32 := t }))) ∧
  (∀ f s, Issues (.azero f) f s → (s.scalarSrc f.a).toNat ≤ 511 →
    ((s.scalarSrc f.b).toNat = 0 ∨ 512 < (s.scalarSrc f.a).toNat + (s.scalarSrc f.b).toNat) →
    exec (.azero f) s = .next (s.closeRegion.fault { code := 0x03, info32 := 2 })) ∧
  (∀ f s, Issues (.oload f) f s → ¬OloadOk f s → exec (.oload f) s = .next (s.closeRegion.fault { code := 0x03, info32 := 1 })) ∧
  (∀ f s, Issues (.mma f) f s → (∃ j ∈ mmaScaleRegs (f.mod.toNat % 32), s.launch.vregs ≤ f.dst.toNat + j) →
    exec (.mma f) s = .next (s.closeRegion.fault { code := 0x03, info32 := 0 })) ∧
  (∀ f s k, Issues (.oload f) f s → (s.col (colOf s)).fenced ≠ 15#4 →
    (let slot := (s.scalarSrc f.a).toNat % 256
     let n := (s.scalarSrc f.a).toNat / 256 % 16 + 1
     OloadOk f s → slot ≤ k → k < slot + n → holder (s.col (colOf s)) true k ≠ mine s →
     (∀ u, slot ≤ u → u < k → holder (s.col (colOf s)) true u = mine s) →
     exec (.oload f) s = .next (s.closeRegion.fault { code := 0x21, info32 := k }))) ∧
  (∀ f s r, Issues (.aband f) f s →
    (let b := (s.scalarSrc f.a).toNat
     let m := (s.scalarSrc f.b).toNat
     let c := s.col (colOf s)
     b ≤ 63 → m < 2 ^ 16 →
     (holder c false b ≠ mine s ∨ (r < 16 ∧ bitOf m r = true ∧ c.ownerOf b r ≠ 0 ∧ c.ownerOf b r ≠ s.cur + 1)) →
     exec (.aband f) s = .next (s.closeRegion.fault { code := 0x24, info32 := b })))

/-- R57, R147, R198, R200, R209 to R212, R216: OLOAD queues a job that copies 64-byte rows into its slots, ASTORE one that
stores converted accumulator elements, tile row i at A + i × stride, its 16 elements one after another, each as wide
as the code's bytes (stride 0: rows with no gap); ADRAIN, which with no effective lane has no effect, writes converted
elements into vector registers, in lane order from its destination, and an unallocated bank reads as the pattern
0x7FC00001 and sets MQSTAT.UNALLOC. A drain's conversion is of the accumulator's value, rounded once. A false guard
drops an OLOAD or ASTORE that passes its other checks (that such an ASTORE sets UNALLOC all the same is log entry 83,
DESIGN CHOICE). A drain into registers that comes behind earlier work on its tiles is queued, and its results return
later. (Which slots are FP6 slots is log entry 32, DEDUCED; that an ASTORE dropped by a false guard leaves UNALLOC as
a copy would is log entry 83.) -/
def Obligations.MatrixTransfers : Prop :=
  (∀ f s cw cf, ∀ (sp : Nat → List Loc), Enters (.oload f) f s cw cf → guardFalse s f = false →
    (s.col (colOf s)).fenced ≠ 15#4 →
    (let spec := (s.scalarSrc f.a).toNat
     let slot := spec % 256
     let n := spec / 256 % 16 + 1
     OloadOk f s → (∀ k, slot ≤ k → k < slot + n → holder (s.col (colOf s)) true k = mine s) →
     (∀ r, r < 16 * n → s.span s.team ((s.scalarSrc f.b).toNat + r * (spec / 2 ^ 24)) 64 1 .engRead = .ok (sp r)) →
     ∃ t, exec (.oload f) s = .next t ∧ Queues (.oload f) f s t (.oload slot n (spec / 2 ^ 24) (s.scalarSrc f.b).toNat (s.scalarSrc f.c))
       (.oload (colOf s) slot n)
       ((List.range (16 * n)).flatMap fun r =>
         copied (sp r) ((List.range 64).map fun k => winLoc (colOf s) 2 (1024 * slot + 64 * r + k))) cw)) ∧
  (∀ f s cw cf un, ∀ (dp : Nat → Loc), Enters (.astore f) f s cw cf → guardFalse s f = false → (s.col (colOf s)).fenced ≠ 15#4 →
    (let code := f.mod.toNat % 8
     let sat := f.mod.getLsbD 3
     let sp := (s.scalarSrc f.b).toNat
     let tile := sp % 1024
     let row0 := sp / 2 ^ 16 % 16
     let nrows := sp / 2 ^ 24 % 32
     let w := givesBytes code
     let stride := if sp / 2 ^ 32 = 0 then 16 * w else sp / 2 ^ 32
     let dest (e : Nat) : Nat := (s.scalarSrc f.a).toNat + e / 16 * stride + e % 16 * w
     code < 6 → AstoreOk f s → s.drainCheck code tile row0 nrows = .inr un → stride % w = 0 →
     (∀ e, e < 16 * nrows → dest e < 2 ^ 64 ∧ s.access s.team (.ofNat 64 (dest e)) w w .engWrite = .ok (dp e)) →
     ∃ t, exec (.astore f) s = .next t ∧ Queues (.astore f) f (sawOpen s un) t
       (.astore un code sat tile row0 nrows (sp / 2 ^ 32) (s.scalarSrc f.a).toNat (s.scalarSrc f.c))
       (.astore (colOf s) tile (if un then 0 else if readsBytes code = 8 then 2 else 1))
       ((List.range (16 * nrows)).map fun e => ⟨(List.range w).map (dp e).plus, 0, 8 * w,
         if un then .lit (drainConv code sat (openPattern code)) else .acc (colOf s) (elementPlace code tile row0 e) (readsBytes code) code sat⟩) cw)) ∧
  (∀ f s, Issues (.adrain f) f s → s.effLanes f.msk.toNat = [] → f.dst.toNat + drainRegs f s ≤ s.launch.vregs →
    ∃ t, exec (.adrain f) s = .next t ∧ NoResult (.adrain f) s t) ∧
  (∀ f s un, Issues (.adrain f) f s → (s.col (colOf s)).fenced ≠ 15#4 → s.width ∈ [16, 32, 64, 128] →
    (let code := f.mod.toNat % 8
     let tile := (s.scalarSrc f.a).toNat
     let r := (s.scalarSrc f.b).toNat
     let row0 := r % 16
     let nrows := r / 256 % 32
     code < 6 → AdrainOk f s → s.effLanes f.msk.toNat ≠ [] → s.drainCheck code tile row0 nrows = .inr un →
     ((un = true ∨ ¬DrainWaits s code tile) → ∃ t vec, exec (.adrain f) s = .next t ∧
       Result (.adrain f) (sawOpen s un) t s.rdS vec s.rdM ∧
       DrainedInto (fun e => drainConv code (f.mod.getLsbD 3) (if un then openPattern code
         else Memory.rdN (s.col (colOf s)).accum (elementPlace code tile row0 e) (readsBytes code)))
         code f.dst.toNat nrows s.width (s.effLanes f.msk.toNat) s.grp.rdV vec) ∧
     (un = false → DrainWaits s code tile → ∃ t, exec (.adrain f) s = .next t ∧ NoResult (.adrain f)
       (withOps s [.drain code (f.mod.getLsbD 3) tile row0 nrows f.dst.toNat s.width (s.effLanes f.msk.toNat)]) t))) ∧
  (∀ code sat v, v < 2 ^ (if code = 5 then 64 else 32) → (code < 2 → drainConv code sat v = v) ∧ (code = 2 → Gives fBf16 0 sat (valOf fF32 v) (drainConv code sat v)) ∧
    (code = 3 → Gives fF16 0 sat (valOf fF32 v) (drainConv code sat v)) ∧
    (code = 4 → Gives fF32 0 false (ofInt (num true 32 v)) (drainConv code sat v)) ∧
    (code = 5 → Gives fF32 0 sat (valOf fF64 v) (drainConv code sat v))) ∧
  (∀ f s cw, Issues (.oload f) f s → guardFalse s f = true → (s.col (colOf s)).fenced ≠ 15#4 → OloadOk f s →
    (∀ k, (s.scalarSrc f.a).toNat % 256 ≤ k → k < (s.scalarSrc f.a).toNat % 256 + ((s.scalarSrc f.a).toNat / 256 % 16 + 1) →
      holder (s.col (colOf s)) true k = mine s) → parseCw s.launch.barriers (s.scalarSrc f.c) = some cw →
    ∃ t, exec (.oload f) s = .next t ∧ NoResult (.oload f) (undenied s) t) ∧
  (∀ f s cw un, Issues (.astore f) f s → guardFalse s f = true → (s.col (colOf s)).fenced ≠ 15#4 → AstoreOk f s →
    s.drainCheck (f.mod.toNat % 8) ((s.scalarSrc f.b).toNat % 1024) ((s.scalarSrc f.b).toNat / 2 ^ 16 % 16)
      ((s.scalarSrc f.b).toNat / 2 ^ 24 % 32) = .inr un → parseCw s.launch.barriers (s.scalarSrc f.c) = some cw →
    ∃ t, exec (.astore f) s = .next t ∧ NoResult (.astore f) (undenied (sawOpen s un)) t)

/-- R56, R58, R59, R61, R63, R199, R206, R207, R210, R217 to R221: MSTAT reads MQSTAT and clears its UNALLOC bit, the
team's banks and slots as bitmaps, a bank's row owners, or the fenced sub-arrays with the count of proof products. A
queued operation is applied once nothing before it names its tiles; a quarter operation changes its own tile's
elements, each to its sum, of integers modulo 2³², else chunk by chunk of exact scaled products with the value before,
each chunk rounded once, and nothing else of the column's memories, and counts for its sub-array; AZERO zeroes its
tiles; a drain that waited writes its registers; a claim that waited zeroes what it took and answers 0. (Which slots
count as FP6 slots is log entry 32.) A sub-array with a proof product due or running applies none; a proof product
begins when the interval is full, and one that fails fences its sub-array and tells the host. (The sign of zero
products of integer elements in the scaled formats is log entry 58, DESIGN CHOICE; that MSTAT acts at once is log
entry 37, DEDUCED; quarters queued when all four sub-arrays are fenced log entry 85.) -/
def Obligations.MatrixWork : Prop :=
  (∀ f s sel, Issues (.mstat f) f s → f.a = .lit (.ofNat 8 sel) → sel < 8 →
    let c := s.col (colOf s)
    ∃ t v, exec (.mstat f) s = .next t ∧
      ScaResult (.mstat f) (if sel = 0 then s.setGrp { s.grp with unalloc := false } else s) t f.dst.toNat v ∧
      (sel = 0 → v.toNat = s.grp.unalloc.toNat + 4096 * c.fenced.toNat) ∧
      (sel = 1 → ∀ b, b < 64 → v.getLsbD b = decide (holder c false b = mine s)) ∧
      (2 ≤ sel → sel ≤ 5 → ∀ k, k < 64 → v.getLsbD k = decide (holder c true (64 * (sel - 2) + k) = mine s)) ∧
      (sel = 7 → v.toNat % 2 ^ 32 = c.fenced.toNat ∧ v.toNat / 2 ^ 32 = c.proofs % 2 ^ 32) ∧
      (sel = 6 → let b := (s.scalarSrc f.b).toNat
        (63 < b → v = 0xFFFFFFFFFFFFFFFF#64) ∧ (b ≤ 63 → holder c false b ≠ mine s → v = 0) ∧
        (b ≤ 63 → holder c false b = mine s → v.getLsbD 32 = true ∧ ∀ r, r < 16 →
          v.getLsbD r = decide (c.ownerOf b r = s.cur + 1) ∧
          v.getLsbD (16 + r) = decide (c.ownerOf b r ≠ 0 ∧ c.ownerOf b r ≠ s.cur + 1)))) ∧
  (∀ s col o q fmt bs ov a b tile sc, s.columnOfOp? o.id = some (col, o) →
    o.kind = .quarter q fmt bs ov a b tile sc → s.opReady col o = true →
    (s.col col).runsOn q ∉ (s.col col).proving → ((s.col col).fenced.getLsbD ((s.col col).runsOn q) = true ∨
      Map.get 0 (s.col col).sinceProof ((s.col col).runsOn q) < s.set.proofEvery) → (s.teamOf (s.grpAt o.grp).team).ended = false →
    (let n := if fmt = 0 then 8 else 4
     let c := s.col col
     ∃ t, exec (.mmaQuarterComplete o.id) s = .next t ∧ { t with columns := s.columns } = s ∧ (∀ k, k ≠ col → t.col k = s.col k) ∧
       (∀ i j, i < 16 → j < 16 → Memory.rdN (t.col col).accum (1024 * tile + n * (16 * i + j)) n =
         mmaElement c.slots fmt bs q a b sc i j ov (Memory.rdN c.accum (1024 * tile + n * (16 * i + j)) n) % 256 ^ n) ∧
       (∀ k, k < 1024 * tile ∨ 1024 * tile + 256 * n ≤ k → Memory.rd (t.col col).accum k = Memory.rd c.accum k) ∧
       (t.col col).slots = c.slots ∧ (t.col col).ops = c.ops.filter (fun x => x.id != o.id) ∧
       Map.get 0 (t.col col).sinceProof (c.runsOn q) = Map.get 0 c.sinceProof (c.runsOn q) + 1 ∧
       (c.runsOn q, o.grp, o.batch) ∈ (t.col col).suspects ∧
       ∀ k, k ∈ (t.col col).fp6 ↔ if k = a ∨ k = b then elementOf fmt = 7 ∨ elementOf fmt = 8 else k ∈ c.fp6)) ∧
  (∀ s col o first n, s.columnOfOp? o.id = some (col, o) → o.kind = .zero first n → s.opReady col o = true →
    (s.teamOf (s.grpAt o.grp).team).ended = false → ∃ t, exec (.mmaQuarterComplete o.id) s = .next t ∧ { t with columns := s.columns } = s ∧
      (∀ k, k ≠ col → t.col k = s.col k) ∧ (∀ k, Memory.rd (t.col col).accum k =
        if 1024 * first ≤ k ∧ k < 1024 * (first + n) then 0 else Memory.rd (s.col col).accum k) ∧
      { t.col col with accum := (s.col col).accum, ops := (s.col col).ops } = s.col col ∧
      (t.col col).ops = (s.col col).ops.filter fun x => x.id != o.id) ∧
  (∀ s col o code sat tile row0 nrows dst w ls, s.columnOfOp? o.id = some (col, o) → o.kind = .drain code sat tile row0 nrows dst w ls →
    s.opReady col o = true → (s.teamOf (s.grpAt o.grp).team).ended = false → o.grp < s.groups.length → code < 6 → 1 ≤ nrows → nrows ≤ 16 →
    w ∈ [16, 32, 64, 128] → (∀ l ∈ ls, l < w) → ls.Nodup → ∃ t, exec (.mmaQuarterComplete o.id) s = .next t ∧
      { t with columns := s.columns, groups := s.groups } = s ∧
      t.col col = { s.col col with ops := (s.col col).ops.filter fun x => x.id != o.id } ∧ (∀ k, k ≠ col → t.col k = s.col k) ∧
      (∀ g, g ≠ o.grp → t.grpAt g = s.grpAt g) ∧ { t.grpAt o.grp with vregs := (s.grpAt o.grp).vregs } = s.grpAt o.grp ∧
      DrainedInto (fun e => drainConv code sat (Memory.rdN (s.col col).accum (elementPlace code tile row0 e) (readsBytes code)))
        code dst nrows w ls (s.grpAt o.grp).rdV (t.grpAt o.grp).rdV) ∧
  (∀ s col o ss bs d, s.columnOfOp? o.id = some (col, o) → o.kind = .claim ss bs d → s.opReady col o = true →
    (s.teamOf (s.grpAt o.grp).team).ended = false → o.grp < s.groups.length → ∃ t, exec (.mmaQuarterComplete o.id) s = .next t ∧
      { t with columns := s.columns, groups := s.groups } = s ∧ (∀ k, k ≠ col → t.col k = s.col k) ∧
      (∀ a, Memory.rd (t.col col).slots a = if a / 1024 ∈ ss then 0 else Memory.rd (s.col col).slots a) ∧
      (∀ a, Memory.rd (t.col col).accum a = if a / 8192 ∈ bs then 0 else Memory.rd (s.col col).accum a) ∧
      (t.col col).fp6 = (s.col col).fp6.filter (fun k => !ss.contains k) ∧ (t.col col).ops = (s.col col).ops.filter (fun x => x.id != o.id) ∧
      { t.col col with slots := (s.col col).slots, accum := (s.col col).accum, fp6 := (s.col col).fp6, ops := (s.col col).ops } = s.col col ∧
      (∀ g, g ≠ o.grp → t.grpAt g = s.grpAt g) ∧ { t.grpAt o.grp with sregs := (s.grpAt o.grp).sregs } = s.grpAt o.grp ∧
      ∀ k, (t.grpAt o.grp).rdS k = if d = some k then 0 else (s.grpAt o.grp).rdS k) ∧
  (∀ s col o q fmt bs ov a b tile sc, s.columnOfOp? o.id = some (col, o) → o.kind = .quarter q fmt bs ov a b tile sc →
    ((s.col col).runsOn q ∈ (s.col col).proving ∨ ((s.col col).fenced.getLsbD ((s.col col).runsOn q) = false ∧
      s.set.proofEvery ≤ Map.get 0 (s.col col).sinceProof ((s.col col).runsOn q))) → exec (.mmaQuarterComplete o.id) s = .next s) ∧
  (∀ (slots : Memory) fmt bs q a b sc i j ov old, 10 ≤ fmt → fmt ≤ 15 →
    (let e (sl r k : Nat) : Int := elementInt fmt (slotBits slots fmt sl r k)
     (mmaElement slots fmt bs q a b sc i j ov old : Int) =
       ((if ov then 0 else (old : Int)) + ((List.range (depthOf fmt)).map fun k => e a i k * e b j k).sum) % 2 ^ 32)) ∧
  (∀ (slots : Memory) fmt bs q a b sc i j ov old, fmt < 10 ∨ 16 ≤ fmt → fmt < 32 → bs < 4 →
    (let F := if fmt = 0 then fF64 else fF32
     let chunk := min (depthOf fmt) (if fmt = 0 then 8 else 32)
     let e (sl r k : Nat) : Val := elementVal (elementOf fmt) (slotBits slots fmt sl r k)
     let term (k : Nat) : Val := (((e a i k).times (e b j k)).times (scaleAt fmt bs q sc 0 i k)).times (scaleAt fmt bs q sc 1 j k)
     ∃ acc : Nat → Nat, (ov = false → acc 0 = old) ∧ acc (depthOf fmt / chunk) = mmaElement slots fmt bs q a b sc i j ov old ∧
       ∀ c, c < depthOf fmt / chunk → Gives F 0 false (total ((if ov = true ∧ c = 0 then [] else [valOf F (acc c)]) ++
         (List.range chunk).map fun d => term (c * chunk + d)) false) (acc (c + 1)))) ∧
  (∀ s col sa, sa < 4 → (s.col col).fenced.getLsbD sa = false → sa ∉ (s.col col).proving →
    s.set.proofEvery ≤ Map.get 0 (s.col col).sinceProof sa → exec (.proofProductStart col sa) s =
      .next (s.setCol col { s.col col with proving := sa :: (s.col col).proving })) ∧
  (∀ s col sa ok, sa ∈ (s.col col).proving → ∃ t, exec (.proofProductCheck col sa ok) s = .next t ∧
    sa ∉ (t.col col).proving ∧ Map.get 0 (t.col col).sinceProof sa = 0 ∧
    (t.col col).proofs = (if ok then (s.col col).proofs + 1 else (s.col col).proofs) ∧
    (t.col col).fenced = (if ok then (s.col col).fenced else (s.col col).fenced ||| 1#4 <<< sa) ∧
    (ok = false → .fenced col sa ∈ t.told) ∧ (ok = true → { t with columns := s.columns } = s) ∧
    (ok = false → { t with columns := s.columns, told := s.told, groups := s.groups, posts := s.posts } = s))

/-! ## Control flow, splits and barriers (R244 to R259, R291 to R293, R299) -/

namespace Sys2Proof.Claims

/-- The address after the instruction (R27). -/
def nextPc (i : Instr) (s : State) : Word := s.split.pc + .ofNat 64 (8 * i.words)

/-- A literal target: the next address and eight bytes for each word of the signed offset (R248). -/
def jumpTo (i : Instr) (s : State) (x : Src) : Word :=
  nextPc i s + 8 * (match x with
    | .lit v => v.signExtend 64
    | .litWord w => w
    | _ => 0)

/-- The state as the instruction finds it once it has closed a region (R301). -/
def closed (i : Instr) (s : State) : State := if i.closes then s.closeRegion else s

/-- Scalar registers get values and the split goes on at an address. -/
def Jumps (i : Instr) (s t : State) (sca : Nat → Word) (pc : Word) : Prop :=
  ∃ u, Result i s u sca s.grp.rdV s.rdM ∧ t = u.setSplit { u.split with pc := pc }

/-- An address a split may go to (R248). -/
abbrev PcOk (a : Word) : Prop := a.toNat / 2 ^ 48 = 0 ∧ a.toNat % 8 = 0

/-- No deferred error and no request waits at a yield check (R132, R291). -/
abbrev Unasked (s : State) : Prop := s.grp.pend30 = [] ∧ s.team.requests = []

/-- BRM's test of its mask on the effective lanes: some, all, none (R252). -/
def brmTest (mode : Nat) (m e : Mask) : Bool :=
  let in_ := (List.range 128).filter fun l => e.getLsbD l
  if mode = 0 then in_.any fun l => m.getLsbD l
  else if mode = 1 then in_.all fun l => m.getLsbD l
  else in_.all fun l => !m.getLsbD l

/-- The transfers: fields, whether taken, the target, the link register, and whether it is a yield check. -/
def transferOf (s : State) : Instr → Option (Fields × Bool × Word × Option Nat × Bool)
  | .bra f => some (f, true, jumpTo (.bra f) s f.a, none, false)
  | .brc f => some (f, (s.scalarSrc f.a != 0) != f.mod.getLsbD 0, jumpTo (.brc f) s f.b, none, false)
  | .brm f => some (f, brmTest (f.mod.toNat % 4) (s.maskSrc f.a) (s.eff f.msk.toNat), jumpTo (.brm f) s f.b, none, false)
  | .call f => some (f, true, jumpTo (.call f) s f.a, some f.dst.toNat, false)
  | .ret f => some (f, true, s.scalarSrc f.a, none, true)
  | .jmpi f => some (f, true, s.scalarSrc f.a, if f.mod.getLsbD 0 then some f.dst.toNat else none, true)
  | _ => none

end Sys2Proof.Claims

/-- R132, R248 to R253, R291: A transfer not taken goes on; one taken goes to its target, a call's link register holding
the next address; a target past 2⁴⁸ is 0x12 and a misaligned one 0x13, the link already written. RET and JMPI stop
first where a request waits, or raise the oldest deferred error. (That RET and JMPI raise the oldest deferred 0x30
before they transfer is log entry 22, DEDUCED.) -/
def Obligations.Transfers : Prop :=
  ∀ i f taken tg link yld s, transferOf s i = some (f, taken, tg, link, yld) → Issues i f s →
    (taken = false → ∃ t, exec i s = .next t ∧ NoResult i s t) ∧
    (taken = true → (yld = true → Unasked s) →
      (PcOk tg → ∃ t, exec i s = .next t ∧ Jumps i s t (fun k => if link = some k then nextPc i s else s.rdS k) tg) ∧
      (¬PcOk tg → exec i s = .next ((match link with
        | some d => s.wrS d (nextPc i s)
        | none => s).fault { code := if tg.toNat / 2 ^ 48 = 0 then 0x13 else 0x12, addr := tg }))) ∧
    (yld = true → s.grp.pend30 = [] → s.team.requests ≠ [] →
      exec i s = .next (s.setSplit { s.split with wait := .yielded, named := none, resume := .none })) ∧
    (∀ b r, yld = true → s.grp.pend30 = b :: r → exec i s = .next (s.raise30 b))

/-- R228, R245, R246: BSPL writes its block and sends the lanes of its mask on, the others to E: with lanes of one kind
only, or a live partner, one split goes on and the block's J is marked; else the partner starts. JOIN goes on at its J
when no lane of its block is with the partner, merges with a partner that waits at its JOIN, and waits for it
otherwise. A new split has executed the FENCEs of the one it comes from, a merged one those of both. (That E is
checked before J is log entry 21, DEDUCED.) -/
def Obligations.Splits : Prop :=
  (∀ f s, Issues (.bspl f) f s →
    (let e := jumpTo (.bspl f) s f.b
     let j := jumpTo (.bspl f) s f.c
     let m := s.split.m0
     let yes := m &&& s.maskSrc f.a
     let no := m &&& ~~~s.maskSrc f.a
     let d := f.dst.toNat
     let block (v : Word) (k : Nat) : Word :=
       if k = d + 2 then .ofNat 64 (m.toNat / 2 ^ 64) else if k = d + 1 then .ofNat 64 m.toNat else if k = d then v else s.rdS k
     let flag (b : Bool) : State := s.setGrp { s.grp with split := b }
     (¬PcOk e → exec (.bspl f) s = .next (s.fault { code := if e.toNat / 2 ^ 48 = 0 then 0x13 else 0x12, addr := e })) ∧
     (PcOk e → ¬PcOk j → exec (.bspl f) s = .next (s.fault { code := if j.toNat / 2 ^ 48 = 0 then 0x13 else 0x12, addr := j })) ∧
     (PcOk e → PcOk j → yes = 0 → ∃ t, exec (.bspl f) s = .next t ∧ Jumps (.bspl f) (flag true) t (block (j + 1)) e) ∧
     (PcOk e → PcOk j → yes ≠ 0 → (no = 0 ∨ s.partner.live = true) →
       ∃ t, exec (.bspl f) s = .next t ∧ Jumps (.bspl f) (flag true) t (block (j + 1)) (nextPc (.bspl f) s)) ∧
     (PcOk e → PcOk j → yes ≠ 0 → no ≠ 0 → s.partner.live = false → ∃ t u, exec (.bspl f) s = .next t ∧
       Result (.bspl f) (flag false) u (block j) s.grp.rdV s.rdM ∧
       (let own := s.grp.fences.filter fun m => m.sp == s.curSplit
        t = (u.setGrp { u.grp.setSp (1 - s.curSplit) { Split.empty with live := true, m0 := no, pc := e, since := s.tick + 1 } with
          fences := own ++ own.map fun m => { m with sp := 1 - s.curSplit } }).setSplit { u.split with m0 := yes })))) ∧
  (∀ f a s, f.a = .sca a → Issues (.join f) f s →
    (let j : Word := .ofNat 64 ((s.rdS a.toNat).toNat / 8 * 8)
     let rc : Mask := .ofNat 128 (((s.rdS (a.toNat + 1)).toNat + (s.rdS (a.toNat + 2)).toNat * 2 ^ 64) % 2 ^ s.width)
     let meets : Prop := s.partner.live = true ∧ s.partner.m0 &&& rc ≠ 0
     s.width ≤ 128 →
     (j.toNat / 2 ^ 48 ≠ 0 → exec (.join f) s = .next (s.fault { code := 0x12, addr := j })) ∧
     (j.toNat / 2 ^ 48 = 0 → ¬meets → ∃ t, exec (.join f) s = .next t ∧ Jumps (.join f) s t s.rdS j) ∧
     (∀ jp, j.toNat / 2 ^ 48 = 0 → meets → s.partner.wait = .join jp → exec (.join f) s = .next (s.setGrp { s.grp with
       s0 := { s.grp.s0 with live := true, m0 := s.split.m0 ||| s.partner.m0, pc := (if s.curSplit = 0 then j else jp), wait := .none, since := s.tick + 1 }
       s1 := .empty, fences := s.grp.fences.map fun m => { m with sp := 0 } })) ∧
     (j.toNat / 2 ^ 48 = 0 → meets → (∀ jp, s.partner.wait ≠ .join jp) → Unasked s →
       exec (.join f) s = .next (s.setSplit { s.split with wait := .join j }))))

namespace Sys2Proof.Claims

/-- The executing group's team is one of the machine's. -/
abbrev Staffed (s : State) : Prop := s.team ∈ s.teams ∧ s.team.uid = s.grp.team

/-- The barrier, group set and lane mask a barrier instruction presents (R255). -/
def barNo (f : Fields) : Nat := srcNum f.a
def barSet (f : Fields) (s : State) : BitVec 16 := .ofNat 16 (s.scalarSrc f.b).toNat
def barMask (f : Fields) (s : State) : Mask := s.maskSrc f.c
abbrev barAt (s : State) (b : Nat) : Barrier := s.team.bar b
def withBar (s : State) (b : Nat) (x : Barrier) : State := s.setTeam (s.team.setBar b x)

/-- The pair passes the checks of R256 on barrier, set and mask. -/
def PairOk (f : Fields) (s : State) : Prop :=
  (s.scalarSrc f.b).toNat < 2 ^ 16 ∧ (barAt s (barNo f)).cond ≠ .invalid ∧ (barSet f s).getLsbD s.grp.gid = true ∧
    (∀ k, k < 16 → (barSet f s).getLsbD k = true → k < s.team.ngroups ∧
      ∀ i, i < s.groups.length → (s.grpAt i).team = s.team.uid → (s.grpAt i).gid = k → (s.grpAt i).ended = false) ∧
    s.split.m0 &&& ~~~barMask f s = 0 ∧ barMask f s &&& ~~~s.grp.lanes = 0

/-- An arrival the barrier takes: no lane twice, and the pair of the active phase (R256). -/
def ArrivesOk (f : Fields) (s : State) : Prop :=
  PairOk f s ∧ s.split.m0 &&& Map.get 0 (barAt s (barNo f)).arrived s.grp.gid = 0 ∧
    ((barAt s (barNo f)).cond = .active → (barAt s (barNo f)).gset = barSet f s ∧ (barAt s (barNo f)).lmask = barMask f s)

/-- The barrier after the arrival, and whether its phase is then complete (R256, R257). -/
def arrivedBar (f : Fields) (s : State) : Barrier :=
  let x := barAt s (barNo f)
  { x with
    cond := .active, gset := (if x.cond = .idle then barSet f s else x.gset), lmask := (if x.cond = .idle then barMask f s else x.lmask)
    arrived := Map.set 0 x.arrived s.grp.gid (Map.get 0 x.arrived s.grp.gid ||| s.split.m0)
    arrPend := x.arrPend ||| (1#16 <<< s.grp.gid)
    tickets := Map.set 0 x.tickets s.grp.gid s.nextId }

/-- Every group of the set has arrived whole, and the pending bytes are 0 (R257). -/
def Complete (x : Barrier) : Prop :=
  x.pending = 0 ∧ ∀ g, g < 16 → x.gset.getLsbD g = true → Map.get 0 x.arrived g = x.lmask

/-- A split of the group waits at the phase, or was stopped for pre-emption out of its BAR of it. -/
def waits (s : State) (b phase i : Nat) : Bool := (s.spAt (i, 0)).inPhase b phase || (s.spAt (i, 1)).inPhase b phase

/-- The groups that a phase lets go on: those that wait at it, and, with `self`, the executing one. -/
def goesOn (s : State) (b phase : Nat) (self : Bool) (i : Nat) : Bool := (self && i == s.cur) || waits s b phase i

/-- A completed phase leaves the barrier idle, with none arrived, and remembers for each group of its set that does not go on now what
its release covers, until that group waits (R239, R257). -/
def passedBar (s : State) (b : Nat) (self : Bool) (x : Barrier) : Barrier :=
  let later := (List.range 16).filter fun g => x.gset.getLsbD g &&
    !(s.groupsOf s.team.uid).any fun i => goesOn s b x.phase self i && (s.grpAt i).gid == g
  { x with cond := .idle, arrived := [], arrPend := 0, phase := x.phase + 1, tickets := []
           covers := (x.covers.filter fun c => !(later.contains c.1 && x.tickets.any (·.1 == c.2.1))) ++
             later.flatMap fun w => x.tickets.map fun c => (w, c.1, c.2) }

/-- An access, a query or a matrix operation of group `i` numbered below `n` is under way. -/
def underWay (s : State) (i n : Nat) : Bool :=
  (s.pend.any fun p => p.grp == i && p.id < n) || (s.queries.any fun q => q.grp == i && q.id < n) ||
    (s.col s.team.col).ops.any fun o => o.grp == i && o.id < n

/-- A group of the team by its number there. -/
def groupOf (s : State) (gid : Nat) : Option Nat := (s.groupsOf s.team.uid).find? fun i => (s.grpAt i).gid == gid

/-- What of a completed release is still under way, and comes before what group `gi` issues from now on: for each group that it covers,
its accesses before its arrival, and what earlier barriers ordered before those (R239). -/
def owed (s : State) (gi : Nat) (covers : List (Nat × Nat)) : List Sync :=
  covers.flatMap fun c => match groupOf s c.1 with
    | none => []
    | some i => (if underWay s i c.2 then [⟨i, c.2, s.nextId⟩] else []) ++ if i = gi then [] else (s.grpAt i).syncs.map fun y => { y with after := s.nextId }

/-- The phase of barrier `b` completes, as `x` stands: `u` holds all else the instruction did, and `self` tells whether it waited. The
splits that wait go on, and in the groups that go on what is owed comes before what they issue from now on. -/
def Completes (s u t : State) (b : Nat) (x : Barrier) (self : Bool) : Prop :=
  let v := u.mapSplits s.team.uid fun y => y.release b x.phase s.tick
  { t with groups := v.groups } = v ∧ t.groups.length = v.groups.length ∧
    (∀ g, { t.grpAt g with syncs := (v.grpAt g).syncs } = v.grpAt g) ∧
    ∀ g, if g ∈ s.groupsOf s.team.uid ∧ goesOn u b x.phase self g = true then
        (∀ y, y ∈ (u.grpAt g).syncs ∨ y ∈ owed u g x.tickets → y ∈ (t.grpAt g).syncs) ∧
        ∀ y ∈ (t.grpAt g).syncs, y ∈ (u.grpAt g).syncs ∨ (y.after = s.nextId ∧ ∃ c ∈ x.tickets, ∃ i, groupOf u c.1 = some i ∧
          ((y.grp = i ∧ y.upTo = c.2) ∨ ∃ z ∈ (u.grpAt i).syncs, y.grp = z.grp ∧ y.upTo = z.upTo))
      else (t.grpAt g).syncs = (u.grpAt g).syncs

end Sys2Proof.Claims

/-- R145, R239, R254 to R258, R262, R284, R301: BAR arrives and waits, BARA arrives and goes on, BARW goes on where its
group has no arrival pending and waits for the phase otherwise; the arrival, or the BAREXP, that completes a phase
lets every split that waits on it go on at once, and puts behind what the groups issued before they arrived, as far as
it is under way, all that the waiting groups issue from then on; a group that waits only later has what phases
completed since cover put before it then. BARINIT makes a barrier that is not active idle, BARINV makes any barrier
invalid and gives its waiters 0x06, a split stopped for pre-emption out of the phase when it is restored, BAREXP adds
to the pending bytes. What the barrier instructions stop on: a group set above 16 bits (0x03), an invalid barrier
(0x06), a pair whose set or mask does not fit, or a lane that arrives twice (0x04, naming the lane), a pair that is
not the phase's (0x05, to every split that waits too), an active barrier initialised (0x06), and an abandoned phase,
once. (The lane field of those faults is log entry 23.) (That a region is closed before a check that fails is log
entry 69.) -/
def Obligations.Barriers : Prop :=
  (∀ f s, Issues (.bar f) f s → Staffed s → ArrivesOk f s → Unasked s → ¬Complete (arrivedBar f s) →
    exec (.bar f) s = .next ((withBar s.closeRegion (barNo f) (arrivedBar f s)).setSplit
      { s.split with wait := .bar (barNo f) (barAt s (barNo f)).phase (nextPc (.bar f) s) })) ∧
  (∀ f s, Issues (.bar f) f s → Staffed s → ArrivesOk f s → Unasked s →
    s.split.live = true → s.split.resume = .none → Complete (arrivedBar f s) →
    ∃ t u, exec (.bar f) s = .next t ∧ NoResult (.bar f) (withBar s (barNo f) (passedBar u (barNo f) true (arrivedBar f s))) u ∧
      Completes s u t (barNo f) (arrivedBar f s) true) ∧
  (∀ f s, Issues (.bara f) f s → Staffed s → ArrivesOk f s →
    (¬Complete (arrivedBar f s) → ∃ t, exec (.bara f) s = .next t ∧ NoResult (.bara f) (withBar s (barNo f) (arrivedBar f s)) t) ∧
    (Complete (arrivedBar f s) → ∃ t u, exec (.bara f) s = .next t ∧
      NoResult (.bara f) (withBar s (barNo f) (passedBar u (barNo f) false (arrivedBar f s))) u ∧ Completes s u t (barNo f) (arrivedBar f s) false)) ∧
  (∀ f s, Issues (.barw f) f s → PairOk f s → Map.get 0 (barAt s (barNo f)).abandon s.grp.gid = 0 →
    ((barAt s (barNo f)).arrPend.getLsbD s.grp.gid = false → Staffed s →
      let x := barAt s (barNo f)
      let mine := x.covers.filter fun c => c.1 == s.grp.gid
      ∃ t, exec (.barw f) s = .next t ∧ NoResult (.barw f)
        ((if mine = [] then s else withBar s (barNo f) { x with covers := x.covers.filter fun c => c.1 != s.grp.gid }).setGrp
          { s.grp with syncs := s.grp.syncs ++ owed s s.cur (mine.map (·.2)) }) t) ∧
    ((barAt s (barNo f)).arrPend.getLsbD s.grp.gid = true → (barAt s (barNo f)).gset = barSet f s →
      (barAt s (barNo f)).lmask = barMask f s → Unasked s →
      exec (.barw f) s = .next (s.closeRegion.setSplit
        { s.split with wait := .barw (barNo f) (barAt s (barNo f)).phase (nextPc (.barw f) s) }))) ∧
  (∀ f s, Issues (.barinit f) f s → (barAt s (barNo f)).cond ≠ .active → ∃ t, exec (.barinit f) s = .next t ∧
    NoResult (.barinit f) (withBar s (barNo f) { Barrier.empty with phase := (barAt s (barNo f)).phase, covers := (barAt s (barNo f)).covers }) t) ∧
  (∀ f s, Issues (.barinv f) f s → (∀ p ∈ s.splitsOf s.team.uid, (s.spAt p).waitsAt (barNo f) = false ∧
      ∀ n, (s.spAt p).resume ≠ .bar (barNo f) (barAt s (barNo f)).phase n) →
    s.team.uid = s.grp.team → ∃ t, exec (.barinv f) s = .next t ∧
    NoResult (.barinv f) (withBar s (barNo f)
      { Barrier.empty with cond := .invalid, phase := (barAt s (barNo f)).phase + 1, covers := (barAt s (barNo f)).covers }) t) ∧
  (∀ f s p, Issues (.barinv f) f s → p ∈ s.splitsOf s.team.uid → p.1 ≠ s.cur → (s.spAt p).waitsAt (barNo f) = true →
    ∃ t, exec (.barinv f) s = .next t ∧ (t.grpAt p.1).stopped = true ∧ (t.spAt p).fault = some ((s.spAt p).pc, 0x06)) ∧
  (∀ f s p n, Issues (.barinv f) f s → p ∈ s.splitsOf s.team.uid → p.1 ≠ s.cur → (s.spAt p).live = true →
    (s.spAt p).resume = .bar (barNo f) (barAt s (barNo f)).phase n → (∀ q ∈ s.splitsOf s.team.uid, (s.spAt q).waitsAt (barNo f) = false) →
    ∃ t e, exec (.barinv f) s = .next t ∧ e.code = 0x06 ∧ t.spAt p = { s.spAt p with denied := some e }) ∧
  (∀ f s, Issues (.barexp f) f s → Staffed s → (barAt s (barNo f)).cond ≠ .invalid →
    (let x := { barAt s (barNo f) with pending := (barAt s (barNo f)).pending + s.scalarSrc f.b }
     (((barAt s (barNo f)).cond ≠ .active ∨ ¬Complete x) → ∃ t, exec (.barexp f) s = .next t ∧ NoResult (.barexp f) (withBar s (barNo f) x) t) ∧
     ((barAt s (barNo f)).cond = .active → Complete x → ∃ t u, exec (.barexp f) s = .next t ∧
      NoResult (.barexp f) (withBar s (barNo f) (passedBar u (barNo f) false x)) u ∧ Completes s u t (barNo f) x false))) ∧
  (∀ (s : State) uid k p, p ∈ s.splitsOf uid → p.2 < 2 → (s.mapSplits uid k).spAt p = k (s.spAt p)) ∧
  (∀ (x : Split) b phase tick p n, x.live = true → x.wait = .bar b p n →
    x.release b phase tick = { x with pc := n, wait := .none, since := tick + 1 }) ∧
  (∀ (x : Split) b phase tick p n, x.live = true → x.wait = .yielded → x.resume = .bar b p n →
    x.release b phase tick = if p = phase then { x with pc := n, resume := .none } else x) ∧
  (∀ i f s, (i = .bar f ∨ i = .bara f ∨ i = .barw f) → Issues i f s →
    let b := barNo f
    let x := barAt s b
    let m := barMask f s
    let stop (code lane : Nat) : State := s.closeRegion.fault (barFlt code b (barSet f s).toNat m lane s.width)
    ((s.scalarSrc f.b).toNat / 2 ^ 16 ≠ 0 → exec i s = .next (s.closeRegion.fault { code := 0x03, info32 := 2 })) ∧
    ((s.scalarSrc f.b).toNat < 2 ^ 16 → x.cond = .invalid → exec i s = .next (stop 0x06 0xFFFF)) ∧
    ((s.scalarSrc f.b).toNat < 2 ^ 16 → x.cond ≠ .invalid → (barSet f s).getLsbD s.grp.gid = false →
      exec i s = .next (stop 0x04 0xFFFF)) ∧
    (PairOk f s → i ≠ .barw f → s.split.m0 &&& Map.get 0 x.arrived s.grp.gid ≠ 0 →
      exec i s = .next (stop 0x04 (lowestLane (s.split.m0 &&& Map.get 0 x.arrived s.grp.gid) s.width))) ∧
    (PairOk f s → i ≠ .barw f → s.split.m0 &&& Map.get 0 x.arrived s.grp.gid = 0 → x.cond = .active →
      (x.gset ≠ barSet f s ∨ x.lmask ≠ m) → exec i s = .next ((stop 0x05 0xFFFF).abandon s.team.uid b 0x05 (some s.cur))) ∧
    (PairOk f s → i = .barw f → Map.get 0 x.abandon s.grp.gid ≠ 0 →
      exec i s = .next ((withBar s.closeRegion b { x with abandon := Map.set 0 x.abandon s.grp.gid 0 }).fault
        (barFlt (Map.get 0 x.abandon s.grp.gid) b (barSet f s).toNat m 0xFFFF s.width))) ∧
    (Issues (.barinit f) f s → x.cond = .active → exec (.barinit f) s = .next (s.closeRegion.fault (barFlt 0x06 b 0 0 0xFFFF s.width))))

namespace Sys2Proof.Claims

/-- A range a YLD names: the layout of R292, and within the team's scratchpad. -/
def rangeBytes (r : Word) : Nat := r.toNat / 2 ^ 32 % 2 ^ 28
def RangeForm (r : Word) : Prop := r.toNat / 2 ^ 60 = 0 ∧ r.toNat / 2 ^ 27 % 32 = 0 ∧ rangeBytes r ≤ 2 ^ 27
def RangeOwn (s : State) (r : Word) : Prop := rangeBytes r = 0 ∨
  (s.team.scrBase ≤ r.toNat % 2 ^ 27 ∧ r.toNat % 2 ^ 27 + rangeBytes r ≤ s.team.scrBase + s.launch.scratch)
def YldRange (s : State) (r : Word) : Prop := RangeForm r ∧ RangeOwn s r

/-- The fault of a range outside the allocation, with the range's path 0x3 address. -/
def strayRange (r : Word) : Flt := { code := 0x11, addr := 0x3000000000000000#64 + .ofNat 64 (r.toNat % 2 ^ 27) }

end Sys2Proof.Claims

/-- R251, R291 to R293, R299: YLD goes on where no request waits, else the split stops after it, naming what its operands
name; a range that breaks the layout is an illegal operand, one outside the team's allocation is 0x11 (with its
address: log entry 26, the model's choice); NAP goes on and issues nothing for up to 65,535 cycles of its column,
until NAP_EXPIRY; IDEM opens a region at the next instruction where one split is live and .end is clear. (The address
of a bad range is log entry 26.) -/
def Obligations.YieldsAndNaps : Prop :=
  (∀ f s, Issues (.yld f) f s → YldRange s (s.scalarSrc f.a) → YldRange s (s.scalarSrc f.b) → s.grp.pend30 = [] →
    (s.team.requests = [] → ∃ t, exec (.yld f) s = .next t ∧ NoResult (.yld f) s t) ∧
    (s.team.requests ≠ [] → exec (.yld f) s = .next (s.setSplit { s.split with
      pc := nextPc (.yld f) s, wait := .yielded, resume := .none
      named := some (s.scalarSrc f.c, f.mod.getLsbD 0, f.mod.getLsbD 1, s.scalarSrc f.a, s.scalarSrc f.b) }))) ∧
  (∀ f s, Issues (.yld f) f s →
    let a := s.scalarSrc f.a
    let b := s.scalarSrc f.b
    (¬RangeForm a → exec (.yld f) s = .next (s.fault { code := 0x03, info32 := 1 })) ∧
    (RangeForm a → ¬RangeForm b → exec (.yld f) s = .next (s.fault { code := 0x03, info32 := 2 })) ∧
    (RangeForm a → RangeForm b → ¬RangeOwn s a → exec (.yld f) s = .next (s.fault (strayRange a))) ∧
    (RangeForm a → RangeForm b → RangeOwn s a → ¬RangeOwn s b → exec (.yld f) s = .next (s.fault (strayRange b)))) ∧
  (∀ f s, Issues (.nap f) f s →
    (s.scalarSrc f.a = 0 → ∃ t, exec (.nap f) s = .next t ∧ NoResult (.nap f) s t) ∧
    (s.scalarSrc f.a ≠ 0 → Unasked s → ∃ t u, exec (.nap f) s = .next t ∧ NoResult (.nap f) s u ∧
      t = u.setSplit { u.split with wait := .nap (s.cycle s.team.col + min (s.scalarSrc f.a).toNat 65535) })) ∧
  (∀ f s, Issues (.idem f) f s →
    ((f.mod.getLsbD 0 = true ∨ s.partner.live = true) → ∃ t, exec (.idem f) s = .next t ∧ NoResult (.idem f) s t) ∧
    (f.mod.getLsbD 0 = false → s.partner.live = false → ∃ t u, exec (.idem f) s = .next t ∧ NoResult (.idem f) s u ∧
      t = u.setGrp { u.grp with regionOpen := true, entry := s.split.pc + 8, emask := s.split.m0, idemRetry := 0 })) ∧
  (∀ (s : State) g sp till, (s.spAt (g, sp)).wait = .nap till → (s.spAt (g, sp)).live = true →
    (till ≤ s.cycle (s.teamOf (s.grpAt g).team).col →
      exec (.napExpiry g sp) s = .next (s.setSpAt (g, sp) { s.spAt (g, sp) with wait := .none, since := s.tick + 1 })) ∧
    (s.cycle (s.teamOf (s.grpAt g).team).col < till → exec (.napExpiry g sp) s = .next s))

/-! ## Ends, records, launches, and the system instructions (R250, R264 to R273, R287 to R290, R306, R309) -/

namespace Sys2Proof.Claims

/-- An active phase is abandoned with a code (R256, R259): the barrier is idle with none arrived and its pending bytes unchanged, the
code is pending for every live group of the set none of whose splits waits on it, and each split that waits takes the fault. -/
structure Abandoned (s t : State) (b code : Nat) : Prop where
  barrier : let x := s.team.bar b; let y := (t.teamOf s.grp.team).bar b
    y.cond = .idle ∧ y.arrived = [] ∧ y.arrPend = 0 ∧ y.pending = x.pending ∧ y.phase = x.phase + 1 ∧
      ∀ g ∈ s.groupsOf s.grp.team, x.gset.getLsbD (s.grpAt g).gid = true → (t.grpAt g).ended = false →
        (∀ k, k < 2 → (g, k) ≠ (s.cur, s.curSplit) → (s.spAt (g, k)).waitsAt b = false) → Map.get 0 y.abandon (s.grpAt g).gid = code
  waiters : ∀ p ∈ s.splitsOf s.grp.team, p ≠ (s.cur, s.curSplit) → (s.spAt p).waitsAt b = true → (t.grpAt p.1).ended = false →
    (t.grpAt p.1).stopped = true ∧ (t.spAt p).wait = .none ∧ (t.spAt p).fault = some ((s.spAt p).pc, code)

end Sys2Proof.Claims

/-- R250, R259: EXIT with no effective lane goes on; with lanes left in its split it takes the effective ones away for
good, from the split and from the group; the last lane of a split whose partner waits at a JOIN sends the partner on
at its own J, the last lane of a group ends the group and drops its pending results, and the last group its team. A
phase whose mask names a lane that goes, or whose set names a group that ends, is abandoned with 0x04. -/
def Obligations.ExitEnds : Prop :=
  ∀ f s, Issues (.exit f) f s →
    let e := s.eff f.msk.toNat
    let left := s.split.m0 &&& ~~~e
    let harmless : Prop := ∀ b, b < 16 → (s.team.bar b).cond = .active → (s.team.bar b).gset.getLsbD s.grp.gid = true →
      e &&& (s.team.bar b).lmask = 0
    (e = 0 → ∃ t, exec (.exit f) s = .next t ∧ NoResult (.exit f) s t) ∧
    (e ≠ 0 → left ≠ 0 → s.split.live = true → harmless → ∃ t u, exec (.exit f) s = .next t ∧ NoResult (.exit f) s u ∧
      t = u.setGrp ({ u.grp with lanes := s.grp.lanes &&& ~~~e }.setSp s.curSplit { u.split with m0 := left })) ∧
    (∀ j, e ≠ 0 → left = 0 → s.curSplit < 2 → s.partner.live = true → s.partner.wait = .join j → harmless →
      exec (.exit f) s = .next (s.setGrp ({ s.grp with
        regionOpen := false, lanes := s.grp.lanes &&& ~~~e }.setSp s.curSplit .empty |>.setSp (1 - s.curSplit)
          { s.partner with pc := j, wait := .none, since := s.tick + 1 }))) ∧
    (∀ b, e ≠ 0 → Staffed s → s.grp.ended = false → b < 16 → (s.team.bar b).cond = .active → (s.team.bar b).gset.getLsbD s.grp.gid = true →
      s.curSplit < 2 → s.split.live = true →
      (∀ c, c < 16 → c ≠ b → (s.team.bar c).cond ≠ .active) →
      (((left ≠ 0 ∨ s.partner.live = true) ∧ e &&& (s.team.bar b).lmask ≠ 0) ∨
        (left = 0 ∧ s.partner.live = false ∧ ∃ g ∈ s.groupsOf s.grp.team, g ≠ s.cur ∧ (s.grpAt g).ended = false)) →
      ∃ t, exec (.exit f) s = .next t ∧ Abandoned s t b 0x04) ∧
    (e ≠ 0 → left = 0 → s.curSplit < 2 → s.partner.live = false → ∃ t, exec (.exit f) s = .next t ∧
      (t.grpAt s.cur).ended = true ∧ (t.grpAt s.cur).lanes = 0 ∧
      (∀ p ∈ t.pend, p.grp = s.cur → p.dst = .none) ∧ (∀ q ∈ t.queries, q.grp ≠ s.cur) ∧
      ((∃ x ∈ s.teams, x.uid = s.grp.team) →
        (∀ g, g < s.groups.length → g ≠ s.cur → (s.grpAt g).team = s.grp.team → (s.grpAt g).ended = true) →
        (t.teamOf s.grp.team).ended = true))

namespace Sys2Proof.Claims

/-- What a push leaves (R268): the record's item last among the items, its bytes, a write of the launch's job, in the next place of
the launch's queue area, the launch's counts of pushes and records up by one, and everything else as it was. -/
structure Pushed (s s' : State) (l : Launch) (r : TaskRec) (die : Nat) : Prop where
  item : s'.items = s.items ++ [{
    id := s.nextId, die := s.liveDie die, ten := l.ten, launch := l.id, prio := r.flags % 4, pushTime := s.clock, queuedAt := s.clock, aged := 0, passes := 0
    work := .record r.toNat ((l.nteams + l.pushes) % 2 ^ 32) }]
  counts : s'.launches = s.launches.map fun x => if x.ten = l.ten ∧ x.id = l.id then { l with pushes := l.pushes + 1, enq := l.enq + 1 } else x
  bytes : let w := s.virtWrite l.ten (some l.job) (l.rqbase.toNat + 32 * (l.enq % l.rqcap)) 32 r.toNat
    s'.mem = w.mem ∧ s'.fill = w.fill ∧ s'.rjobs = w.rjobs ∧ s'.dirs = w.dirs
  number : s'.nextId = s.nextId + 1
  rest : { s' with items := s.items, launches := s.launches, nextId := s.nextId, mem := s.mem, fill := s.fill, rjobs := s.rjobs
                   dirs := s.dirs } = s

/-- A place in flash stands in the staging cache (R77). -/
abbrev Staged (s : State) (p : Loc) : Prop := p.sp = .flash → s.staged.contains (p.a / 2 ^ 21) = true

/-- Nothing of the group is in flight, nor what a barrier orders before its next access, no release is owed that a read of these bytes
would observe, and bytes of flash are in the staging cache (R77, R105, R229, R239). -/
def Drained (s : State) (p : Loc) (n : Nat) : Prop :=
  AllDone s ∧ Staged s p ∧ ∀ k, k < n → s.owes (.split s.cur) 4 { p with a := p.a + k } 1 = false

/-- The task record at a place (R268). -/
def recordAt (s : State) (l : Loc) : TaskRec :=
  let n := s.rdN l 32
  ⟨n % 2 ^ 64, n / 2 ^ 64 % 2 ^ 64, n / 2 ^ 128 % 2 ^ 32, n / 2 ^ 160 % 2 ^ 32, n / 2 ^ 192 % 2 ^ 64⟩

/-- A record TSPAWN turns away with status 1 (R269). -/
def RecordBad (r : TaskRec) (l : Launch) : Prop :=
  r.flags / 2 ^ 11 ≠ 0 ∨ r.code % 8 ≠ 0 ∨ r.parent % 32 ≠ 0 ∨ l.groups < r.flags / 4 % 16 + 1 ∨
    l.vregs < 8 * (r.flags / 64 % 32 + 1) ∨ l.prio < r.flags % 4

/-- Records in the executing team's launch's queue. -/
def queueOf (s : State) : Nat :=
  (s.items.filter fun i => i.ten == s.launch.ten && i.launch == s.launch.id && (match i.work with
    | .record .. => true
    | .image _ => false)).length

end Sys2Proof.Claims

namespace Sys2Proof.Claims

/-- The LAUNCHID a new launch takes (R266): 32 bits, not 0, the next of the tenant's counter that no launch of it has. -/
def NextLaunch (s : State) (ten : Tenant) (id : Nat) : Prop :=
  let free (i : Nat) : Prop := i ≠ 0 ∧ ∀ l ∈ s.launches, l.ten = ten.n → l.id ≠ i
  ∃ k, id = (ten.nextLaunch + k) % 2 ^ 32 ∧ free id ∧ ∀ i, i < k → ¬free ((ten.nextLaunch + i) % 2 ^ 32)

/-- A field of a launch descriptor: `n` bytes from byte `lo` on (R264). -/
def descField (d lo n : Nat) : Nat := d / 256 ^ lo % 256 ^ n

/-- What R264 and R265 ask of a descriptor's fields; that CODE, CONST and RQBASE have zero bits 63 to 48 is log entry 34 (DEDUCED). -/
structure DescriptorOk (d : Nat) : Prop where
  code : descField d 0 8 < 2 ^ 48 ∧ descField d 0 8 % 8 = 0
  const : descField d 8 8 < 2 ^ 48 ∧ descField d 8 8 % 8 = 0
  teams : 1 ≤ descField d 16 4
  scratch : descField d 20 4 % 4096 = 0 ∧ descField d 20 4 ≤ 134217728
  vregs : 8 ≤ descField d 24 2 ∧ descField d 24 2 ≤ 256 ∧ descField d 24 2 % 8 = 0
  groups : 1 ≤ descField d 26 1 ∧ descField d 26 1 ≤ 16
  width : descField d 27 1 ≤ 3
  barriers : descField d 28 1 ≤ 16
  ctl : descField d 29 1 / 16 = 0
  heat : descField d 30 1 ≤ 3
  zeros : descField d 31 1 = 0 ∧ descField d 76 4 = 0 ∧ descField d 100 28 = 0
  done : let w := descField d 80 8
    w = 0 ∨ (w / 2 ^ 62 = 1 ∧ w / 2 ^ 59 % 8 < 7 ∧ w / 2 ^ 58 % 2 = 0 ∧ w / 2 ^ 48 % 2 ^ 10 = 0 ∧ w % 8 = 0)
  queue : descField d 88 8 < 2 ^ 48 ∧ descField d 88 8 % 32 = 0 ∧ 128 ≤ descField d 96 4 ∧ descField d 96 4 ≤ 2 ^ 24
  registers : descField d 24 2 * [1, 1, 2, 4].getD (descField d 27 1) 0 * 128 * descField d 26 1 ≤ 2 ^ 20

/-- A launch as its descriptor and constant image have it, at acceptance (R264, R266). -/
structure Described (d image : Nat) (ten die : Nat) (l : Launch) : Prop where
  owner : l.ten = ten ∧ l.die = die ∧ l.guest = none
  code : l.code.toNat = descField d 0 8 ∧ l.const.toNat = descField d 8 8 ∧ l.frame.toNat = descField d 64 8 ∧ l.fstride = descField d 72 4
  shape : l.nteams = descField d 16 4 ∧ l.scratch = descField d 20 4 ∧ l.vregs = descField d 24 2 ∧ l.groups = descField d 26 1 ∧
    l.width = [16, 32, 64, 128].getD (descField d 27 1) 0 ∧ l.barriers = descField d 28 1 ∧ l.heat = descField d 30 1
  ctl : l.prio = descField d 29 1 % 4 ∧ l.span = bitOf (descField d 29 1) 2 ∧ l.ctl = bitOf (descField d 29 1) 3
  ids : l.graph.toNat = descField d 32 8 ∧ l.phase.toNat = descField d 40 8 ∧ l.job.toNat = descField d 48 8
  ends : l.faultq.toNat = descField d 56 8 ∧ l.done.toNat = descField d 80 8 ∧ l.rqbase.toNat = descField d 88 8 ∧ l.rqcap = descField d 96 4
  bank : ∀ k, k < 256 → (Map.get 0 l.bank k).toNat = image / 2 ^ (64 * k) % 2 ^ 64
  fresh : l.next = 0 ∧ l.enq = 0 ∧ l.pushes = 0 ∧ l.completed = 0 ∧ l.cancelled = false ∧ l.complete = false ∧ l.bkpt = false

/-- A tenant has cancelled the graph, phase or job of a descriptor (R273). -/
def levelCancelled (ten : Tenant) (d : Nat) : Prop :=
  (1, descField d 32 8) ∈ ten.cancelled ∨ (2, descField d 40 8) ∈ ten.cancelled ∨ (3, descField d 48 8) ∈ ten.cancelled

/-- Bytes of a tenant's generic addresses in flash that the staging cache does not hold (R77). -/
def bankMissing (s : State) (ten a : Nat) : List Loc := s.virtMiss ten a 2048

/-- Initial record `j` of a launch: its frame, its flags, its bytes and its item (R266, R267). -/
def initialFrame (l : Launch) (j : Nat) : Nat := (l.frame.toNat + j * l.fstride) % 2 ^ 64
def initialBytes (l : Launch) (j : Nat) : Nat :=
  l.code.toNat + initialFrame l j * 2 ^ 64 + (l.prio + (l.groups - 1) * 4 + (l.vregs / 8 - 1) * 64) * 2 ^ 160
def initialItem (s : State) (l : Launch) (j : Nat) : Item :=
  { id := s.nextId + j, die := s.liveDie l.die, ten := l.ten, launch := l.id, prio := l.prio, pushTime := s.clock, queuedAt := s.clock, aged := 0, passes := 0
    work := .record (initialBytes l j) j }

/-- A submission accepted (R264, R266, R267): the launch is there, its job too, and the initial records that the queue has room
for are written, in increasing order, with all else as before. -/
structure Accepted (s s' : State) (ten : Tenant) (l : Launch) : Prop where
  id : NextLaunch s ten l.id
  tenants : s'.tenants = (s.setTenant { ten with nextLaunch := (l.id + 1) % 2 ^ 32 }).tenants
  job : (s'.rjob? ten.n l.job).isSome = true
  records : let k := min l.nteams (l.rqcap - 64 - (s.items.filter fun i => i.ten == l.ten && i.launch == l.id && i.isRecord).length)
    s'.launches = s.launches ++ [{ l with next := k, enq := k }] ∧ s'.items = s.items ++ (List.range k).map (initialItem s l) ∧
      s'.nextId = s.nextId + k ∧
      let w := (List.range k).foldl (fun s j => s.virtWrite l.ten none (l.rqbase.toNat + 32 * j) 32 (initialBytes l j)) s
      s'.mem = w.mem ∧ s'.fill = w.fill ∧ s'.dirs = w.dirs
  rest : { s' with launches := s.launches, tenants := s.tenants, rjobs := s.rjobs, items := s.items, nextId := s.nextId, mem := s.mem
                   fill := s.fill, dirs := s.dirs } = s

end Sys2Proof.Claims

/-- R77, R264 to R269, R273, R301: TSPAWN answers status 1 for a bad record, 4 in a cancelled launch, 3 where fewer than
65 places are free, and pushes nothing then; else it pushes the record and answers its TEAMID. TJOIN takes 1 from the
record's join count and answers what it was; the one that makes it 0 pushes the record, unless the launch is
cancelled, or waits while the queue is full. LSPAWN answers 1 for a descriptor that breaks R264 or whose bank cannot
be read, 2 for one of a higher priority than its own launch or that asks for control tokens its own has not, 4 for a
cancelled level, 3 with 4,096 launches unfinished, and changes nothing then; else the launch is new, under the
tenant's next LAUNCHID, which is the answer, and its initial records are queued, as many as there is room for. A bank
in flash comes through the staging cache first. (Which next LAUNCHID is log entry 93, that the address fields are of
path 0x0 log entry 34.) (Places of the queue area, and the die of a record, are log entry 14.) (That a region is
closed before a check that fails is log entry 69.) -/
def Obligations.Spawns : Prop :=
  (∀ f s p, Issues (.tspawn f) f s → path (s.scalarSrc f.a) ≤ 1 → s.access s.team (s.scalarSrc f.a) 32 32 .read = .ok p →
    Drained s p 32 →
    (let r := recordAt s p
     let l := s.launch
     let tells (n : Nat) : Prop := ∃ t, exec (.tspawn f) s = .next t ∧ ScaResult (.tspawn f) s t f.dst.toNat (.ofNat 64 (n * 2 ^ 32))
     (RecordBad r l → tells 1) ∧ (¬RecordBad r l → l.cancelled = true → tells 4) ∧
     (¬RecordBad r l → l.cancelled = false → l.rqcap ≤ queueOf s + 64 → tells 3) ∧
     (¬RecordBad r l → l.cancelled = false → queueOf s + 64 < l.rqcap → ∃ t s', exec (.tspawn f) s = .next t ∧
       Pushed s s' l r (s.team.col / 64) ∧ ScaResult (.tspawn f) s' t f.dst.toNat (.ofNat 64 ((l.nteams + l.pushes) % 2 ^ 32))))) ∧
  (∀ f s p, Issues (.tjoin f) f s → path (s.scalarSrc f.a) ≤ 1 → (s.scalarSrc f.a).toNat % 32 = 0 →
    s.access s.team (s.scalarSrc f.a + 16) 4 4 .atomic = .ok p → Drained s p 4 →
    (let old := s.rdN p 4
     let l := s.launch
     let less : State := s.homeWrite s.team.ten l.job p 4 (old - 1)
     (old = 0 → ∃ t, exec (.tjoin f) s = .next t ∧ ScaResult (.tjoin f) s t f.dst.toNat 0) ∧
     (2 ≤ old → ∃ t, exec (.tjoin f) s = .next t ∧ ScaResult (.tjoin f) less t f.dst.toNat (.ofNat 64 old)) ∧
     (old = 1 → l.cancelled = true → ∃ t, exec (.tjoin f) s = .next t ∧ ScaResult (.tjoin f) less t f.dst.toNat 1) ∧
     (old = 1 → l.cancelled = false → queueOf s < l.rqcap → ∃ t s', exec (.tjoin f) s = .next t ∧
       Pushed less s' l (recordAt less { p with a := p.a - 16 }) (s.team.col / 64) ∧ ScaResult (.tjoin f) s' t f.dst.toNat 1) ∧
     (old = 1 → l.cancelled = false → l.rqcap ≤ queueOf s → ∃ t, exec (.tjoin f) s = .next t ∧ t.split.wait = .push ∧
       t.split.pc = s.split.pc ∧ t.items = s.items))) ∧
  (∀ i f s a, (i = .tspawn f ∨ i = .tjoin f ∨ i = .lspawn f) → Issues i f s → a = s.scalarSrc f.a →
    ((2 ≤ path a ∧ path a ≤ 5) ∨ path a = 15) →
    exec i s = .next (s.closeRegion.fault { code := 0x11, addr := a, info32 := if i = .tjoin f then 2 else 0 })) ∧
  (∀ f s p q ten, Issues (.lspawn f) f s → path (s.scalarSrc f.a) ≤ 1 → (s.scalarSrc f.a).toNat % 64 = 0 →
    s.access s.team (s.scalarSrc f.a) 64 64 .read = .ok p → s.access s.team (s.scalarSrc f.a + 64) 64 64 .read = .ok q →
    Drained s p 64 → Drained s q 64 → s.tenantOf? s.team.ten = some ten → s.launches.length < 2 ^ 31 →
    let d := s.rdN p 64 + s.rdN q 64 * 2 ^ 512
    let above : Prop := s.launch.prio < descField d 29 1 % 4 ∨ (bitOf (descField d 29 1) 3 = true ∧ s.launch.ctl = false)
    let missing := bankMissing s s.team.ten (descField d 8 8)
    let image := s.virtRead? s.team.ten (descField d 8 8) 2048
    let many : Prop := 4096 ≤ (s.launches.filter fun x => x.ten == s.team.ten && !x.complete).length
    let tells (n : Nat) : Prop := ∃ t, exec (.lspawn f) s = .next t ∧ ScaResult (.lspawn f) s t f.dst.toNat (.ofNat 64 (n * 2 ^ 32))
    (¬DescriptorOk d → tells 1) ∧ (DescriptorOk d → missing = [] → image = none → tells 1) ∧
    (DescriptorOk d → missing ≠ [] → ∃ t gs, exec (.lspawn f) s = .next t ∧ t.split = { s.split with wait := .fill gs } ∧ t.launches = s.launches ∧
      ∀ g, (g ∈ gs ↔ ∃ l ∈ missing, g = l.a / 2 ^ 21) ∧ (g ∈ gs → g ∈ t.filling)) ∧
    ∀ n, DescriptorOk d → missing = [] → image = some n →
      (above → tells 2) ∧ (¬above → levelCancelled ten d → tells 4) ∧
      (¬above → ¬levelCancelled ten d → many → tells 3) ∧
      (¬above → ¬levelCancelled ten d → ¬many → ∃ t s' l, exec (.lspawn f) s = .next t ∧ Described d n s.team.ten (s.team.col / 64) l ∧
        Accepted s s' ten l ∧ ScaResult (.lspawn f) s' t f.dst.toNat (.ofNat 64 l.id)))

namespace Sys2Proof.Claims

/-- The module a launch is of, none where it is this one (R276). -/
def homeOf (l : Launch) : Option Nat := l.guest.map (·.1)

/-- A launch is under a level's id; a launch's own id is one of the module the issuing launch is of (R266, R272). -/
def isUnder (s : State) (lev : Nat) (id : Word) (l : Launch) : Bool :=
  l.ten == s.team.ten && l.level lev == id && (lev != 0 || homeOf l == homeOf s.launch)

/-- Vault bandwidth a team of a heat class takes in a band, and the share of refresh (R69, R72). -/
def chargeOf (heat band : Nat) : Nat := [5, 10, 20].getD heat 40 * [1, 2].getD band 4
def refreshShare (band : Nat) : Nat := [30, 60].getD band 120

/-- The usable bandwidth of a column's vault lies below the refresh floor (R73). -/
def lacks (s : State) (col : Nat) : Bool :=
  let b := (s.col col).band
  decide ((1000 : Int) - refreshShare b - ((s.teams.filter fun t => !t.ended && t.col == col).map fun t => chargeOf t.heat b).sum < s.set.floor)

/-- The teams after charges on a column have changed from `old` to `new`: one whose own has risen, the bandwidth now being below the
floor, is marked as a candidate, and stays one while that stays so (R73). -/
def marked (old new : State) (col : Nat) : List Team := new.teams.map fun t =>
  if t.ended = true ∨ t.col ≠ col then t
  else { t with risen := lacks new col &&
    (decide (chargeOf (old.teamOf t.uid).heat (old.col col).band < chargeOf t.heat (new.col col).band) || (t.risen && lacks old col)) }

end Sys2Proof.Claims

/-- R73, R271 to R273, R287 to R290, R301, R306, R309, R330: LCOUNT tells all ones of an unknown id, and of a launch its
cancelled bit, its outstanding teams and its completed ones, of a higher level the launches not complete and complete;
LCANCEL answers 1 for an unknown id, 2 for one cancelled before, and 0 otherwise: then every launch under the id is
cancelled, its queued work is gone and its resident teams are asked to stop; where peers hold work of it, or it is a
peer's launch, the answer waits until each module has applied the cancel it is sent. TRAP takes 0x41 with its code,
BKPT takes 0x40 where its launch's breakpoints are on and goes on otherwise, and SSETS sets the launch's fault queue
or breakpoints or the team's heat class for the supervisor, which may make teams of the column candidates for
migration, and is 0x11 for everyone else. CKPT answers 2 where the job has no area, 1 with the generation of a
checkpoint in progress, else 0 with the generation it starts: then the checkpoint is in progress in a slot that holds
no recovery point, and every team of the job is asked; where peers hold work of the job, its answer waits until each
has the request. RPREAD reads the recovery-point registers, and zero where the job has no area. (That a region is
closed before a check that fails is log entry 69.) -/
def Obligations.LevelsAndSettings : Prop :=
  (∀ f s, Issues (.lcount f) f s →
    (let lev := f.mod.toNat % 4
     let id := if s.scalarSrc f.a = 0 then s.launch.level lev else s.scalarSrc f.a
     let ls := s.launches.filter (isUnder s lev id)
     (ls = [] → ∃ t, exec (.lcount f) s = .next t ∧ ScaResult (.lcount f) s t f.dst.toNat 0xFFFFFFFFFFFFFFFF#64) ∧
     (∀ l r, lev = 0 → ls = l :: r → ∃ t v, exec (.lcount f) s = .next t ∧ ScaResult (.lcount f) s t f.dst.toNat v ∧
       v.getLsbD 63 = l.cancelled ∧ v.toNat / 2 ^ 32 % 2 ^ 31 = min (s.outstanding l) (2 ^ 31 - 1) ∧ v.toNat % 2 ^ 32 = l.completed % 2 ^ 32) ∧
     (ls ≠ [] → lev ≠ 0 → ∃ t v, exec (.lcount f) s = .next t ∧ ScaResult (.lcount f) s t f.dst.toNat v ∧
       v.getLsbD 63 = s.cancelledId s.team.ten lev id ∧
       v.toNat / 2 ^ 32 % 2 ^ 31 = min (ls.filter fun l => !l.complete).length (2 ^ 31 - 1) ∧
       v.toNat % 2 ^ 32 = (ls.filter fun l => l.complete).length % 2 ^ 32))) ∧
  (∀ f s ten, Issues (.lcancel f) f s → s.tenantOf? s.team.ten = some ten →
    (let lev := f.mod.toNat % 4
     let id := if s.scalarSrc f.a = 0 then s.launch.level lev else s.scalarSrc f.a
     let ls := s.launches.filter (isUnder s lev id)
     let known : Prop := ls ≠ []
     let before : Prop := if lev = 0 then ∃ l r, ls = l :: r ∧ l.cancelled = true else ten.cancelled.contains (lev, id.toNat) = true
     let ends (l : Launch) : Prop := l ∈ ls ∧ (lev = 0 → ls.head? = some l) ∧ l.cancelled = false ∧ s.launchOf l.ten l.id = l
     (¬known → ∃ t, exec (.lcancel f) s = .next t ∧ ScaResult (.lcancel f) s t f.dst.toNat 1) ∧
     (known → before → ∃ t, exec (.lcancel f) s = .next t ∧ ScaResult (.lcancel f) s t f.dst.toNat 2) ∧
     (∀ p ∈ s.away, ∀ l, ends l → ¬before → p.2.ten = l.ten → p.2.launch = l.id →
       ∃ t cs, exec (.lcancel f) s = .next t ∧ t.split.wait = .peers f.dst.toNat 0 (nextPc (.lcancel f) s) cs ∧
         ∃ x ∈ t.remote, x.peer = p.1 ∧ x.op = .cancel l.ten l.id ∧ x.who = .told) ∧
     (∀ l peer no, ends l → ¬before → l.guest = some (peer, no) → ∃ t cs, exec (.lcancel f) s = .next t ∧
       t.split.wait = .peers f.dst.toNat 0 (nextPc (.lcancel f) s) cs ∧ (peer, no) ∈ cs ∧
         ∃ x ∈ t.remote, x.peer = peer ∧ x.op = .access (.cancelHome no) ∧ x.who = .told) ∧
     (known → ¬before → s.away = [] → (∀ l ∈ ls, l.guest = none) → ∃ t, ∃ (s' : State), exec (.lcancel f) s = .next t ∧ t = s'.retS (.lcancel f) f.dst 0 ∧ s'.cur = s.cur ∧
       (∀ l, ends l → (s'.launchOf l.ten l.id).cancelled = true ∧
         (∀ i ∈ s'.items, ¬(i.ten = l.ten ∧ i.launch = l.id)) ∧
         ∀ x ∈ s.teams, x.ten = l.ten → x.launch = l.id → x.ended = false → x.stopped = false →
           (∀ y ∈ s.teams, y.uid = x.uid → y = x) → .cancel ∈ (s'.teamOf x.uid).requests)))) ∧
  (∀ f s, Issues (.trap f) f s →
    ((s.scalarSrc f.a).toNat < 2 ^ 16 →
      exec (.trap f) s = .next (s.closeRegion.fault { code := 0x41, info32 := (s.scalarSrc f.a).toNat })) ∧
    (2 ^ 16 ≤ (s.scalarSrc f.a).toNat → exec (.trap f) s = .next (s.closeRegion.fault { code := 0x03, info32 := 1 }))) ∧
  (∀ f s n, Issues (.bkpt f) f s → f.a = .lit (.ofNat 8 n) → n < 128 →
    (s.launch.bkpt = true → exec (.bkpt f) s = .next (s.closeRegion.fault { code := 0x40, info32 := n })) ∧
    (s.launch.bkpt = false → ∃ t, exec (.bkpt f) s = .next t ∧ NoResult (.bkpt f) s t)) ∧
  (∀ f s sel, Issues (.ssets f) f s → f.a = .lit (.ofNat 8 sel) → sel < 128 →
    (let v := s.scalarSrc f.b
     let bad : Prop := exec (.ssets f) s = .next (s.closeRegion.fault { code := 0x03, info32 := 2 })
     (s.set.supervisor ≠ some s.team.ten → exec (.ssets f) s = .next (s.closeRegion.fault { code := 0x11 })) ∧
     (s.set.supervisor = some s.team.ten →
       (sel = 0 → v.toNat / 2 ^ 48 = 0 → v.toNat % 64 = 0 → ∃ t, exec (.ssets f) s = .next t ∧
         NoResult (.ssets f) (s.setLaunch { s.launch with faultq := v }) t) ∧
       (sel = 1 → v.toNat ≤ 1 → ∃ t, exec (.ssets f) s = .next t ∧ NoResult (.ssets f) (s.setLaunch { s.launch with bkpt := v.getLsbD 0 }) t) ∧
       (sel = 2 → v.toNat ≤ 3 → ∃ t, exec (.ssets f) s = .next t ∧
         NoResult (.ssets f) { s with teams := marked s (s.setTeam { s.team with heat := v.toNat }) s.team.col } t) ∧
       (sel = 0 → (v.toNat / 2 ^ 48 ≠ 0 ∨ v.toNat % 64 ≠ 0) → bad) ∧ (sel = 1 → 1 < v.toNat → bad) ∧ (sel = 2 → 3 < v.toNat → bad) ∧
       (3 ≤ sel → exec (.ssets f) s = .next (s.closeRegion.fault { code := 0x03, info32 := 1 }))))) ∧
  (∀ f s, Issues (.ckpt f) f s →
    (let ten := s.team.ten
     let job := s.launch.job
     ((s.rjob? ten job = none ∨ ∃ j, s.rjob? ten job = some j ∧ j.progress = none ∧ j.hasArea = false) →
       ∃ t, exec (.ckpt f) s = .next t ∧ ScaResult (.ckpt f) s t f.dst.toNat (.ofNat 64 (2 * 2 ^ 32))) ∧
     (∀ j c, s.rjob? ten job = some j → j.progress = some c →
       ∃ t, exec (.ckpt f) s = .next t ∧ ScaResult (.ckpt f) s t f.dst.toNat (.ofNat 64 (2 ^ 32 + c.gen % 2 ^ 32))) ∧
     let away : Prop := ∃ p ∈ s.away, p.2.ten = ten ∧ (s.launchOf ten p.2.launch).job = job
     (∀ j p, s.rjob? ten job = some j → j.progress = none → j.hasArea = true → j.rolling = false → p ∈ s.away → p.2.ten = ten →
       (s.launchOf ten p.2.launch).job = job → ∃ t, exec (.ckpt f) s = .next t ∧ (∀ k, t.rdS k = s.rdS k) ∧
         t.split.wait = .peers f.dst.toNat (j.gen % 2 ^ 32) (nextPc (.ckpt f) s) [] ∧
         ∃ x ∈ t.remote, x.peer = p.1 ∧ x.op = .access (.checkpoint job) ∧ x.who = .told ∧ x.grp = s.cur ∧ x.sp = s.curSplit) ∧
     (∀ j, s.rjob? ten job = some j → j.progress = none → j.hasArea = true → j.rolling = false → ¬away → ∃ t u, exec (.ckpt f) s = .next t ∧
       ScaResult (.ckpt f) s u f.dst.toNat (.ofNat 64 (j.gen % 2 ^ 32)) ∧ t = u.startCkpt ten job false ∧
       (∃ c k, t.rjob? ten job = some { j with progress := some c, state := 1, last := j.gen } ∧ c.gen = j.gen ∧ c.slot = k ∧ k < 3 ∧
         (j.rpgen ≠ 0 → 0 < j.slotSize → j.rpman / j.slotSize ≠ k) ∧ (j.rpprev ≠ 0 → 0 < j.slotSize → j.rpprevman / j.slotSize ≠ k)) ∧
       ∀ x ∈ s.teams, x.ended = false → x.ten = ten → (s.launchOf x.ten x.launch).job = job →
         (∀ y ∈ s.teams, y.uid = x.uid → y = x) → .checkpoint ∈ (t.teamOf x.uid).requests))) ∧
  (∀ f s sel, Issues (.rpread f) f s → f.a = .lit (.ofNat 8 sel) → sel < 5 →
    ∃ t v, exec (.rpread f) s = .next t ∧ ScaResult (.rpread f) s t f.dst.toNat v ∧
      (s.rjob? s.team.ten s.launch.job = none → v = 0) ∧
      ∀ j, s.rjob? s.team.ten s.launch.job = some j →
        (j.hasArea = false → v = 0) ∧
        (j.hasArea = true → (sel = 0 → v = .ofNat 64 j.rpgen) ∧ (sel = 1 → v = .ofNat 64 j.rpman) ∧ (sel = 2 → v = .ofNat 64 j.rpprev) ∧
          (sel = 3 → v = .ofNat 64 j.rpprevman) ∧
          (sel = 4 → v.toNat / 2 ^ 32 = j.last % 2 ^ 32 ∧ v.getLsbD 3 = j.norb ∧ v.toNat % 8 = j.state % 8)))

/-! ## Pair words (R39 to R41) -/

namespace Sys2Proof.Claims

/-- A scalar half on (d, x) at 64 bits, .i64 (R40). -/
def pairWord (o : PairOp) (d x : Word) : Word :=
  match o with
  | .smov => x
  | .sadd => d + x
  | .ssub => d - x
  | .sand => d &&& x
  | .sor => d ||| x
  | .sxor => d ^^^ x
  | .sshl => d <<< (x.toNat % 64)
  | .sshr => d >>> (x.toNat % 64)
  | .ssar => d.sshiftRight (x.toNat % 64)
  | .smin => .ofInt 64 (min d.toInt x.toInt)
  | .smax => .ofInt 64 (max d.toInt x.toInt)
  | _ => d + .ofNat 64 (8 * x.toNat)

/-- Elements of a lane, each combined. -/
def each (w n : Nat) (op : Nat → Nat → Nat) (d x : Nat) : Nat :=
  (List.range n).foldl (fun v k => v + op (d / 2 ^ (w * k) % 2 ^ w) (x / 2 ^ (w * k) % 2 ^ w) % 2 ^ w * 2 ^ (w * k)) 0

/-- A vector half on a lane's (d, x) (R40). -/
def pairLane (o : PairOp) (d x : Lane) : Lane :=
  let f (op : Nat → Nat → Nat) : Lane := .ofNat 32 (op d.toNat x.toNat)
  match o with
  | .vmov => x
  | .vaddI32 => d + x
  | .vsubI32 => d - x
  | .vmulI32 => d * x
  | .vand => d &&& x
  | .vor => d ||| x
  | .vxor => d ^^^ x
  | .vshl => d <<< (x.toNat % 32)
  | .vshr => d >>> (x.toNat % 32)
  | .vsar => d.sshiftRight (x.toNat % 32)
  | .vminI32 => if d.toInt ≤ x.toInt then d else x
  | .vminN32 => if d.toNat ≤ x.toNat then d else x
  | .vmaxI32 => if d.toInt ≤ x.toInt then x else d
  | .vmaxN32 => if d.toNat ≤ x.toNat then x else d
  | .vabsI32 => if x.toInt < 0 then -x else x
  | .faddF32 => f (fAdd .rn false fF32)
  | .fsubF32 => f (fSub .rn false fF32)
  | .fmulF32 => f (fMul .rn false fF32)
  | .fminF32 => f (fMinMax false fF32)
  | .fmaxF32 => f (fMinMax true fF32)
  | .faddF16x2 => f (each 16 2 (fAdd .rn false fF16))
  | .faddBf16x2 => f (each 16 2 (fAdd .rn false fBf16))
  | .fmulBf16x2 => f (each 16 2 (fMul .rn false fBf16))
  | .vaddI16x2 => f (each 16 2 (· + ·))
  | _ => f (each 8 4 (· + ·))

def pairMask (o : PairOp) (d x : Mask) : Mask :=
  match o with
  | .mand => d &&& x
  | .mor => d ||| x
  | .mxor => d ^^^ x
  | _ => d &&& ~~~x

/-- Registers after the halves `hs`, each computed on `s`. -/
def pairSca (s : State) (h0 h1 : Half) (k : Nat) : Word :=
  let w (h : Half) : Bool := h.op.cls = .sca && h.d.toNat == k
  let v (h : Half) : Word := pairWord h.op (s.rdS k) (s.scalarSrc h.x)
  if w h1 then v h1 else if w h0 then v h0 else s.rdS k
def pairVec (s : State) (h0 h1 : Half) (k l : Nat) : Lane :=
  let w (h : Half) : Bool := h.op.cls = .vec && h.d.toNat == k && s.split.m0.getLsbD l && decide (l < s.width)
  let v (h : Half) : Lane := pairLane h.op (s.grp.rdV k l) (s.src32 h.x l)
  if w h1 then v h1 else if w h0 then v h0 else s.grp.rdV k l
def pairMsk (s : State) (h0 h1 : Half) (k : Nat) : Mask :=
  let w (h : Half) : Bool := h.op.cls = .mask && h.d.toNat == k
  let v (h : Half) : Mask := pairMask h.op (s.rdM k) (s.maskSrc h.x) &&& allLanes s.width
  if w h1 then v h1 else if w h0 then v h0 else s.rdM k

end Sys2Proof.Claims

/-- R39 to R41: A well-formed pair word whose registers exist does both halves at once: both read before either writes,
each leaves in its destination what its row says, and nothing else changes. It says so for pairNop, pairSmov,
pairSadd, pairSsub, pairSand, pairSor, pairSxor, pairSshl, pairSshr, pairSsar, pairSmin, pairSmax, pairVmov,
pairVaddI32, pairVsubI32, pairVmulI32, pairVand, pairVor, pairVxor, pairVshl, pairVshr, pairVsar, pairVminI32,
pairVminN32, pairVmaxI32, pairVmaxN32, pairVabsI32, pairFaddF32, pairFsubF32, pairFaddF16x2, pairFmulF32, pairFminF32,
pairFmaxF32, pairFaddBf16x2, pairFmulBf16x2, pairMand, pairMor, pairMxor, pairMandn, pairSlea, pairVaddI16x2,
pairVaddI8x4. -/
def Obligations.PairHalves : Prop :=
  ∀ i h0 h1 s, i.pair? = some (h0, h1) → i.wf = true → Here s →
    (∀ h, (h = h0 ∨ h = h1) → h.op.cls = .vec → h.d.toNat < s.launch.vregs ∧ ∀ n, h.x = .reg n → n.toNat < s.launch.vregs) →
    (∀ h, (h = h0 ∨ h = h1) → h.x = .sca 76 → s.doneFault = none) →
    ∃ t, exec i s = .next t ∧ Result i s t (pairSca s h0 h1) (pairVec s h0 h1) (pairMsk s h0 h1)

/-! ## Strings asked in memory (R102 to R127) -/

namespace Sys2Proof.Claims

/-- The record at a place, as loads read it, and a little-endian field of it (R103, R105). -/
def recordBytes (s : State) (p : Loc) : List Byte := (List.range 64).map fun k => s.loadB (p.plus k)
def part (r : List Byte) (lo n : Nat) : Nat := (List.range n).foldr (fun k v => (r.getD (lo + k) 0).toNat + 256 * v) 0

/-- The checks of R106 on a bit-string record, by status. -/
def Reserved (r : List Byte) : Prop :=
  ∃ k, ((17 ≤ k ∧ k < 24) ∨ (48 ≤ k ∧ k < 63) ∨ (part r 16 1 ≠ 2 ∧ 24 ≤ k ∧ k < 48)) ∧ r.getD k 0 ≠ 0
def LengthBad (r : List Byte) : Prop :=
  part r 8 8 = 0 ∨ 2 ^ 39 < part r 8 8 ∨
    (part r 16 1 = 2 ∧ (part r 8 8 ≠ 2 * part r 40 8 + 1 ∨ part r 40 8 = 0 ∨ 2 ^ 31 < part r 40 8))
def AddressBad (r : List Byte) : Prop :=
  part r 0 8 / 2 ^ 48 ≠ 0 ∨ part r 0 8 % 64 ≠ 0 ∨ part r 24 8 / 2 ^ 48 ≠ 0 ∨ part r 32 8 / 2 ^ 48 ≠ 0 ∨ part r 32 8 % 4 ≠ 0

/-- The pages of a trie's arrays (R104). -/
def ArraysOk (s : State) (r : List Byte) : Prop :=
  part r 16 1 = 2 → s.arrayPages s.team.ten (part r 24 8) (part r 40 8 - 1) = true ∧
    s.arrayPages s.team.ten (part r 32 8) (4 * part r 40 8) = true

/-- The first of some checks that fails gives the status; 0 when none does. -/
def FirstBad : List (Prop × Nat) → Nat → Prop
  | [], n => n = 0
  | (p, k) :: r, n => (p → n = k) ∧ (¬p → FirstBad r n)

/-- A tensor record's DIM and STRIDE of a dimension (R135), and its last byte (R136). -/
def dimOf (r : List Byte) (d : Nat) : Nat := part r (16 + 4 * d) 4
def strideOf (r : List Byte) (d : Nat) : Nat := part r (32 + 5 * d) 5
def lastByte (r : List Byte) : Nat :=
  part r 0 8 % 2 ^ 60 + (dimOf r 1 - 1) * strideOf r 1 + (dimOf r 2 - 1) * strideOf r 2 + (dimOf r 3 - 1) * strideOf r 3 +
    (dimOf r 0 * elemW (part r 8 1 % 16) + 7) / 8 - 1

/-- Every bit of a window address that R91 does not assign is zero. -/
def windowBits (a : Nat) : Prop :=
  let zero (lo n : Nat) : Prop := a / 2 ^ lo % 2 ^ n = 0
  (a / 2 ^ 48 % 8 = 0 ∧ zero 9 26) ∨ (a / 2 ^ 48 % 8 = 1 ∧ zero 3 32 ∧ zero 41 2) ∨ (a / 2 ^ 48 % 8 = 2 ∧ zero 18 30) ∨
    (a / 2 ^ 48 % 8 = 3 ∧ zero 19 29)

/-- Status 20: the path, its zero bits (R88), or the last byte outside the path's range. -/
def ReachBad (r : List Byte) : Prop :=
  let path := part r 0 8 / 2 ^ 60
  let low := part r 0 8 % 2 ^ 60
  let last := lastByte r
  5 < path ∨ 2 ^ 60 ≤ last ∨ ((path = 0 ∨ path = 1 ∨ path = 2) ∧ (2 ^ 48 ≤ low ∨ 2 ^ 48 ≤ last)) ∨
    (path = 3 ∧ (2 ^ 27 ≤ low ∨ 2 ^ 27 ≤ last)) ∨
    (path = 4 ∧ (¬windowBits low ∨ ¬windowBits last ∨ last / 2 ^ 51 ≠ low / 2 ^ 51 ∨ last / 2 ^ 48 % 8 ≠ low / 2 ^ 48 % 8)) ∨
    (path = 5 ∧ (low / 2 ^ 48 % 16 ≠ 0 ∨ 2 ^ 48 ≤ last % 2 ^ 52 ∨ last / 2 ^ 52 ≠ low / 2 ^ 52))

/-- The checks of R136 on a tensor record, in their order. -/
def tensorChecks (r : List Byte) : List (Prop × Nat) :=
  let w := elemW (part r 8 1 % 16)
  let rank := part r 9 1
  [(part r 8 1 / 16 ≠ 0 ∨ part r 10 1 / 2 ≠ 0 ∨ (∃ k, ((11 ≤ k ∧ k < 16) ∨ (52 ≤ k ∧ k < 63)) ∧ r.getD k 0 ≠ 0), 16),
   (rank = 0 ∨ 4 < rank, 17),
   (∃ d, d < 4 ∧ (dimOf r d = 0 ∨ (rank ≤ d ∧ (dimOf r d ≠ 1 ∨ strideOf r d ≠ 0))), 18),
   (strideOf r 0 ≠ 0 ∨ (8 ≤ w ∧ (part r 0 8 % (w / 8) ≠ 0 ∨ ∃ d, d < 4 ∧ strideOf r d % (w / 8) ≠ 0)), 19),
   (ReachBad r, 20)]

/-- Entry `k` of the team's handle table is its lowest free one; every entry is taken (R107). -/
def LowestFree (s : State) (k : Nat) : Prop :=
  1 ≤ k ∧ k ≤ 255 ∧ (∀ h ∈ s.team.handles, h.idx ≠ k) ∧ ∀ j, 1 ≤ j → j < k → ∃ h ∈ s.team.handles, h.idx = j
def TableFull (s : State) : Prop := ∀ j, 1 ≤ j → j ≤ 255 → ∃ h ∈ s.team.handles, h.idx = j

/-- The team gets a handle with a tag, and the tenant's counter goes on. -/
def withHandle (s : State) (ten : Tenant) (k tag ctr : Nat) (x : HKind) : State :=
  (s.setTenant { ten with tagCtr := ctr }).setTeam { s.team with handles := s.team.handles ++ [⟨k, tag, x⟩] }
def handleWord (k tag : Nat) : Word := .ofNat 64 (k + 256 * tag)

/-- The string of a directory as it stands (R102); ones before a position, and the excess (R121). -/
def stringOf (s : State) (d : Dir) : List Bool := (List.range d.len).map fun i => (s.rdB (d.loc (i / 8))).getLsbD (i % 8)
def before (b : List Bool) (i : Nat) : Nat := (List.range i).countP fun k => b.getD k false
def tilt (b : List Bool) (i : Nat) : Int := 2 * (before b i : Int) - i

/-- Ones of each hyperblock of 2²⁰ bits (R111). -/
def hyperblocks (b : List Bool) : List Nat :=
  (List.range ((b.length + 2 ^ 20 - 1) / 2 ^ 20)).map fun h => before b (2 ^ 20 * (h + 1)) - before b (2 ^ 20 * h)

end Sys2Proof.Claims

/-- R103 to R109, R111, R112, R118, R123, R135, R136: SEAL answers the status of the first check that fails, in the order
of R106, and changes nothing then; a record that passes gets the lowest free entry of the team's handle table under
the tenant's next free tag, and a bit string a directory whose build begins, with the ones of its hyperblocks as
sealed. UNSEAL answers 1 for a handle that is not valid; for a valid one 0, and no entry of the team's table has its
index any more. IXSTAT tells what a handle's directory is: kind, whether built, and building, ready, or throttled
where a line of the string or the directory lies in a throttled bank; 15 for no valid bit string. Which bank a line or
a directory lies in the spec does not say: any map holds (log entry 59). (Which free entry and tag a handle takes is
log entry 36, the size of a directory log entry 12, the banks of lines and directories log entry 59.) -/
def Obligations.Handles : Prop :=
  (∀ f s p ten, Issues (.sealStr f) f s → s.access s.team (s.scalarSrc f.a) 64 64 .read = .ok p → (∀ peer, p.sp ≠ .remote peer) →
    Drained s p 64 → s.tenantOf? s.team.ten = some ten → (s.liveTags s.team.ten).length < 2 ^ 24 →
    let r := recordBytes s p
    let tells (n : Nat) : Prop := ∃ t, exec (.sealStr f) s = .next t ∧ ScaResult (.sealStr f) s t f.dst.toNat (.ofNat 64 (n * 2 ^ 32))
    let kind := part r 16 1
    ((part r 63 1 = 0 ∨ 2 < part r 63 1) → tells 1) ∧
    (part r 63 1 = 1 →
      (2 < kind → tells 3) ∧ (kind ≤ 2 → Reserved r → tells 2) ∧ (kind ≤ 2 → ¬Reserved r → LengthBad r → tells 4) ∧
      (kind ≤ 2 → ¬Reserved r → ¬LengthBad r → AddressBad r → tells 5) ∧
      (kind ≤ 2 → ¬Reserved r → ¬LengthBad r → ¬AddressBad r →
        ((s.stringPages s.team.ten (part r 0 8) ((part r 8 8 + 7) / 8) = none ∨ ¬ArraysOk s r) → tells 6) ∧
        ∀ pages stack, s.stringPages s.team.ten (part r 0 8) ((part r 8 8 + 7) / 8) = some (pages, stack) → ArraysOk s r →
          (TableFull s → tells 7) ∧
          ∀ k, LowestFree s k → (s.dirRoom stack (part r 8 8) = false → tells 8) ∧
            (s.dirRoom stack (part r 8 8) = true → ∃ t d tag ctr, exec (.sealStr f) s = .next t ∧ NextTag s ten (2 ^ 24) tag ctr ∧
              d = { id := s.nextId, ten := s.team.ten, base := part r 0 8, len := part r 8 8, kind, labels := part r 24 8
                    values := part r 32 8, nodes := part r 40 8, stack, pages, built := false, sealedOnes := hyperblocks (stringOf s d)
                    parts := .empty } ∧
              ScaResult (.sealStr f) { withHandle s ten k tag ctr (.bits s.nextId) with nextId := s.nextId + 1, dirs := s.dirs ++ [d] }
                t f.dst.toNat (handleWord k tag)))) ∧
    (part r 63 1 = 2 → (TableFull s → tells 7) ∧
      ∀ k n, LowestFree s k → FirstBad (tensorChecks r) n → (n ≠ 0 → tells n) ∧
        (n = 0 → ∃ t tag ctr, exec (.sealStr f) s = .next t ∧ NextTag s ten (2 ^ 24) tag ctr ∧
          ScaResult (.sealStr f) (withHandle s ten k tag ctr (.tensor r)) t f.dst.toNat (handleWord k tag)))) ∧
  (∀ f s, Issues (.unsealStr f) f s → s.handle? (s.scalarSrc f.a).toNat = none →
    ∃ t, exec (.unsealStr f) s = .next t ∧ ScaResult (.unsealStr f) s t f.dst.toNat 1) ∧
  (∀ f s h, Issues (.unsealStr f) f s → s.handle? (s.scalarSrc f.a).toNat = some h →
    ∃ t ds, exec (.unsealStr f) s = .next t ∧
      ScaResult (.unsealStr f) { s.setTeam { s.team with handles := s.team.handles.filter fun x => x.idx != h.idx } with dirs := ds } t f.dst.toNat 0 ∧
      ∀ d, d ∈ ds ↔ d ∈ s.dirs ∧
        ((∃ x ∈ t.teams, x.ended = false ∧ ∃ y ∈ x.handles, y.kind = .bits d.id) ∨ (∃ i ∈ s.images, ∃ y ∈ i.team.handles, y.kind = .bits d.id) ∨
          ∃ q ∈ s.queries, q.dir = d.id)) ∧
  (∀ f s, Issues (.ixstat f) f s →
    (let h := s.handle? (s.scalarSrc f.a).toNat
     ∃ t v, exec (.ixstat f) s = .next t ∧ ScaResult (.ixstat f) s t f.dst.toNat v ∧
       ((∀ i g id, h ≠ some ⟨i, g, .bits id⟩) → v = 15) ∧
       ∀ i g id d, h = some ⟨i, g, .bits id⟩ → s.dirs.find? (fun x => x.id == id) = some d → d.kind < 4 →
         v.getLsbD 4 = d.built ∧ v.toNat / 4 % 4 = d.kind ∧ v.toNat / 32 = 0 ∧
           (let throttled : Prop := ∃ b ∈ s.throttled, Config.dirBank d.id b = true ∨
              ∃ k, k < (d.len + 511) / 512 ∧ Config.lineBank ((d.loc (64 * k)).a / 64) = b
            (throttled → v.toNat % 4 = 2) ∧ (¬throttled → v.toNat % 4 = if d.built then 1 else 0))))

namespace Sys2Proof.Claims

/-- The eight queries: fields and opcode (R119). -/
def queryOf : Instr → Option (Fields × Nat)
  | .rank1 f => some (f, 0x282)
  | .rank0 f => some (f, 0x283)
  | .sel1 f => some (f, 0x284)
  | .sel0 f => some (f, 0x285)
  | .fclose f => some (f, 0x286)
  | .fopen f => some (f, 0x287)
  | .encl f => some (f, 0x288)
  | .exmin f => some (f, 0x289)
  | _ => none

/-- A query as it is queued. -/
def asked (s : State) (f : Fields) (op : Nat) (wide : Bool) (dir : Nat) (cut : Bool) (lanes : List QLane) : State :=
  { s with
    nextId := s.nextId + 1
    queries := s.queries ++ [{ id := s.nextId, grp := s.cur, sp := s.curSplit, pc := s.split.pc, op, wide, dir, dst := f.dst.toNat
                               lanes, cut, ctl := s.launch.ctl, region := s.grp.regionOpen }] }

/-- Granules the staging cache is asked for, to read these places (R77). -/
def Fetches (s : State) (fl : List Nat) (ls : List Loc) : Prop :=
  ∀ g, g ∈ fl ↔ g ∈ s.filling ∨ (g ∉ s.staged ∧ ∃ l ∈ ls, l.sp = .flash ∧ g = l.a / 2 ^ 21)

/-- A handle names this directory. -/
def Names (s : State) (h : Word) (d : Dir) : Prop :=
  ∃ i g, s.handle? h.toNat = some ⟨i, g, .bits d.id⟩ ∧ s.dirs.find? (fun x => x.id == d.id) = some d

/-- The least and the greatest number of a range with a property. -/
def Least (lo hi : Nat) (P : Nat → Prop) : Option Nat → Prop
  | some i => lo ≤ i ∧ i < hi ∧ P i ∧ ∀ k, lo ≤ k → k < i → ¬P k
  | none => ∀ k, lo ≤ k → k < hi → ¬P k
def Greatest (hi : Nat) (P : Nat → Prop) : Option Nat → Prop
  | some i => i < hi ∧ P i ∧ ∀ k, i < k → k < hi → ¬P k
  | none => ∀ k, k < hi → ¬P k

/-- The answer of an opcode on a string of a kind (R121, R122). -/
def Answers (op kind : Nat) (b : List Bool) (x y : Nat) (r : Option Nat) : Prop :=
  let n := b.length
  let bit (p : Nat) : Bool := b.getD p false
  let no : Prop := r = none
  match op with
  | 0x282 => r = if x ≤ n then some (before b x) else none
  | 0x283 => r = if x ≤ n then some (x - before b x) else none
  | 0x284 => (1 ≤ x ∧ x ≤ before b n → Least 0 n (fun i => before b (i + 1) = x) r) ∧ (¬(1 ≤ x ∧ x ≤ before b n) → no)
  | 0x285 => (1 ≤ x ∧ x ≤ n - before b n → Least 0 n (fun i => i + 1 - before b (i + 1) = x) r) ∧ (¬(1 ≤ x ∧ x ≤ n - before b n) → no)
  | 0x286 => (kind = 1 ∧ bit x = true → Least (x + 1) n (fun j => tilt b (j + 1) = tilt b x) r) ∧ (¬(kind = 1 ∧ bit x = true) → no)
  | 0x287 => (kind = 1 ∧ x < n ∧ bit x = false → Greatest x (fun i => tilt b i = tilt b (x + 1)) r) ∧
      (¬(kind = 1 ∧ x < n ∧ bit x = false) → no)
  | 0x288 => (kind = 1 ∧ x < n → Greatest x (fun i => tilt b i = (if bit x then tilt b x else tilt b (x + 1)) - 1) r) ∧
      (¬(kind = 1 ∧ x < n) → no)
  | _ => (kind = 1 ∧ x ≤ y ∧ y < n → ∃ i, r = some i ∧ x ≤ i ∧ i ≤ y ∧
        ∀ k, x ≤ k → k ≤ y → tilt b (i + 1) ≤ tilt b (k + 1) ∧ (k < i → tilt b (i + 1) < tilt b (k + 1))) ∧
      (¬(kind = 1 ∧ x ≤ y ∧ y < n) → no)

/-- A result at its width, none all ones (R120). -/
def delivered (wide : Bool) (r : Option Nat) : Nat :=
  let top := if wide then 2 ^ 64 - 1 else 2 ^ 32 - 1
  min (r.getD top) top

end Sys2Proof.Claims

/-- R119, R120: A query on a valid bit-string handle queues one read for each effective lane, and an invalid handle is
0x20; with no effective lane it goes on whatever the handle. TKMATCH and UTFCUT queue the bytes their lanes read, and
ask the staging cache for them. -/
def Obligations.Queries : Prop :=
  (∀ i f op s, queryOf i = some (f, op) → Issues i f s →
    (let h := s.scalarSrc f.a
     let wide := f.mod.getLsbD 0
     let v (x : Src) (l : Nat) : Nat := if wide then (s.src64 x l).toNat else (s.src32 x l).toNat
     let ls := s.effLanes f.msk.toNat
     (ls ≠ [] → (∀ j g id, s.handle? h.toNat ≠ some ⟨j, g, .bits id⟩) → exec i s = .next (s.fault { code := 0x20, info32 := h.toNat % 2 ^ 32 })) ∧
     (ls = [] → ∃ t, exec i s = .next t ∧ NoResult i s t) ∧
     ∀ d, Names s h d → ls ≠ [] → ∃ t, exec i s = .next t ∧
       NoResult i (asked s f op wide d.id false (ls.map fun l => { lane := l, x := v f.b l, y := v f.c l, src := [], res := none })) t)) ∧
  (∀ f s d, ∀ (src : Nat → List Loc), Issues (.tkmatch f) f s → Names s (s.scalarSrc f.a) d → d.kind = 2 →
    (let ls := s.effLanes f.msk.toNat
     let len (l : Nat) : Nat := (s.src32 f.c l).toNat
     ls ≠ [] → (∀ l ∈ ls, len l ≠ 0 → path (s.src64 f.b l) ≠ 4 ∧ path (s.src64 f.b l) ≠ 15) →
     (∀ l ∈ ls, if len l = 0 then src l = [] else s.span s.team (s.src64 f.b l).toNat (min (len l) 4096) 1 .read = .ok (src l)) →
     ∃ t fl, exec (.tkmatch f) s = .next t ∧ Fetches s fl (ls.flatMap src) ∧
       NoResult (.tkmatch f) (asked { s with filling := fl } f 0x28A true d.id (ls.any fun l => 4096 < len l) (ls.map fun l =>
         { lane := l, x := 0, y := len l, src := src l, res := none, own5 := path (s.src64 f.b l) == 5 })) t)) ∧
  (∀ f s, ∀ (src : Nat → List Loc), Issues (.utfcut f) f s →
    (let ls := s.effLanes f.msk.toNat
     let len (l : Nat) : Nat := (s.src32 f.b l).toNat
     let at_ (l : Nat) : Word := s.src64 f.a l + .ofNat 64 (len l - min 3 (len l))
     ls ≠ [] → (∀ l ∈ ls, len l ≠ 0 → path (at_ l) ≠ 4 ∧ path (at_ l) ≠ 15) →
     (∀ l ∈ ls, if len l = 0 then src l = [] else s.span s.team (at_ l).toNat (min 3 (len l)) 1 .read = .ok (src l)) →
     ∃ t fl, exec (.utfcut f) s = .next t ∧ Fetches s fl (ls.flatMap src) ∧
       NoResult (.utfcut f) (asked { s with filling := fl } f 0x28B false 0 (ls.any fun l => 4096 < len l) (ls.map fun l =>
         { lane := l, x := 0, y := len l, src := src l, res := none, own5 := path (at_ l) == 5 })) t)) ∧
  (∀ i f s, (i = .tkmatch f ∨ i = .utfcut f) → Issues i f s → s.effLanes f.msk.toNat = [] → ∃ t, exec i s = .next t ∧ NoResult i s t) ∧
  (∀ f s d, Issues (.tkmatch f) f s → s.effLanes f.msk.toNat ≠ [] → Names s (s.scalarSrc f.a) d → d.kind ≠ 2 →
    exec (.tkmatch f) s = .next (s.fault { code := 0x20, info32 := (s.scalarSrc f.a).toNat % 2 ^ 32 }))

namespace Sys2Proof.Claims

/-- The bytes a character's first byte asks for, and t of the last bytes of a buffer (R127). -/
def charLen (b : Byte) : Nat :=
  if b.toNat / 32 = 6 then 2 else if b.toNat / 16 = 14 then 3 else if b.toNat / 8 = 30 then 4 else 1
def Tail (bs : List Byte) (t : Nat) : Prop :=
  let at_ (j : Nat) : Byte := bs.getD (bs.length - j) 0
  let follows (j : Nat) : Prop := (at_ j).toNat / 64 = 2
  let in_ (j : Nat) : Prop := 1 ≤ j ∧ j ≤ 3 ∧ j ≤ bs.length
  (∀ j, in_ j → ¬follows j → (∀ k, 1 ≤ k → k < j → follows k) → t = if j < charLen (at_ j) then j else 0) ∧
    ((∀ j, in_ j → follows j) → t = 0)

/-- `u` is the child of `v` along a byte in a LOUDS trie (R124, R126). -/
def Child (b : List Bool) (nodes : Nat) (label : Nat → Nat) (v c u : Nat) : Prop :=
  ∃ z p, Answers 0x285 2 b (v + 1) 0 (some z) ∧ z < p ∧ p < b.length ∧ (∀ k, z < k → k ≤ p → b.getD k false = true) ∧
    u = before b p ∧ 1 ≤ u ∧ u < nodes ∧ label u = c ∧
    ∀ k, z < k → k < p → ¬(1 ≤ before b k ∧ before b k < nodes ∧ label (before b k) = c)

/-- The longest walk from the root along the input, as the nodes it passes. -/
def Walked (b : List Bool) (nodes : Nat) (label : Nat → Nat) (input : List Byte) (vs : List Nat) : Prop :=
  vs.length ≤ input.length ∧
    (∀ j, j < vs.length → Child b nodes label (if j = 0 then 0 else vs.getD (j - 1) 0) (input.getD j 0).toNat (vs.getD j 0)) ∧
    (vs.length < input.length → ∀ u, ¬Child b nodes label (if vs = [] then 0 else vs.getLastD 0) (input.getD vs.length 0).toNat u)

/-- The longest token passed, and its length (R126). -/
def Matched (value : Nat → Nat) (ctl : Bool) (vs : List Nat) (r : Nat × Nat) : Prop :=
  let token (j : Nat) : Prop := 1 ≤ j ∧ j ≤ vs.length ∧ value (vs.getD (j - 1) 0) % 2 ^ 31 ≠ 0x7FFFFFFF ∧
    (ctl = true ∨ value (vs.getD (j - 1) 0) / 2 ^ 31 % 2 = 0)
  (∀ j, token j → (∀ k, j < k → ¬token k) → r = (value (vs.getD (j - 1) 0) % 2 ^ 31, j)) ∧
    ((∀ j, ¬token j) → r = (0xFFFFFFFF, 0))

/-- One query read of a walk (R126): SEL0 gives the place of the first child of a node, RANK1 at a child's position its node; the
walk goes on to `w`, or ends with `r`. -/
def WalkStep (b : List Bool) (nodes : Nat) (label value : Nat → Nat) (ctl : Bool) (t : Trie) (w : Option Trie) (r : Option (Nat × Nat)) : Prop :=
  (t.c = none → t.limit ≤ t.d → w = none ∧ r = some (t.id, t.len)) ∧
  (t.c = none → t.d < t.limit → ∃ z, Answers 0x285 2 b (t.v + 1) 0 z ∧ r = none ∧ w = some { t with c := some (match z with
    | some z => z + 1
    | none => b.length) }) ∧
  (∀ p, t.c = some p → (b.length ≤ p ∨ b.getD p false = false) → w = none ∧ r = some (t.id, t.len)) ∧
  (∀ p, t.c = some p → p < b.length → b.getD p false = true →
    let u := before b p
    let here : Prop := 1 ≤ u ∧ u < nodes ∧ label u = (t.input.getD t.d 0).toNat
    let token : Prop := value u % 2 ^ 31 ≠ 0x7FFFFFFF ∧ (ctl = true ∨ value u < 2 ^ 31)
    r = none ∧ (¬here → w = some { t with c := some (p + 1) }) ∧
      (here → token → w = some { t with v := u, d := t.d + 1, c := none, id := value u % 2 ^ 31, len := t.d + 1 }) ∧
      (here → ¬token → w = some { t with v := u, d := t.d + 1, c := none }))

/-- The walk, as many query reads as it takes, on one string. -/
inductive Walks (b : List Bool) (nodes : Nat) (label value : Nat → Nat) (ctl : Bool) : Trie → Nat × Nat → Prop
  | done (t : Trie) (r : Nat × Nat) : WalkStep b nodes label value ctl t none (some r) → Walks b nodes label value ctl t r
  | more (t w : Trie) (r : Nat × Nat) : WalkStep b nodes label value ctl t (some w) none → Walks b nodes label value ctl w r →
      Walks b nodes label value ctl t r

/-- A lane's input can be read in this module now. -/
def Readable (s : State) (ls : List Loc) : Prop :=
  ∀ l ∈ ls, far l = false ∧ l.sp ≠ .ctl ∧ (l.sp = .flash → l.a / 2 ^ 21 ∈ s.staged)

/-- A lane that has asked no peer for its input asks now: it has bytes at one, what lies in flash is staged, and it may be served. -/
def AsksPeers (s : State) (q : Query) (x : QLane) : Prop :=
  x.res = none ∧ x.walk = none ∧ x.asked = false ∧ (∃ l ∈ x.src, far l = true) ∧ (∀ l ∈ x.src, l.sp = .flash → l.a / 2 ^ 21 ∈ s.staged) ∧
    s.mayAsk q x = true

/-- No read for this lane is at a peer. -/
def NoneAway (s : State) (q : Query) (k : Nat) : Prop := ∀ t ∈ s.remote, ∀ ks, t.who = .queryRead q.id ks → k ∉ ks

/-- A granule of the staging cache a query read of: a byte of a lane's input, or, for TKMATCH, of a label or a value of its trie (R104). -/
def GranuleRead (s : State) (q : Query) (g : Nat) : Prop :=
  (∃ x ∈ q.lanes, ∃ l ∈ x.src, l.sp = .flash ∧ l.a / 2 ^ 21 = g) ∨
    (q.op = 0x28A ∧ q.lanes ≠ [] ∧ ∃ d va e, s.dirs.find? (fun y => y.id == q.dir) = some d ∧
      ((d.labels ≤ va ∧ va < d.labels + (d.nodes - 1)) ∨ (d.values ≤ va ∧ va < d.values + 4 * d.nodes)) ∧
      s.walk d.ten va = .leaf e ∧ (leafLoc e va).sp = .flash ∧ (leafLoc e va).a / 2 ^ 21 = g)

end Sys2Proof.Claims

/-- R77, R115, R120 to R122, R125 to R127: A query read answers its lane on the string's bits as they stand at that point,
none as all ones; UTFCUT takes off the bytes of a character cut short. TKMATCH's lane reads its input first and then
makes its walk one query read after another, each on the bits and the trie's arrays as they stand, a label or value
whose page fails its check faulting the query and one whose page is not present reported; on a string that stays, the
walk ends at the longest token. A lane whose granules are not staged asks for them, and lanes with bytes at a peer ask
together, one read for each line (R338). -/
def Obligations.QueryAnswers : Prop :=
  (∀ s q x k, s.queries.find? (fun y => y.id == q.id) = some q → q.lanes[k]? = some x → x.res = none → s.mayAsk q x = true →
    NoneAway s q k →
    (∀ d, x.walk = none → 0x282 ≤ q.op → q.op ≤ 0x289 → x.src = [] → s.dirs.find? (fun y => y.id == q.dir) = some d →
      ∃ t r, exec (.queryRead q.id k) s = .next t ∧ Answers q.op d.kind (stringOf s d) x.x x.y r ∧
        t = s.setQuery { q with lanes := q.lanes.set k { x with res := some (delivered q.wide r, 0) } }) ∧
    (x.walk = none → q.op = 0x28B → Readable s x.src →
      ∃ t n, exec (.queryRead q.id k) s = .next t ∧ Tail (x.src.map s.rdB) n ∧
        t = s.setQuery { q with lanes := q.lanes.set k { x with res := some (x.y - n, 0) } }) ∧
    (x.walk = none → q.op = 0x28A → Readable s x.src →
      ∃ t n, exec (.queryRead q.id k) s = .next t ∧ Tail (x.src.map s.rdB) n ∧ t = s.setQuery { q with lanes := q.lanes.set k { x with
        walk := some ⟨0, 0, none, 0xFFFFFFFF, 0, if 4096 < x.y then 4096 - n else x.y, x.src.map s.rdB⟩ } }) ∧
    (∀ w d ls, x.walk = some w → q.op = 0x28A → s.dirs.find? (fun y => y.id == q.dir) = some d → s.tkReads d w = .ok ls → Readable s ls →
      ∃ t w' r, exec (.queryRead q.id k) s = .next t ∧
        WalkStep (stringOf s d) d.nodes (fun u => s.virtByte d.ten (d.labels + u - 1)) (fun v => s.virtNat d.ten (d.values + 4 * v) 4) q.ctl w w' r ∧
        (∀ v, w' = some v → t = s.setQuery { q with lanes := q.lanes.set k { x with walk := some v } }) ∧
        (∀ v, r = some v → t = s.setQuery { q with lanes := q.lanes.set k { x with res := some v } }))) ∧
  (∀ b nodes label value ctl (input : List Byte) limit vs, limit ≤ input.length → (∀ u, value u < 2 ^ 32) →
    Walked b nodes label (input.take limit) vs →
    ∃ r, Walks b nodes label value ctl ⟨0, 0, none, 0xFFFFFFFF, 0, limit, input⟩ r ∧ Matched value ctl vs r) ∧
  (∀ s q x k, s.queries.find? (fun y => y.id == q.id) = some q → q.lanes[k]? = some x → x.res = none → x.walk = none →
    (∃ l ∈ x.src, l.sp = .flash ∧ l.a / 2 ^ 21 ∉ s.staged) →
    ∃ fl, exec (.queryRead q.id k) s = .next { s with filling := fl } ∧ Fetches s fl x.src) ∧
  (∀ s q x k w d, s.queries.find? (fun y => y.id == q.id) = some q → q.lanes[k]? = some x → x.res = none → x.walk = some w →
    s.dirs.find? (fun y => y.id == q.dir) = some d →
    (∀ e, s.tkReads d w = .flt e → exec (.queryRead q.id k) s = .next (({ s with queries := s.queries.filter fun y => y.id != q.id }
      : State).gcDirs.takeFault q.grp q.sp q.pc false { e with lane := x.lane })) ∧
    ∀ ten page bad e, s.tkReads d w = .wait ten page bad e → exec (.queryRead q.id k) s = .next (s.report ten page bad)) ∧
  (∀ s q x k, s.queries.find? (fun y => y.id == q.id) = some q → q.lanes[k]? = some x → AsksPeers s q x →
    ∃ t ks xs, exec (.queryRead q.id k) s = .next t ∧ (∀ j, j ∈ ks ↔ ∃ y, q.lanes[j]? = some y ∧ AsksPeers s q y) ∧
      t = { s.setQuery { q with lanes := q.lanes.zipIdx.map fun p => if p.2 ∈ ks then { p.1 with asked := true } else p.1 } with
        remote := s.remote ++ xs, nextId := s.nextId + xs.length } ∧
      (xs.map fun y => (y.peer, y.addr)).Nodup ∧
      (∀ y ∈ xs, y.who = .queryRead q.id ks ∧ y.addr % 128 = 0 ∧ ∃ offs, y.op = .access (.read offs) ∧ offs.Nodup ∧ offs ≠ [] ∧
        ∀ o, o ∈ offs ↔ o < 128 ∧ ∃ j ∈ ks, ∃ z, q.lanes[j]? = some z ∧ ⟨.remote y.peer, y.addr + o⟩ ∈ z.src) ∧
      ∀ j ∈ ks, ∀ z, q.lanes[j]? = some z → ∀ p a, ⟨.remote p, a⟩ ∈ z.src → ∃ y ∈ xs, y.peer = p ∧ y.addr = 128 * (a / 128))

/-- R116, R120, R126: The answers of a query return once every lane has one: each lane's registers get them, GSTAT.QNONE
tells whether a lane had none and GSTAT.CUT whether one was cut, and the query is gone; after an uncorrectable error
no lane is written, no staging granule it may have read is kept, labels' and values' too (R302), and the group takes
0x30. At a directory's build end its parts stand, the counts of its rank part exact; a bank's throttle begins and
ends, where IXSTAT shows it. -/
def Obligations.AnswersReturn : Prop :=
  (∀ s q, s.queries.find? (fun y => y.id == q.id) = some q → (∀ x ∈ q.lanes, x.res ≠ none ∧ x.lane < 128) → q.grp < s.groups.length →
    (q.lanes.map fun x => x.lane).Nodup →
    (∃ t, exec (.queryResultReturn q.id false) s = .next t ∧
      { t with groups := s.groups, queries := s.queries, dirs := s.dirs } = s ∧ t.queries = s.queries.filter (fun y => y.id != q.id) ∧
      (∀ d ∈ t.dirs, d ∈ s.dirs) ∧ (∀ g, g ≠ q.grp → t.grpAt g = s.grpAt g) ∧
      { t.grpAt q.grp with vregs := (s.grpAt q.grp).vregs, qnone := (s.grpAt q.grp).qnone, cut := (s.grpAt q.grp).cut } = s.grpAt q.grp ∧
      (∀ x ∈ q.lanes, ∀ r, x.res = some r → (t.grpAt q.grp).rdV q.dst x.lane = .ofNat 32 r.1 ∧
        (q.op = 0x28A → (t.grpAt q.grp).rdV (q.dst + 1) x.lane = .ofNat 32 r.2) ∧
        (q.op ≠ 0x28A → q.wide = true → (t.grpAt q.grp).rdV (q.dst + 1) x.lane = .ofNat 32 (r.1 / 2 ^ 32))) ∧
      (∀ k l, l < 128 → ((∀ x ∈ q.lanes, x.lane ≠ l) ∨ (k ≠ q.dst ∧ (k ≠ q.dst + 1 ∨ (q.op ≠ 0x28A ∧ q.wide = false)))) →
        (t.grpAt q.grp).rdV k l = (s.grpAt q.grp).rdV k l) ∧
      ((t.grpAt q.grp).qnone = true ↔ if q.op = 0x28B then (s.grpAt q.grp).qnone = true else ∃ x ∈ q.lanes, ∃ r, x.res = some r ∧
        r.1 = (if q.op ≠ 0x28A ∧ q.wide = true then 2 ^ 64 - 1 else 2 ^ 32 - 1)) ∧
      (t.grpAt q.grp).cut = if q.op = 0x28A then q.cut else (s.grpAt q.grp).cut) ∧
    (∃ t fl, exec (.queryResultReturn q.id true) s = .next t ∧ (∀ g, g ∈ fl ↔ g ∈ s.staged ∧ ¬GranuleRead s q g) ∧
      t = ({ s with queries := s.queries.filter fun y => y.id != q.id, staged := fl } : State).gcDirs.takeFault q.grp q.sp q.pc false
        { code := 0x30, info32 := (s.grpAt q.grp).idemRetry })) ∧
  (∀ (s : State) id, exec (.directoryBuildEnd id) s = .next { s with dirs := s.dirs.map fun d =>
    if d.id = id ∧ d.built = false then { d with built := true, parts := s.partsOf d } else d }) ∧
  (∀ (s : State) (d : Dir) k, 4096 * k < d.len →
    let b := stringOf s d
    ∃ base blocks, (s.partsOf d).rank[k]? = some (base, blocks) ∧
      base = (d.sealedOnes.take (k / 256)).sum + (before b (4096 * k) - before b (2 ^ 20 * (k / 256))) ∧
      blocks = (List.range 7).map fun j => before b (4096 * k + 512 * (j + 1)) - before b (4096 * k)) ∧
  (∀ (s : State) bank, ∃ x y, exec (.activationAlert bank) s = .next { s with throttled := x } ∧
    exec (.activationThrottleEnd bank) s = .next { s with throttled := y } ∧ ∀ b, (b ∈ x ↔ b ∈ s.throttled ∨ b = bank) ∧
      (b ∈ y ↔ b ∈ s.throttled ∧ b ≠ bank))

/-! ## Flash, page moves and the staging cache (R74 to R82) -/

namespace Sys2Proof.Claims

abbrev unit : Nat := 2 ^ 21

/-- The code of the region tests of R80 at issue, none where the install is accepted. -/
def RegionTest (s : State) (n : Nat) (c : Option Nat) : Prop :=
  ((∀ r, s.region? n = some r → r.ten ≠ s.team.ten) → c = some 6) ∧
    ∀ r, s.region? n = some r → r.ten = s.team.ten →
      (r.installing = true → c = some 5) ∧
      (r.installing = false → r.budget < r.consumed + r.units.length → c = some 3) ∧
      (r.installing = false → r.consumed + r.units.length ≤ r.budget → c = none)

/-- What barriers the group has passed order before an access numbered `id` is complete (R239). -/
def OrderedFor (s : State) (gi id : Nat) : Prop := ∀ y ∈ (s.grpAt gi).syncs, id < y.after ∨ s.busyBefore y.grp y.upTo = false

/-- Byte `k` of the unit whose 64-byte lines lie at `ls`. -/
def sourceByte (s : State) (ls : List Loc) (k : Nat) : Byte := (ls[k / 64]?).elim 0 fun l => s.rdB (l.plus (k % 64))

/-- A page PGMOVE may move (R74), its first page number, and where it stands: placement and number. -/
def Movable (e : Nat) : Prop := e / 2 ^ 60 % 8 ≤ 3 ∧ bitOf e 8 = false ∧ bitOf e 7 = false ∧ bitOf e 5 = false
def firstPage (e va : Nat) : Nat := va / 4096 / pageUnits (e / 2 ^ 60 % 8) * pageUnits (e / 2 ^ 60 % 8)
def standsAt (e : Nat) : Nat × Nat := (e / 2 ^ 53 % 4, e / 2 ^ 44 % 2 ^ 9)

/-- What a target means (R76): a vault, a stack, interleaved, the own vault. -/
def targetOf (t col : Nat) : Option (Nat × Nat) :=
  if t ≤ 0x1FF then some (1, t) else if t ≤ 0x20F then some (2, t - 0x200) else if t = 0x210 then some (0, 0)
  else if t = 0x3FF then some (1, col) else none

/-- The moves asked for, less those of a page. -/
def movesBut (s : State) (page : Nat) : List Migration := s.migrations.filter fun m => !(m.ten == s.team.ten && m.va == 4096 * page)

/-- The pin of a page set or cleared. -/
def pinnedBy (s : State) (page : Nat) (pin : Bool) : List (Nat × Nat) :=
  (if pin then [(s.team.ten, page)] else []) ++ s.pinned.filter (· != (s.team.ten, page))

end Sys2Proof.Claims

/-- R77 to R82, R101, R301, R329: WINSTALL checks its record's address, tests its region and joins the group's open batch
with the code of a failed test, or holds the region busy; WSTAT tells a region's wear budget left, greatest wear,
retired units, busy bit and last code, or its installs and units, and all ones where the region is not the tenant's.
An install begins once nothing orders it later; each unit read from its source, through the staging cache where it
lies in flash, is programmed into the first spare of its region's stack and counted, an error retires the spare and
tries again, up to three times, and a source that cannot be read (7) or a pool without spares (4) abandons the install
and returns what it took. The commit, 32 µs a unit after the issue at the earliest, replaces the region's whole
contents at one point, drops its staged granules, gives the old units back as spares and settles the code; the end
frees the region, writes the code into the record and adds 1 to its counter. (The numbers of spare units are log entry
16, the paths a record may lie on log entry 13, the time of the commit log entry 52.) (That a region is closed before
a check that fails is log entry 69.) -/
def Obligations.Installs : Prop :=
  (∀ f s l c, Issues (.winstall f) f s → path (s.scalarSrc f.c) ∉ [3, 4, 5, 15] → s.access s.team (s.scalarSrc f.c) 16 16 .engWrite = .ok l →
    RegionTest s (s.scalarSrc f.b).toNat c →
    ∃ t foot, exec (.winstall f) s = .next t ∧
      NoResult (.winstall f) { s with
        nextId := s.nextId + 1
        regions := if c = none then s.regions.map fun r => if r.n = (s.scalarSrc f.b).toNat then
          { (s.region? r.n).getD r with installing := true } else r else s.regions
        installs := s.installs ++ [{
          id := s.nextId, grp := s.cur, team := s.grp.team, batch := s.grp.batchOpen, ten := s.team.ten, region := (s.scalarSrc f.b).toNat
          src := (s.scalarSrc f.a).toNat, record := l, recordAt := s.scalarSrc f.c, issuedAt := s.clock, code := c, started := false, committed := false, news := [], bad := 0, tries := 0
          data := [], foot }] } t) ∧
  (∀ f s a, Issues (.winstall f) f s → a = s.scalarSrc f.c → path a ∈ [3, 4, 5, 15] →
    exec (.winstall f) s = .next (s.closeRegion.fault { code := 0x11, addr := a, info32 := 3 })) ∧
  (∀ f s sel, Issues (.wstat f) f s → f.b = .lit (.ofNat 8 sel) → sel < 2 →
    ∃ t v, exec (.wstat f) s = .next t ∧ ScaResult (.wstat f) s t f.dst.toNat v ∧
      ((∀ r, s.region? (s.scalarSrc f.a).toNat = some r → r.ten ≠ s.team.ten) → v = 0xFFFFFFFFFFFFFFFF#64) ∧
      ∀ r, s.region? (s.scalarSrc f.a).toNat = some r → r.ten = s.team.ten →
        (sel = 1 → v.toNat = r.installs % 2 ^ 32 * 2 ^ 32 + r.units.length % 2 ^ 32 ∨ 2 ^ 32 ≤ r.units.length) ∧
        (sel = 0 → v.toNat / 2 ^ 32 = (r.budget - r.consumed) % 2 ^ 32 ∧ v.toNat / 2 ^ 8 % 2 ^ 8 = min r.retired 255 ∧
          v.getLsbD 3 = r.installing ∧ v.toNat % 8 = r.lastCode % 8 ∧
          (∀ u ∈ r.units, min (Map.get 0 s.wear u * 1000 / 3000) 65535 ≤ v.toNat / 2 ^ 16 % 2 ^ 16) ∧
          (v.toNat / 2 ^ 16 % 2 ^ 16 = 0 ∨ ∃ u ∈ r.units, v.toNat / 2 ^ 16 % 2 ^ 16 = min (Map.get 0 s.wear u * 1000 / 3000) 65535))) ∧
  (∀ s x, s.installs.find? (fun y => y.id == x.id) = some x → x.started = false → x.code = none → s.busyBefore x.grp x.id = false → OrderedFor s x.grp x.id →
    s.footprintBlocked x.team x.id x.foot = false → s.behindGuard x.grp x.id = false →
    exec (.installStart x.id) s = .next (s.setInstall { x with started := true })) ∧
  (∀ s x r ls u us, s.installs.find? (fun y => y.id == x.id) = some x → s.region? x.region = some r → x.started = true → x.code = none →
    x.news.length < r.units.length → s.unitSource x.ten (x.src + x.news.length * unit) = .ok ls → ls.length * 64 = unit → (∀ l ∈ ls, Staged s l) →
    Map.get [] s.spares r.stack = u :: us → u ∉ us →
    (∃ t y, exec (.installUnitProgrammed x.id false) s = .next t ∧
      { t with wear := s.wear, spares := s.spares, regions := s.regions, installs := s.installs } = s ∧
      Map.get 0 t.wear u = Map.get 0 s.wear u + 1 ∧ (∀ k, k ≠ u → Map.get 0 t.wear k = Map.get 0 s.wear k) ∧
      Map.get [] t.spares r.stack = us ∧ (∀ k, k ≠ r.stack → Map.get [] t.spares k = Map.get [] s.spares k) ∧
      t.regions = s.regions.map (fun z => if z.n = r.n then { r with consumed := r.consumed + 1 } else z) ∧
      t.installs = s.installs.map (fun z => if z.id = x.id then y else z) ∧
      { y with data := x.data } = { x with news := x.news ++ [u], tries := 0 } ∧
      ∀ k, Memory.rd y.data k = if x.news.length * unit ≤ k ∧ k < (x.news.length + 1) * unit then sourceByte s ls (k - x.news.length * unit)
        else Memory.rd x.data k) ∧
    (x.tries < 3 → ∃ t, exec (.installUnitProgrammed x.id true) s = .next t ∧
      { t with wear := s.wear, spares := s.spares, regions := s.regions, installs := s.installs } = s ∧
      Map.get 0 t.wear u = Map.get 0 s.wear u + 1 ∧ Map.get [] t.spares r.stack = us ∧
      t.regions = s.regions.map (fun z => if z.n = r.n then { r with consumed := r.consumed + 1, retired := r.retired + 1 } else z) ∧
      t.installs = s.installs.map (fun z => if z.id = x.id then { x with bad := x.bad + 1, tries := x.tries + 1 } else z)) ∧
    (3 ≤ x.tries → ∃ t, exec (.installUnitProgrammed x.id true) s = .next t ∧
      t.installs = s.installs.map (fun z => if z.id = x.id then { x with code := some 4, news := [], data := [] } else z) ∧
      Map.get [] t.spares r.stack = us ++ x.news)) ∧
  (∀ s x r, s.installs.find? (fun y => y.id == x.id) = some x → s.region? x.region = some r → x.started = true → x.code = none →
    x.news.length < r.units.length →
    (let ends (c : Nat) : Prop := ∃ t, exec (.installUnitProgrammed x.id false) s = .next t ∧ { t with spares := s.spares, installs := s.installs } = s ∧
       t.installs = s.installs.map (fun z => if z.id = x.id then { x with code := some c, news := [], data := [] } else z) ∧
       Map.get [] t.spares r.stack = Map.get [] s.spares r.stack ++ x.news
     (∀ e, s.unitSource x.ten (x.src + x.news.length * unit) = .flt e → ends 7) ∧
     (∀ ls, s.unitSource x.ten (x.src + x.news.length * unit) = .ok ls → (∀ l ∈ ls, Staged s l) → Map.get [] s.spares r.stack = [] → ends 4) ∧
     (∀ ls, s.unitSource x.ten (x.src + x.news.length * unit) = .ok ls → (∃ l ∈ ls, ¬Staged s l) →
       ∃ fl, exec (.installUnitProgrammed x.id false) s = .next { s with filling := fl } ∧ Fetches s fl ls) ∧
     (∀ ten p m e, s.unitSource x.ten (x.src + x.news.length * unit) = .wait ten p m e →
       exec (.installUnitProgrammed x.id false) s = .next (s.report ten p m)))) ∧
  (∀ s x r, s.installs.find? (fun y => y.id == x.id) = some x → s.region? x.region = some r → x.started = true → x.code = none →
    x.news.length = r.units.length →
    (s.clock < x.issuedAt + 33600 * r.units.length → exec (.installCommit x.id) s = .next s) ∧
    (x.issuedAt + 33600 * r.units.length ≤ s.clock →
     let n := r.units.length * unit
     let worn : Prop := ∃ u ∈ x.news, 2700 < Map.get 0 s.wear u
     ∃ t c, exec (.installCommit x.id) s = .next t ∧
       { t with flash := s.flash, staged := s.staged, spares := s.spares, regions := s.regions, installs := s.installs } = s ∧
       (∀ k, Memory.rd t.flash k = if r.base ≤ k ∧ k < r.base + n then Memory.rd x.data (k - r.base) else Memory.rd s.flash k) ∧
       (∀ g, g ∈ t.staged ↔ g ∈ s.staged ∧ ¬(r.base ≤ g * unit ∧ g * unit < r.base + n)) ∧
       Map.get [] t.spares r.stack = Map.get [] s.spares r.stack ++ r.units ∧
       t.regions = s.regions.map (fun z => if z.n = r.n then { r with units := x.news, installs := r.installs + 1 } else z) ∧
       t.installs = s.installs.map (fun z => if z.id = x.id then { x with code := some c, committed := true, data := [] } else z) ∧
       (x.bad ≠ 0 → c = 2) ∧ (x.bad = 0 → worn → c = 1) ∧ (x.bad = 0 → ¬worn → c = 0))) ∧
  (∀ s x c, s.installs.find? (fun y => y.id == x.id) = some x → x.code = some c → s.footprintBlocked x.team x.id x.foot = false →
    s.behindGuard x.grp x.id = false → (∃ ix dur, x.record.sp = .mem ix dur) →
    ∃ t, exec (.installEnd x.id) s = .next t ∧
      { t with mem := s.mem, fill := s.fill, rjobs := s.rjobs, dirs := s.dirs, regions := s.regions, installs := s.installs } = s ∧
      t.rdN (x.record.plus 8) 8 = c % 2 ^ 64 ∧ t.rdN x.record 8 = (s.rdN x.record 8 + 1) % 2 ^ 64 ∧
      (∀ l : Loc, l.sp ≠ .win → l.overlaps 1 x.record 16 = false → t.rdB l = s.rdB l) ∧
      t.installs = s.installs.filter (fun y => y.id != x.id) ∧
      ((c = 3 ∨ c = 5 ∨ c = 6) → t.regions = s.regions) ∧
      ∀ r, s.region? x.region = some r → c ≠ 3 → c ≠ 5 → c ≠ 6 →
        t.regions = s.regions.map (fun z => if z.n = r.n then { r with installing := false, lastCode := c } else z))

namespace Sys2Proof.Claims

/-- A port's writes reach the module now: its link is up, the module awake, and none of its earlier ones is on its way (R343, R345). -/
abbrev Reaches (s : State) (port : Nat) : Prop :=
  port < 2 ∧ (s.port port).up = true ∧ s.biv.phase ≠ 2 ∧ ∀ w ∈ s.lines, w.port ≠ some port

/-- It may write controls: the module runs, and the semaphore is its own (R344, R348). -/
abbrev Controls (s : State) (port : Nat) : Prop := Reaches s port ∧ s.ctlsem = port + 1 ∧ s.boot.brstate = 5

/-- No install's next unit, and no submission, is read from a granule (R77, R80, R266). -/
def NoInstallIn (s : State) (g : Nat) : Prop := ∀ i ∈ s.installs, ∀ l ∈ s.unitPlaces i, ¬(l.sp = .flash ∧ l.a / unit = g)
def NoSubmissionIn (s : State) (g : Nat) : Prop :=
  ∀ p, p < 2 → (s.port p).subBusy = true → ∀ l ∈ s.submissionMiss p, ¬(l.sp = .flash ∧ l.a / unit = g)

/-- Nothing else waits for it: no access, query, split, peer or port, and no command has bytes in it. -/
def Unread (s : State) (g : Nat) : Prop :=
  let in_ (l : Loc) : Prop := l.sp = .flash ∧ l.a / unit = g
  (∀ p ∈ s.pend, ∀ x ∈ p.lanes, x.res = none → ¬in_ x.loc) ∧ (∀ q ∈ s.queries, s.queryIn q g = false) ∧
    (∀ i k, s.granuleWait (i, k) g = false) ∧ (∀ j ∈ s.jobs, ∀ e ∈ j.els, ∀ l ∈ e.srcLocs, ¬in_ l) ∧ s.peerWaits = [] ∧ s.flashReads = []

def Unwanted (s : State) (g : Nat) : Prop := Unread s g ∧ NoInstallIn s g ∧ NoSubmissionIn s g

/-- A write dropped and counted at its port. -/
def refused (s : State) (port : Nat) : State := s.setPort port { s.port port with rejects := (s.port port).rejects + 1 }

end Sys2Proof.Claims

/-! ## Heat, translation, fresh memory and page moves as events (R69 to R75, R95 to R101, R110, R220) -/

namespace Sys2Proof.Claims

/-- Tenths of a degree above which band `k` is entered and below which it is left (R69). -/
def enters (k : Nat) : Nat := if k = 1 then 850 else if k = 2 then 950 else 1050
def leaves (k : Nat) : Nat := if k = 1 then 830 else if k = 2 then 930 else 1000

/-- The heat class after an interval of an average power in milliwatts (R71). -/
def heatNext (c mw : Nat) : Nat :=
  let m := if mw < 2000 then 0 else if mw < 4000 then 1 else if mw < 7000 then 2 else 3
  if c < m then c + 1 else if m < c then c - 1 else c

/-- The device takes a port's command: its writes reach the module, and it runs (R343, R345, R348). -/
abbrev Commands (s : State) (port : Nat) : Prop := Reaches s port ∧ s.boot.brstate = 5

/-- What a page is, as R110 has it: indexed or not, its address, tenant, placement and target; nothing where no leaf stands. -/
def pageAs (s : State) (ten va : Nat) : Option (Bool × Nat × Nat × Nat × Nat) :=
  match s.walk ten va with
  | .leaf e => some (bitOf e 8, (leafLoc e va).a, e / 2 ^ 55 % 32, e / 2 ^ 53 % 4, e / 2 ^ 44 % 2 ^ 9)
  | _ => none

/-- An edit alters a page of a directory's string. -/
def Altered (s t : State) (d : Dir) : Prop :=
  ∃ a, d.base ≤ a ∧ a < d.base + (d.len + 7) / 8 ∧ pageAs s d.ten (a / 4096 * 4096) ≠ pageAs t d.ten (a / 4096 * 4096)

/-- A place under an edit's old translation. -/
def Old (e : Edit) (l : Loc) : Prop := ∃ r ∈ e.old, l.sp.key = r.1 ∧ r.2.1 ≤ l.a ∧ l.a < r.2.2

/-- What a lane of a query reads, its string too, lies nowhere in an edit's old translation (R97). -/
def Clear (s : State) (e : Edit) (q : Query) (x : QLane) : Prop :=
  ∀ p ∈ s.laneSpans q x, ∀ r ∈ e.old, ¬(p.2.1.sp.key = r.1 ∧ p.2.1.a < r.2.2 ∧ r.2.1 < p.2.1.a + p.2.2)

/-- Where a split that waited for an answer goes on after Valid: a fetch is made again; a CWAITGE asks its counter again, unless its team has
been asked to stop, which ends its wait again; any other instruction executes anew (R99, R262). -/
def GoesOn (s : State) (asked : Bool) (x y : Split) : Prop :=
  let z : Split := { x with since := s.tick + 1 }
  match x.wait, x.resume with
  | .fetching .., _ => y = { z with wait := .none }
  | _, .cwait a v sc nx => if asked then y = { z with wait := .yielded, named := none, resume := .cwait a v sc nx }
      else y = { z with wait := .cwait a v sc nx, resume := .none }
  | _, _ => y = { z with wait := .retry }

/-- A place of one 4 KiB frame in another. -/
def moved (old new : Nat) (l : Loc) : Loc :=
  if l.sp.key = 0 ∧ 4096 * old ≤ l.a ∧ l.a < 4096 * old + 4096 then { l with a := 4096 * new + (l.a - 4096 * old) } else l

end Sys2Proof.Claims

/-- R69, R71, R73, R218, R220, R303: A vault's band rises past the entry temperatures and falls below the leave
temperatures; at an interval's end the class of each team resident throughout moves one step toward its measured
class; either way the teams whose charge has risen are marked; an unfence whose products pass clears the sub-array's
bit; a replay is counted and delays its column by a cycle. (That an unfence's own proof products do not count in
selector 7 is log entry 91.) -/
def Obligations.ColumnEvents : Prop :=
  (∀ s col temp, (s.col col).band ≤ 3 → ∃ b, exec (.vaultBandChange col temp) s = .next { s.setCol col { s.col col with band := b } with
      teams := marked s (s.setCol col { s.col col with band := b }) col } ∧ b ≤ 3 ∧
    ∀ k, 1 ≤ k → k ≤ 3 → (k ≤ b ↔ enters k < temp ∨ (k ≤ (s.col col).band ∧ leaves k ≤ temp))) ∧
  (∀ (s u : State) col powers, u = { s with teams := s.teams.map fun x =>
      if x.ended = true ∨ x.col ≠ col then x
      else if x.whole = false then { x with whole := true }
      else match (powers.find? fun p => p.1 == x.uid) with
        | some p => { x with heat := heatNext x.heat p.2 }
        | none => x } → exec (.heatIntervalEnd col powers) s = .next { u with teams := marked s u col }) ∧
  (∀ s port col sa, Controls s port → col < 512 → sa < 4 →
    exec (.unfence port col sa false) s = .next s ∧
    ∃ t, exec (.unfence port col sa true) s = .next t ∧ { t with columns := s.columns } = s ∧ (∀ k, k ≠ col → t.col k = s.col k) ∧
      (∀ a, a < 4 → (t.col col).fenced.getLsbD a = ((s.col col).fenced.getLsbD a && a != sa)) ∧
      { t.col col with fenced := (s.col col).fenced, sinceProof := (s.col col).sinceProof, suspects := (s.col col).suspects } = s.col col) ∧
  (∀ (s : State) col, exec (.shadowLatchReplay col) s =
    .next (s.setCol col { s.col col with replays := (s.col col).replays + 1, extra := (s.col col).extra + 1 }))

/-- R75, R80, R94, R96 to R99, R110, R131: A walk that ends at a leaf is cached, 2,048 to a column, one that does not is
reported once for its page; a page edit writes its entry, revokes the handles over every indexed page it alters and no
others, and commands that wait on a guard find their places anew; a move of a page it changes is dropped; it completes
once no access, query, command, install or write under way uses a place of the old translation, and then no
translation of the tenant is cached. The host's answer ends an outstanding report: after Valid every split that waits
on the page, inside an instruction or to fetch one, goes on and retries; after Deliver it takes the access's fault,
or, for a guarded command on an open slot, carries it to its guard; a peer's access that waits gets 0x10, an install
that waits ends with code 7, and a query or a command placed anew that waits is gone, its group in the fault, or its
record posted where the group has ended (log entry 66). Groups with no waiter keep all they have, and a page nobody
reported has no answer. (When an edit is complete is log entry 42, what one edit of a replica writes log entry 63, an
edit without its table log entry 64, the page a report names log entry 56, the move an edit drops log entry 72, a
command placed anew that waits log entry 66.) -/
def Obligations.PageEdits : Prop :=
  (∀ (s : State) col ten va,
    (∀ e, s.walk ten va = .leaf e → ∃ t, exec (.pageWalkComplete col ten va) s = .next t ∧ (col, ten, firstPage e va) ∈ t.tlb ∧ { t with tlb := s.tlb } = s ∧
      ((col, ten, firstPage e va) ∉ s.tlb → (t.tlb.filter fun k => k.1 == col).length ≤ 2048)) ∧
    (∀ m, (if m then s.walk ten va = .malformed else s.walk ten va = .absent) →
      exec (.pageWalkComplete col ten va) s = .next (if (ten, va / 4096) ∈ s.reports then s
        else { s with reports := (ten, va / 4096) :: s.reports, told := .report ten (va / 4096) m :: s.told }))) ∧
  (∀ (s : State) port ten va level e x tbl, Commands s port → s.tenantOf? ten = some x → 1 ≤ level → level ≤ 4 →
    s.tableAt va 4 level x.root = some tbl → e < 2 ^ 64 → (e / 2 ^ 60 % 8 = 7 ∨ bitOf e 63 = false ∨ e / 2 ^ 60 % 8 % 2 = 0) →
    (let idx := va / 2 ^ (48 - 9 * level) % 512
     let l : Loc := ⟨.mem false false, tbl + 8 * idx⟩
     ∃ t old, exec (.pageEdit ⟨port, ten⟩ va level (.ofNat 64 e)) s = .next t ∧ t.rdN l 8 = e ∧ t.edits = s.edits ++ [⟨ten, va / 4096, old⟩] ∧
       (∀ m : Loc, m.overlaps 1 l 8 = false → t.rdB m = s.rdB m) ∧
       { t with mem := s.mem, fill := s.fill, edits := s.edits, teams := s.teams, items := s.items, away := s.away, rjobs := s.rjobs
                dirs := s.dirs, placed := s.placed, migrations := s.migrations, jobs := s.jobs } = s ∧
       (t.jobs.map fun j => { j with stale := false }) = (s.jobs.map fun j => { j with stale := false }) ∧
       (∀ d ∈ s.dirs, d.ten = ten → Altered s t d → ∀ y ∈ t.teams, ∀ h ∈ y.handles, h.kind ≠ .bits d.id) ∧
       ((∀ d ∈ s.dirs, d.ten = ten → ¬Altered s t d) → t.teams = s.teams ∧ t.items = s.items ∧ t.away = s.away ∧ t.rjobs = s.rjobs ∧ t.dirs = s.dirs) ∧
       (level = 4 → ∀ o, s.rdN l 8 = o → bitOf o 63 = true → o / 2 ^ 60 % 8 = 0 → leafOk o = true → e ≠ o →
         ((if bitOf o 5 then 1 else 0), 4096 * (o / 2 ^ 12 % 2 ^ 32), 4096 * (o / 2 ^ 12 % 2 ^ 32) + 4096) ∈ old ∧
           ∀ m ∈ t.migrations, ¬(m.ten = ten ∧ m.va = va / 4096 * 4096)))) ∧
  (∀ (s : State) ten va,
    (∀ e, s.edits.find? (fun x => x.ten == ten && x.page == va / 4096) = some e →
      ((∀ p ∈ s.pend, ∀ x ∈ p.lanes, x.res = none → ¬Old e x.loc) → (∀ q ∈ s.queries, ∀ x ∈ q.lanes, x.res = none → Clear s e q x) →
        (∀ j ∈ s.jobs, j.stale = false → ∀ l ∈ j.locs, ¬Old e l) → (∀ i ∈ s.installs, ¬Old e i.record) → (∀ w ∈ s.lines, ∀ l ∈ w.locs, ¬Old e l) →
        exec (.pageEditComplete ten va) s = .next { s with edits := s.edits.erase e, tlb := s.tlb.filter fun k => k.2.1 != ten }) ∧
      ((∃ p ∈ s.pend, ∃ x ∈ p.lanes, x.res = none ∧ Old e x.loc) → exec (.pageEditComplete ten va) s = .next s) ∧
      ((∃ q ∈ s.queries, ∃ x ∈ q.lanes, x.res = none ∧ ¬Clear s e q x) → exec (.pageEditComplete ten va) s = .next s) ∧
      ((∃ j ∈ s.jobs, j.stale = false ∧ ∃ l ∈ j.locs, Old e l) → exec (.pageEditComplete ten va) s = .next s)) ∧
    ((∀ e ∈ s.edits, ¬(e.ten = ten ∧ e.page = va / 4096)) → exec (.pageEditComplete ten va) s = .next s)) ∧
  (∀ (s : State) port ten va, Commands s port →
    let page := va / 4096
    let waits (x : Split) : Prop := x.live = true ∧ ((∃ f d, x.wait = .answer ten page f d) ∨ ∃ f, x.wait = .fetching ten page f)
    let calm : Prop := s.queries = [] ∧ ∀ j ∈ s.jobs, j.stale = false
    let noDone : Prop := (∀ d ∈ s.dones, ¬(d.1 = ten ∧ d.2.2 = page)) ∧ ∀ j ∈ s.joinWaits, ¬(j.ten = ten ∧ j.page = some page)
    ((ten, page) ∉ s.reports → exec (.notPresentAnswerValid ⟨port, ten⟩ va) s = .next s ∧ exec (.notPresentAnswerDeliver ⟨port, ten⟩ va) s = .next s) ∧
    ((ten, page) ∈ s.reports →
      (∃ t, exec (.notPresentAnswerValid ⟨port, ten⟩ va) s = .next t ∧
        (∀ g k, g < s.groups.length → k < 2 → (waits (s.spAt (g, k)) →
          GoesOn s (!(s.teamOf (s.grpAt g).team).requests.isEmpty) (s.spAt (g, k)) (t.spAt (g, k))) ∧ (¬waits (s.spAt (g, k)) → t.spAt (g, k) = s.spAt (g, k))) ∧
        (∀ g, { t.grpAt g with s0 := (s.grpAt g).s0, s1 := (s.grpAt g).s1 } = s.grpAt g) ∧
        (noDone → (∀ w ∈ s.peerWaits, ¬(w.ten = ten ∧ w.page = some page)) →
          { t with groups := s.groups, reports := s.reports } = s ∧ (ten, page) ∉ t.reports)) ∧
      ((∀ p, (∀ f d, (s.spAt p).wait = .answer ten page f d → f.code ≠ 0x30) ∧ ∀ f, (s.spAt p).wait = .fetching ten page f → f.code ≠ 0x30) → ∃ t, exec (.notPresentAnswerDeliver ⟨port, ten⟩ va) s = .next t ∧
        (noDone → (ten, page) ∉ t.reports ∧
          ∀ x, s.installs.find? (fun y => y.id == x.id) = some x → s.installWaits x ten page = true → ∃ y ∈ t.installs, y.id = x.id ∧ y.code = some 7) ∧
        (∀ w ∈ s.peerWaits, w.ten = ten → w.page = some page → .remoteAnswer w.peer 0x10 0 ∈ t.told) ∧
        (noDone → (∀ q ∈ s.queries, (∃ x ∈ q.lanes, x.res = none ∧ ∃ m f, s.queryNext q x = .wait ten page m f) → ∀ y ∈ t.queries, y.id ≠ q.id) ∧
          (s.queries = [] → ∀ j ∈ s.jobs, j.stale = true → s.jobReady j = true → (∃ m f, s.replan j = .wait ten page m f) → ∀ y ∈ t.jobs, y.id ≠ j.id)) ∧
        (∀ g k f, calm → g < s.groups.length → k < 2 → (s.spAt (g, k)).live = true →
          ((s.spAt (g, k)).wait = .answer ten page f false ∨ (s.spAt (g, k)).wait = .fetching ten page f) →
          (t.grpAt g).stopped = true ∧ (t.spAt (g, k)).fault = some ((s.spAt (g, k)).pc, f.code) ∧ ∃ r ∈ t.posts, r.grp = some g ∧ r.flt = f) ∧
        (∀ g k f, calm → g < s.groups.length → k < 2 → (s.spAt (g, k)).live = true → (s.spAt (g, k)).wait = .answer ten page f true →
          t.spAt (g, k) = { s.spAt (g, k) with wait := .retry, resume := .none, since := s.tick + 1, denied := some f }) ∧
        (∀ g, calm → ¬waits (s.grpAt g).s0 → ¬waits (s.grpAt g).s1 → t.grpAt g = s.grpAt g))))

/-- R77, R78, R101, R302: A granule that arrives is kept, and one that fails is not: an access that waits for it takes
0x30, a split that waits to fetch from it or to read it too; an install reading it is abandoned with code 7, a
submission that reads it is refused, and a port's read of it gets its bytes then, or a Completer Abort; a resize
within bounds waits for every install, then empties the cache; a region is defined within one stack, and reads as
zeros until its first install. The background fill changes what no read gives, and takes the line out of the pending
ones; reassigned lines read as zeros and every other byte as before. (That a resize out of bounds changes nothing is
log entry 46; a region given to another tenant is log entry 45, a command that fails when it is placed anew log entry
66.) -/
def Obligations.Storage : Prop :=
  (∀ (s : State) g, g ∈ s.filling →
    (s.peerWaits = [] → s.flashReads = [] → exec (.stagingFillComplete g false) s = .next { s with filling := s.filling.filter (· != g), staged := s.staged ++ [g] }) ∧
    (Unwanted s g → exec (.stagingFillComplete g true) s = .next { s with filling := s.filling.filter (· != g) }) ∧
    (∀ p u, Unwanted { s with pend := [] } g → s.pend = [p] → (∃ x ∈ p.lanes, x.res = none ∧ x.loc.sp = .flash ∧ x.loc.a / unit = g) →
      u = ({ s with filling := s.filling.filter (· != g), pend := [] } : State).takeFault p.grp p.sp p.pc false
        { code := 0x30, info32 := (s.grpAt p.grp).idemRetry } →
      exec (.stagingFillComplete g true) s = .next u) ∧
    (∀ x r, Unread s g → NoSubmissionIn s g → s.installs = [x] → s.region? x.region = some r → (∃ l ∈ s.unitPlaces x, l.sp = .flash ∧ l.a / unit = g) →
      ∃ t, exec (.stagingFillComplete g true) s = .next t ∧ { t with filling := s.filling, installs := s.installs, spares := s.spares } = s ∧
        t.filling = s.filling.filter (· != g) ∧ t.installs = [{ x with code := some 7, news := [], data := [] }] ∧
        Map.get [] t.spares r.stack = Map.get [] s.spares r.stack ++ x.news ∧ ∀ k, k ≠ r.stack → Map.get [] t.spares k = Map.get [] s.spares k) ∧
    (∀ p, p < 2 → Unread s g → NoInstallIn s g → (s.port p).subBusy = true → (∃ l ∈ s.submissionMiss p, l.sp = .flash ∧ l.a / unit = g) →
      ((s.port (1 - p)).subBusy = true → ∀ l ∈ s.submissionMiss (1 - p), ¬(l.sp = .flash ∧ l.a / unit = g)) →
      exec (.stagingFillComplete g true) s = .next (({ s with filling := s.filling.filter (· != g) } : State).setPort p
        { s.port p with subBusy := false, subres := .ofNat 64 (2 ^ 32) })) ∧
    (∀ i k u, NoInstallIn s g → NoSubmissionIn s g → i < s.groups.length → k < 2 → (∀ p ∈ s.pend, ∀ x ∈ p.lanes, x.loc.sp ≠ .flash) →
      s.queries = [] → s.jobs = [] → s.peerWaits = [] → s.flashReads = [] → s.granuleWait (i, k) g = true →
      (∀ p, p.2 < 2 → p ≠ (i, k) → s.granuleWait p g = false) →
      u = (({ s with filling := s.filling.filter (· != g) } : State).setSpAt (i, k) { s.spAt (i, k) with wait := .none }).takeFault i k
        (s.spAt (i, k)).pc false { code := 0x30, info32 := (s.grpAt i).idemRetry } →
      exec (.stagingFillComplete g true) s = .next u) ∧
    (∀ port off n ls, s.flashReads = [(port, off, n)] → s.peerWaits = [] → s.hostLocs (s.port port).bar2ten ((s.port port).bar2 off) n .read = some ls →
      (∃ l ∈ ls, l.sp = .flash ∧ l.a / unit = g) →
      let w : State := { s with filling := s.filling.filter (· != g), flashReads := [] }
      (s.boot.brstate = 5 → (∀ l ∈ ls, l.sp = .flash → l.a / unit = g ∨ l.a / unit ∈ s.staged) → exec (.stagingFillComplete g false) s = .next { w with
        staged := s.staged ++ [g], told := .read port off (some (s.readAll ls)) :: s.told }) ∧
      (Unwanted { s with flashReads := [] } g →
        exec (.stagingFillComplete g true) s = .next { w with told := .read port off none :: s.told }))) ∧
  (∀ s port size, Controls s port →
    (size % unit = 0 → 32 * 2 ^ 30 ≤ size → size ≤ 512 * 2 ^ 30 →
      exec (.stagingCacheResize port size) s = .next { s with set := { s.set with stagingNew := some size } }) ∧
    ((size % unit ≠ 0 ∨ size < 32 * 2 ^ 30 ∨ 512 * 2 ^ 30 < size) → exec (.stagingCacheResize port size) s = .next s)) ∧
  (∀ s n, s.set.stagingNew = some n →
    ((∀ r ∈ s.regions, r.installing = false) → exec .stagingResizeApply s =
      .next { s with staged := [], set := { s.set with stagingSize := n, stagingNew := none } }) ∧
    ((∃ r ∈ s.regions, r.installing = true) → exec .stagingResizeApply s = .next s)) ∧
  (∀ s port n ten stack base units budget, Controls s port → n < 1024 → stack < 4 → units ≠ 0 → base % unit = 0 →
    2 ^ 40 * stack ≤ base → base + units * unit ≤ 2 ^ 40 * (stack + 1) → budget < 2 ^ 32 → s.region? n = none →
    ∃ t, exec (.installRegionDefine port n ten stack base units budget) s = .next t ∧ { t with regions := s.regions, flash := s.flash } = s ∧
      t.regions = s.regions ++ [{ n, ten, stack, base, units := (List.range units).map (base / unit + ·), budget, consumed := 0, installs := 0
                                  installing := false, retired := 0, lastCode := 0 }] ∧
      ∀ k, Memory.rd t.flash k = if base ≤ k ∧ k < base + units * unit then 0 else Memory.rd s.flash k) ∧
  (∀ (s : State) sp line,
    (s.isPending sp line = true → ∃ t, exec (.backgroundFillLine sp line) s = .next t ∧ t.isPending sp line = false ∧ (∀ l, t.rdB l = s.rdB l) ∧
      { t with mem := s.mem, sram := s.sram, fill := s.fill } = s) ∧
    (s.isPending sp line = false → exec (.backgroundFillLine sp line) s = .next s)) ∧
  (∀ (s : State) sp base len,
    (let inside (a : Nat) : Bool := decide (len ≠ 0 ∧ base / 64 ≤ a / 64 ∧ a / 64 ≤ (base + len - 1) / 64)
     ∃ t, exec (.memoryReassign sp base len) s = .next t ∧ { t with fill := s.fill } = s ∧
       (sp = .dram → (∀ ix dur a, t.rdB ⟨.mem ix dur, a⟩ = (if inside a then 0 else s.rdB ⟨.mem ix dur, a⟩)) ∧
         ∀ r a, t.rdB ⟨.sram r, a⟩ = s.rdB ⟨.sram r, a⟩) ∧
       (sp = .sram → (∀ r a, t.rdB ⟨.sram r, a⟩ = (if inside (2 ^ 27 * r + a) then 0 else s.rdB ⟨.sram r, a⟩)) ∧
         ∀ ix dur a, t.rdB ⟨.mem ix dur, a⟩ = s.rdB ⟨.mem ix dur, a⟩)))

/-- R2, R3, R74 to R76, R97: PGMOVE answers the first case that applies and never faults: 5 and 4 and 2 change nothing, 1
sets the pin, and ends a move asked for before, where it pins; a page that could move is turned away with 3 where its
target has no room, and where it has room is either turned away with 3 for want of a frame or accepted with 0, its
move queued and its pin set. (Which of the two is the model's free value, log entry 13.) A move begins for a page
PGMOVE asked for, or by policy for one not pinned, to a target with room; the switch leaves the page's bytes at the
new frame and its entry naming it, with the new placement and NI, and every other bit of the entry as it was, and
accesses under way to the old frame, and the records of installs, those of images too, go to the new one. -/
def Obligations.PagesMove : Prop :=
  (∀ f s, Issues (.pgmove f) f s →
    let a := (s.scalarSrc f.a).toNat
    let tells (s' : State) (n : Nat) : Prop := ∃ t, exec (.pgmove f) s = .next t ∧ ScaResult (.pgmove f) s' t f.dst.toNat (.ofNat 64 n)
    ((a / 2 ^ 48 ≠ 0 ∨ s.walk s.team.ten a = .absent ∨ s.walk s.team.ten a = .malformed) → tells s 5) ∧
    ∀ e, a / 2 ^ 48 = 0 → s.walk s.team.ten a = .leaf e →
      (e / 2 ^ 55 % 32 ≠ s.team.ten → tells s 5) ∧
      (e / 2 ^ 55 % 32 = s.team.ten → targetOf (s.scalarSrc f.b).toNat s.team.col = none → tells s 4) ∧
      ∀ g, e / 2 ^ 55 % 32 = s.team.ten → targetOf (s.scalarSrc f.b).toNat s.team.col = some g →
        (¬Movable e → tells s 2) ∧
        (Movable e → standsAt e = g → tells { s with
          pinned := pinnedBy s (firstPage e a) (f.mod.getLsbD 0)
          migrations := if f.mod.getLsbD 0 then movesBut s (firstPage e a) else s.migrations } 1) ∧
        (Movable e → standsAt e ≠ g → s.hasRoom g.1 g.2 (pageUnits (e / 2 ^ 60 % 8)) = false → tells s 3) ∧
        (Movable e → standsAt e ≠ g → s.hasRoom g.1 g.2 (pageUnits (e / 2 ^ 60 % 8)) = true → tells { s with freeCtr := s.freeCtr + 1 } 3 ∨
          tells { s with
            freeCtr := s.freeCtr + 1, pinned := pinnedBy s (firstPage e a) (f.mod.getLsbD 0)
            migrations := movesBut s (firstPage e a) ++ [⟨s.team.ten, 4096 * firstPage e a, g.1 * 512 + g.2, false⟩] } 0)) ∧
  (∀ (s : State) ten va target e, s.walk ten va = .leaf e → Movable e → e / 2 ^ 55 % 32 = ten →
    (let room (t : Nat) : Bool := targetOk t && s.hasRoom (t / 512) (t % 512) (pageUnits (e / 2 ^ 60 % 8))
     (∀ m, s.migrations.find? (fun m => m.ten == ten && m.va == 4096 * firstPage e va) = some m → exec (.pageMigrationStart ten va target) s =
       .next (if room m.target then { s with migrations := s.migrations.map fun x => if x = m then { x with copying := true } else x } else s)) ∧
     (s.migrations.find? (fun m => m.ten == ten && m.va == 4096 * firstPage e va) = none →
       exec (.pageMigrationStart ten va target) s = .next (if (ten, firstPage e va) ∈ s.pinned ∨ room target = false then s
         else { s with migrations := s.migrations ++ [⟨ten, 4096 * firstPage e va, target, true⟩] })))) ∧
  (∀ (s : State) ten va frame e m x tbl, s.walk ten va = .leaf e →
    s.migrations.find? (fun m => m.ten == ten && m.va == va && m.copying) = some m → targetOk m.target = true →
    s.hasRoom (m.target / 512) (m.target % 512) 1 = true → Movable e → e / 2 ^ 60 % 8 = 0 → e < 2 ^ 64 →
    frame < 2 ^ 32 → s.tenantOf? ten = some x → s.tableAt va 4 4 x.root = some tbl →
    (let idx := va / 2 ^ 12 % 512
     let old := e / 2 ^ 12 % 2 ^ 32
     let l : Loc := ⟨.mem false false, tbl + 8 * idx⟩
     frame ≠ old → (l.a + 8 ≤ 4096 * frame ∨ 4096 * (frame + 1) ≤ l.a) →
     ∃ t, exec (.pageMigrationSwitch ten va frame) s = .next t ∧
       (∀ k, k < 4096 → t.rdB ⟨.mem false false, 4096 * frame + k⟩ = s.rdB ⟨.mem false false, 4096 * old + k⟩) ∧
       (let e' := t.rdN l 8
        e' / 2 ^ 12 % 2 ^ 32 = frame ∧ e' / 2 ^ 44 % 2 ^ 11 = m.target ∧ bitOf e' 6 = decide (m.target / 512 = 2) ∧
          e' % 2 ^ 6 = e % 2 ^ 6 ∧ e' / 2 ^ 7 % 2 ^ 5 = e / 2 ^ 7 % 2 ^ 5 ∧ e' / 2 ^ 55 = e / 2 ^ 55) ∧
       (∀ a, (a < 4096 * frame ∨ 4096 * (frame + 1) ≤ a) → (a < l.a ∨ l.a + 8 ≤ a) → t.rdB ⟨.mem false false, a⟩ = s.rdB ⟨.mem false false, a⟩) ∧
       t.migrations = s.migrations.filter (fun y => !(y.ten == ten && y.va == va)) ∧
       t.pend = s.pend.map (fun p => { p with lanes := p.lanes.map fun y => { y with loc := moved old frame y.loc } }) ∧
       t.queries = s.queries.map (fun q => { q with lanes := q.lanes.map fun y => { y with src := y.src.map (moved old frame) } }) ∧
       t.lines = s.lines.map (fun w => { w with locs := w.locs.map (moved old frame) }) ∧
       t.installs = s.installs.map (fun y => { y with record := moved old frame y.record }) ∧
       t.images.map (fun i => i.installs) = s.images.map (fun i => i.installs.map fun y => { y with record := moved old frame y.record }) ∧
       { t with mem := s.mem, fill := s.fill, migrations := s.migrations, placed := s.placed, pend := s.pend, queries := s.queries
                jobs := s.jobs, installs := s.installs, debts := s.debts, lines := s.lines, items := s.items, away := s.away
                rjobs := s.rjobs } = s))

/-! ## Scheduler and fault events (R261 to R277, R282 to R286, R291 to R296, R356) -/

namespace Sys2Proof.Claims

/-- A wait a request ends (R146, R262): the split stops, naming everything, and keeps the wait it stood in, BAR's phase with
it; a NAP is over. -/
def cutShort (x : Split) : Split :=
  let stop (r : Wait) : Split := { x with wait := .yielded, named := none, resume := r }
  match x.wait with
  | .bar b p n => stop (.bar b p n)
  | .join j => stop (.join j)
  | .barw b p n => stop (.barw b p n)
  | .await n nx => stop (.await n nx)
  | .cwait a v c nx => stop (.cwait a v c nx)
  | .nap _ => stop .none
  | _ => x

/-- The reason of a request holds (R73, R83, R273, R291, R307): a Bivouac entry, a checkpoint of its job, its launch's cancellation, its
own charge risen on a column whose usable bandwidth is below the floor. A privileged command is its own reason. -/
def Reason (s : State) (x : Team) : Why → Prop
  | .bivouac => s.biv.phase = 1
  | .checkpoint => ∃ j, s.rjob? x.ten (s.launchOf x.ten x.launch).job = some j ∧ j.progress ≠ none
  | .cancel => (s.launchOf x.ten x.launch).cancelled = true
  | .migration => x.ended = false ∧ x.stopped = false ∧ x.col < 512 ∧ x.risen = true ∧ lacks s x.col = true
  | .command => True

/-- A team the machine holds once. -/
def Only (s : State) (x : Team) : Prop := x ∈ s.teams ∧ ∀ y ∈ s.teams, y.uid = x.uid → y = x

/-- A team that has stopped as asked, ready to be saved (R293). -/
def Savable (s : State) (x : Team) : Prop :=
  Only s x ∧ x.ended = false ∧ x.stopped = false ∧ x.requests ≠ [] ∧ s.teamStopped x.uid = true

end Sys2Proof.Claims

/-- R73, R262, R273, R277, R291, R294, R296, R307: A request whose reason holds reaches every split of its team: one that
waits at a yield check stops there, others go on to their next. One whose reason does not hold reaches none. A stopped
team is saved as its requests say: cancelled, its groups and itself end; asked for a checkpoint or Bivouac, its image
joins the checkpoint in progress and it stays stopped; else it leaves its column, its slots and banks held by nobody,
its commands to be placed anew, and its image is queued, sticky, with its record's push time, on its die or the one a
command names. Its bytes go to the tenant's image area, at the lowest place from its base on where nothing the area
holds stands. A save waits until the accesses and pieces that passed the window checks have landed. (That the image
takes its record's level, whatever an earlier image's item rose to, is log entry 87.) (Where an image's bytes stand,
and that a tenant with no image area has none written, is log entry 7, the die a migrating team goes to log entry 47.) -/
def Obligations.Preemption : Prop :=
  (∀ s x why, Only s x → ¬Reason s x why → exec (.preemptionRequest x.uid why) s = .next s) ∧
  (∀ s x why, Only s x → x.ended = false → Reason s x why → why ∉ x.requests → ∃ t, exec (.preemptionRequest x.uid why) s = .next t ∧
    { t with teams := s.teams, groups := s.groups } = s ∧
    t.teams = s.teams.map (fun y => if y.uid = x.uid then { y with requests := y.requests ++ [why] } else y) ∧
    (∀ g, (s.grpAt g).team ≠ x.uid → t.grpAt g = s.grpAt g) ∧
    (∀ g, g < s.groups.length → (s.grpAt g).team = x.uid →
      t.grpAt g = { s.grpAt g with s0 := cutShort (s.grpAt g).s0, s1 := cutShort (s.grpAt g).s1 })) ∧
  (∀ s x, Savable s x →
    (.cancel ∈ x.requests → ∃ t, exec (.teamSave x.uid) s = .next t ∧
      ∀ g, g < s.groups.length → (s.grpAt g).team = x.uid → (t.grpAt g).ended = true) ∧
    (.cancel ∉ x.requests → s.windowsQuiet x.uid = false → exec (.teamSave x.uid) s = .next s) ∧
    (∀ j c, s.windowsQuiet x.uid = true → .cancel ∉ x.requests → (.checkpoint ∈ x.requests ∨ .bivouac ∈ x.requests) →
      s.rjob? x.ten (s.launchOf x.ten x.launch).job = some j → j.progress = some c → ∃ t i, exec (.teamSave x.uid) s = .next t ∧
        t.rjob? x.ten (s.launchOf x.ten x.launch).job = some { j with progress := some { c with images := c.images ++ [i] } } ∧
        (t.teamOf x.uid).stopped = true ∧ i.team = x ∧ (t.teamOf x.uid).col = x.col ∧ (t.teamOf x.uid).requests = x.requests ∧
        t.jobs = s.jobs.map (fun y => if y.locs.any (s.onTeam x.uid) then { y with stale := true } else y) ∧
        { t with groups := s.groups, teams := s.teams, columns := s.columns, sram := s.sram, posts := s.posts, rjobs := s.rjobs
                 jobs := s.jobs } = s) ∧
    (s.windowsQuiet x.uid = true → .cancel ∉ x.requests → .checkpoint ∉ x.requests → .bivouac ∉ x.requests → ∃ t i die, exec (.teamSave x.uid) s = .next t ∧
      t.items = s.items ++ [{ id := s.nextId, die := s.liveDie die, ten := x.ten, launch := x.launch, prio := x.prio, pushTime := x.pushTime
                              queuedAt := s.clock, aged := 0, passes := 64, work := .image i }] ∧
      (∀ d, x.dest = some d → die = d) ∧ (x.dest = none → .migration ∉ x.requests → die = x.col / 64) ∧
      (x.dest = none → .migration ∈ x.requests → (∃ d, d < 8 ∧ d ≠ x.col / 64 ∧ s.boot.fail.getLsbD d = false) →
        die < 8 ∧ die ≠ x.col / 64 ∧ s.boot.fail.getLsbD die = false) ∧
      i.team.uid = x.uid ∧ (∀ n, n ∈ i.slotNos ↔ (n, x.uid + 1) ∈ (s.col x.col).slotHeld) ∧
      (∀ n, n ∈ i.bankNos ↔ (n, x.uid + 1) ∈ (s.col x.col).bankHeld) ∧
      (∀ n, n ∈ i.fp6 ↔ n ∈ (s.col x.col).fp6 ∧ (n, x.uid + 1) ∈ (s.col x.col).slotHeld) ∧
      (∀ n, (n, x.uid + 1) ∉ (t.col x.col).slotHeld ∧ (n, x.uid + 1) ∉ (t.col x.col).bankHeld) ∧
      (t.teamOf x.uid).stopped = true ∧ (t.teamOf x.uid).requests = [] ∧ (∀ j ∈ t.jobs, j.team = x.uid → j.stale = true) ∧
      (t.jobs.map fun j => { j with stale := false }) = (s.jobs.map fun j => { j with stale := false }) ∧
      ((∀ y, s.tenantOf? x.ten = some y → y.imageArea = 0) → i.place = none ∧ t.mem = s.mem ∧ t.fill = s.fill) ∧
      (∀ y, s.tenantOf? x.ten = some y → y.imageArea ≠ 0 →
        let bs := Config.imageBytes 0 x.uid
        let clear (p : Nat) : Prop := ∀ z ∈ s.areaTaken x.ten, p + bs.length ≤ z.1 ∨ z.1 + z.2 ≤ p
        ∃ p, i.place = some p ∧ y.imageArea ≤ p ∧ clear p ∧ (∀ q, y.imageArea ≤ q → q < p → ¬clear q) ∧
          (∀ k, k < bs.length → t.rdB ⟨.mem false true, p + k⟩ = bs.getD k 0) ∧
          ∀ ix dur a, (a < p ∨ p + bs.length ≤ a) → t.rdB ⟨.mem ix dur, a⟩ = s.rdB ⟨.mem ix dur, a⟩) ∧
      { t with groups := s.groups, teams := s.teams, columns := s.columns, sram := s.sram, posts := s.posts, items := s.items, nextId := s.nextId
               jobs := s.jobs, mem := s.mem, fill := s.fill, freeCtr := s.freeCtr } = s))

namespace Sys2Proof.Claims

/-- An item waits while its job takes a checkpoint or goes back to one (R307, R312). -/
def jobHolds (s : State) (i : Item) : Bool :=
  (s.rjob? i.ten (s.launchOf i.ten i.launch).job).any fun j => j.progress.isSome || j.rolling || j.container.isSome

/-- A tenant's sequence on a die (R274): its items there that do not wait, the higher level first, among equals the earlier push, then number. -/
def InSequence (s : State) (die ten : Nat) (q : List Item) : Prop :=
  q.Perm (s.items.filter fun i => i.die == die && i.ten == ten && !jobHolds s i) ∧
    q.Pairwise fun x y => y.prio ≤ x.prio ∧ (x.prio = y.prio → x.pushTime ≤ y.pushTime ∧ (x.pushTime = y.pushTime → x.id ≤ y.id))

/-- What may be looked at: the head and the eight behind it, or the head alone once it is sticky (R275). -/
def looked (q : List Item) : List Item := match q with
  | [] => []
  | h :: r => if 64 ≤ h.passes then [h] else h :: r.take 8

end Sys2Proof.Claims

/-- R73, R274, R275: A die takes, of a tenant's sequence, the first item looked at that fits one of its columns, and
passes over those before it. Among the columns of a die an item fits, it takes the one of greatest usable bandwidth,
the lowest among equals; dispatching a record starts its team there, its groups at its code in distinct free slots
with every lane live, takes the item off the sequence and gives those before it a pass; dispatching an image runs its
team again there. Each die counts its tenants' dispatches of its own round, and begins the next once no tenant that
could dispatch there has a turn left. (Log entries 14 and 40 for the numbers it takes and the rounds of weights.) -/
def Obligations.Dispatching : Prop :=
  (∀ (s : State) die ten, ∃ q, InSequence s die ten q ∧ s.sequence die ten = q ∧
    (∀ it col skipped, s.choice die ten = some (it, col, skipped) → ∃ k, (looked q)[k]? = some it ∧ s.placeOn it die = some col ∧
      (∀ y, y ∈ skipped ↔ y ∈ q.take k) ∧ ∀ y ∈ q.take k, s.placeOn y die = none) ∧
    (s.choice die ten = none → ∀ y ∈ looked q, s.placeOn y die = none)) ∧
  (∀ (s : State) it die col, s.placeOn it die = some col → col / 64 = die ∧ s.fits it col = true ∧ ∀ c, c / 64 = die → s.fits it c = true →
    s.usable c (s.need it).heat < s.usable col (s.need it).heat ∨ (s.usable c (s.need it).heat = s.usable col (s.need it).heat ∧ col ≤ c)) ∧
  (∀ (s : State) it die, s.placeOn it die = none → ∀ c, c / 64 = die → s.fits it c = false) ∧
  (∀ (s : State) die (x : Tenant) (it : Item) col skipped bytes team, s.biv.phase = 0 → s.choice die x.n = some (it, col, skipped) →
    s.tenantOf? x.n = some x → Map.get 0 x.spent die < x.weight → it.work = .record bytes team →
    let r := TaskRec.ofNat bytes
    let n := r.flags / 4 % 16 + 1
    n ≤ (s.freeSlots col n).length →
    ∃ t y, exec (.dispatch die x.n) s = .next t ∧ t.teams = s.teams ++ [y] ∧ y.uid = s.nextId ∧ y.ten = it.ten ∧ y.launch = it.launch ∧ y.id = team ∧
      y.col = col ∧ y.ngroups = n ∧ y.vregs = 8 * (r.flags / 64 % 32 + 1) ∧ y.frame = .ofNat 64 r.frame ∧ y.parent = .ofNat 64 r.parent ∧ y.ended = false ∧ y.handles = [] ∧
      t.groups.length = s.groups.length + n ∧ (∀ g, g < s.groups.length → t.grpAt g = s.grpAt g) ∧
      (∀ k, k < n → (t.grpAt (s.groups.length + k)).team = s.nextId ∧ (t.grpAt (s.groups.length + k)).gid = k ∧
        (t.grpAt (s.groups.length + k)).slot < 32 ∧ (t.grpAt (s.groups.length + k)).slot ∉ s.slotsUsed col ∧
        (∀ m, m < k → (t.grpAt (s.groups.length + m)).slot ≠ (t.grpAt (s.groups.length + k)).slot) ∧ (t.grpAt (s.groups.length + k)).s0.live = true ∧
        (t.grpAt (s.groups.length + k)).s0.pc = .ofNat 64 r.code ∧ (t.grpAt (s.groups.length + k)).s1.live = false ∧
        (∀ r, (t.grpAt (s.groups.length + k)).rdS r = 0) ∧
        ∀ l, l < (s.launchOf it.ten it.launch).width → l < 128 → (t.grpAt (s.groups.length + k)).lanes.getLsbD l = true) ∧
      t.items = (s.items.filter fun i => i.id != it.id).map (fun i => if skipped.any fun k => k.id == i.id then { i with passes := i.passes + 1 } else i) ∧
      (∃ y, t.tenantOf? x.n = some y ∧ Map.get 0 y.spent die = Map.get 0 x.spent die + 1 ∧ ∀ d, d ≠ die → Map.get 0 y.spent d = Map.get 0 x.spent d) ∧
      { t with teams := s.teams, groups := s.groups, nextId := s.nextId, items := s.items, tenants := s.tenants, fill := s.fill } = s) ∧
  (∀ (s : State) die (x : Tenant) (it : Item) col skipped i, s.biv.phase = 0 → s.choice die x.n = some (it, col, skipped) → s.tenantOf? x.n = some x → Map.get 0 x.spent die < x.weight →
    it.work = .image i → Only s (s.teamOf i.team.uid) → (s.teamOf i.team.uid).uid = i.team.uid →
    ∃ t, exec (.dispatch die x.n) s = .next t ∧ (t.teamOf i.team.uid).stopped = false ∧ (t.teamOf i.team.uid).col = col ∧
      (∀ k ∈ t.items, k.id ≠ it.id) ∧ (∀ g, (s.grpAt g).team ≠ i.team.uid → t.grpAt g = s.grpAt g)) ∧
  (∀ (s : State) die (x : Tenant) it col skipped, s.biv.phase = 0 → s.choice die x.n = some (it, col, skipped) → s.tenantOf? x.n = some x →
    (∀ y ∈ s.tenants, s.choice die y.n ≠ none → y.weight ≤ Map.get 0 y.spent die) →
    ∃ t, exec (.dispatch die x.n) s = .next t ∧ ∀ y ∈ t.tenants, Map.get 0 y.spent die = if y.n = x.n then 1 else 0)

namespace Sys2Proof.Claims

/-- The count of a join, at its place, less 1. -/
def counted (s : State) (j : JoinWait) (p : Loc) : State :=
  s.homeWrite j.ten (s.launchOf j.ten j.launch).job p 4 (s.rdN p 4 - 1)

/-- Joins under way without the k-th. -/
def withoutJoin (s : State) (k : Nat) : State := { s with joinWaits := s.joinWaits.eraseIdx k }

/-- The k-th join is a completed record's, not yet counted, no access of its team under way. -/
def JoinsNow (s : State) (k : Nat) (j : JoinWait) : Prop :=
  s.joinWaits[k]? = some j ∧ j.page = none ∧ j.pushing = false ∧ j.tjoin = false ∧ j.who = none ∧
    ∀ g, g < s.groups.length → (s.grpAt g).team = j.uid → s.inFlight g = false

/-- Its PARENT is an address TJOIN takes, on path 0x0 or 0x1 (R269), and where in the tenant's space it is. -/
def parentAt (j : JoinWait) : Nat := j.addr.toNat % 2 ^ 60
def ParentOk (j : JoinWait) : Prop := j.addr ≠ 0 ∧ path j.addr ≤ 1 ∧ parentAt j < 2 ^ 48 ∧ parentAt j % 32 = 0

/-- And its parent's count is readable at `p`. -/
def Joins (s : State) (k : Nat) (j : JoinWait) (p : Loc) : Prop :=
  JoinsNow s k j ∧ ParentOk j ∧ s.devAccess j.ten (.ofNat 64 (parentAt j + 16)) 4 = .ok p

/-- The record of a join is over. -/
abbrev overWith (s : State) (j : JoinWait) : State := s.finishRecord j.ten j.launch j.team j.counts

end Sys2Proof.Claims

/-- R77, R264 to R268, R271, R274, R276, R356: An item that has waited longer than its next threshold rises one level, up
to 3; a die that has no room for the head of a sequence longer than the migration depth sends one item to a die that
advertises, a sticky one first, else the tail, or to a peer, where its launch spans modules, the tenant pairs with the
peer and a route leads there. The next initial record of a launch enters its queue while more than 64 places are free,
numbered in order, its frame one stride on; a completed record's join waits for every access of its team, takes 1 from
its parent's count, and pushes the parent where that was the last; a fault of it posts a device record; the launch
counts the record complete, and completes, once, when nothing of it is outstanding. SUBGO begins a submission while
the module runs, and is dropped and counted before; acceptance, once what it reads of flash is in the staging cache,
ends it with the new launch's id, not zero and held by no launch of the tenant, its first initial records in the
queue, up to 64 places of it left, or with a status and nothing new. (Which next LAUNCHID is log entry 93, that the
address fields are of path 0x0 log entry 34.) (Work at peers is log entry 62; places of the queue area, and the die of
a record, are log entry 14.) -/
def Obligations.LaunchRecords : Prop :=
  (∀ (s : State) k, exec (.itemAging k) s = .next { s with items := s.items.map fun i =>
    if i.id = k ∧ i.prio < 3 ∧ s.set.aging * (i.aged + 1) < s.clock - i.queuedAt then { i with prio := i.prio + 1, aged := i.aged + 1 } else i }) ∧
  (∀ s die ten dest h q x, s.sequence die ten = h :: q → dest ≠ die → dest < 8 → s.boot.fail.getLsbD dest = false → s.advertises dest = true → s.noRoom h die = true →
    s.set.depth < q.length + 1 →
    ((((h :: q).filter fun i => 64 ≤ i.passes) = [] ∧ (h :: q).getLast? = some x) ∨ ((h :: q).filter fun i => 64 ≤ i.passes).getLast? = some x) →
    exec (.workMigration die ten dest) s = .next { s with items := s.items.map fun y => if y.id = x.id then { y with die := dest } else y }) ∧
  (∀ (s : State) die ten p h q x, s.sequence die ten = h :: q → s.noRoom h die = true → s.set.depth < q.length + 1 →
    (let may := (h :: q).filter fun i => (s.launchOf ten i.launch).span && (s.launchOf ten i.launch).guest.isNone && p != s.set.devId &&
       s.routes.contains p && s.pairs.any fun y => y.1 == ten && y.2.1 == p
     (may = [] → exec (.workMigration die ten (8 + p)) s = .next s) ∧
     (((may.filter fun i => 64 ≤ i.passes) = [] ∧ may.getLast? = some x) ∨ (may.filter fun i => 64 ≤ i.passes).getLast? = some x →
       exec (.workMigration die ten (8 + p)) s = .next { s with
         items := s.items.filter fun y => y.id != x.id, away := s.away ++ [(p, x)]
         nextId := s.nextId + 1
         remote := s.remote ++ [{ peer := p, addr := 0, op := .work (x.mapImage fun i => s.sentImage (s.imageNow i)), resent := !s.reaches p, who := .nobody
                                  grp := 0, sp := 0, pc := 0, batch := 0, id := s.nextId }] }))) ∧
  (∀ s die ten dest, (s.sequence die ten).length ≤ s.set.depth → exec (.workMigration die ten dest) s = .next s) ∧
  (∀ s k l, s.launches[k]? = some l → s.launchOf l.ten l.id = l → l.cancelled = false → l.next < l.nteams → s.queueLen l.ten l.id + 64 < l.rqcap →
    (let bytes := initialBytes l l.next
     l.prio < 4 → ∃ t, exec (.initialRecordWrite k) s = .next t ∧
       t.items = s.items ++ [{ id := s.nextId, die := s.liveDie l.die, ten := l.ten, launch := l.id, prio := l.prio, pushTime := s.clock, queuedAt := s.clock
                               aged := 0, passes := 0, work := .record bytes l.next }] ∧
       t.launches = s.launches.map (fun x => if x.ten = l.ten ∧ x.id = l.id then { l with next := l.next + 1, enq := l.enq + 1 } else x) ∧
       t.mem = (s.virtWrite l.ten none (l.rqbase.toNat + 32 * (l.enq % l.rqcap)) 32 bytes).mem ∧
       { t with items := s.items, launches := s.launches, nextId := s.nextId, mem := s.mem, fill := s.fill, dirs := s.dirs } = s)) ∧
  (∀ s k l, s.launches[k]? = some l → s.launchOf l.ten l.id = l → (l.cancelled = true ∨ l.nteams ≤ l.next ∨ l.rqcap ≤ s.queueLen l.ten l.id + 64) →
    exec (.initialRecordWrite k) s = .next s) ∧
  (∀ s k j, s.joinWaits[k]? = some j → j.tjoin = false → (∃ g, g < s.groups.length ∧ (s.grpAt g).team = j.uid ∧ s.inFlight g = true) →
    exec (.parentJoinPush k) s = .next s) ∧
  (∀ s k j, JoinsNow s k j →
    (let fails (c : Nat) : Prop := exec (.parentJoinPush k) s = .next (overWith (withoutJoin (s.postDev j.ten j.launch j.team j.addr c) k) j)
     (j.addr = 0 → exec (.parentJoinPush k) s = .next (overWith (withoutJoin s k) j)) ∧
     (path j.addr ∈ [2, 3, 4, 5, 15] → fails 0x11) ∧ ((6 ≤ path j.addr ∧ path j.addr < 15) ∨ (path j.addr ≤ 1 ∧ 2 ^ 48 ≤ parentAt j) → fails 0x12) ∧
     (j.addr ≠ 0 → path j.addr ≤ 1 → parentAt j < 2 ^ 48 → parentAt j % 32 ≠ 0 → fails 0x13) ∧
     ∀ f, ParentOk j → s.devAccess j.ten (.ofNat 64 (parentAt j + 16)) 4 = .flt f → fails f.code)) ∧
  (∀ s k j p, Joins s k j p →
    (let l := s.launchOf j.ten j.launch
     (s.rdN p 4 = 0 → exec (.parentJoinPush k) s = .next (overWith (withoutJoin s k) j)) ∧
     ((2 ≤ s.rdN p 4 ∨ (s.rdN p 4 = 1 ∧ l.cancelled = true)) → exec (.parentJoinPush k) s = .next (overWith (withoutJoin (counted s j p) k) j)) ∧
     (s.rdN p 4 = 1 → l.cancelled = false → s.queueLen j.ten j.launch < l.rqcap → ∃ t s', exec (.parentJoinPush k) s = .next t ∧
       Pushed (withoutJoin (counted s j p) k) s' l
         (TaskRec.ofNat (((withoutJoin (counted s j p) k).virtRead? j.ten (parentAt j) 32).getD 0)) j.die ∧ t = overWith s' j))) ∧
  (∀ (s : State) (j : JoinWait) (l : Launch), s.launchOf j.ten j.launch = l → (∃ y ∈ s.launches, y.ten = j.ten ∧ y.id = j.launch) → l.guest = none →
    (∀ y ∈ s.arrivals, ¬(y.2.ten = j.ten ∧ y.2.launch = j.launch)) →
    (let l' := if j.counts then { l with completed := l.completed + 1 } else l
     let s' := if j.counts then s.setLaunch l' else s
     (l.complete = true ∨ s'.outstanding l' ≠ 0 → overWith s j = s') ∧
     (l.complete = false → s'.outstanding l' = 0 → l.done = 0 → overWith s j = s'.setLaunch { l' with complete := true }) ∧
     (∀ a p, l.complete = false → s'.outstanding l' = 0 → doneAddr l.done = some a → s.devAccess l.ten a 8 = .ok p →
       (overWith s j).rdN p 8 = (s.rdN p 8 + 1) % 2 ^ 64))) ∧
  (∀ s port, Reaches s port →
    (s.boot.brstate = 5 → exec (.subgo port) s = .next (s.setPort port { s.port port with subBusy := true })) ∧
    (s.boot.brstate ≠ 5 → exec (.subgo port) s = .next (refused s port))) ∧
  (∀ s port x, (s.port port).subBusy = true →
    (let a := (s.port port).subaddr.toNat
     let place := a % 2 ^ 60
     let ten := (s.port port).subten.toNat
     let ends (s' : State) (v : Word) : Prop := exec (.launchAccept port) s = .next (s'.setPort port { s.port port with subBusy := false, subres := v })
     let fetches (ls : List Loc) : Prop := ∃ fl, exec (.launchAccept port) s = .next { s with filling := fl } ∧ Fetches s fl ls
     let many : Prop := 4096 ≤ (s.launches.filter fun y => y.ten == ten && !y.complete).length
     a / 2 ^ 60 ≤ 1 → place / 2 ^ 48 = 0 → a % 64 = 0 → ten < 32 → s.tenantOf? ten = some x →
     (s.virtMiss ten place 128 ≠ [] → fetches (s.virtMiss ten place 128)) ∧
     (s.virtMiss ten place 128 = [] → s.virtRead? ten place 128 = none → ends s (.ofNat 64 (2 ^ 32))) ∧
     ∀ d, s.virtMiss ten place 128 = [] → s.virtRead? ten place 128 = some d →
       (let missing := bankMissing s ten (descField d 8 8)
        let image := s.virtRead? ten (descField d 8 8) 2048
        (¬DescriptorOk d → ends s (.ofNat 64 (2 ^ 32))) ∧ (DescriptorOk d → missing ≠ [] → fetches missing) ∧
        (DescriptorOk d → missing = [] → image = none → ends s (.ofNat 64 (2 ^ 32))) ∧
        ∀ n, DescriptorOk d → missing = [] → image = some n →
          (levelCancelled x d → ends s (.ofNat 64 (4 * 2 ^ 32))) ∧ (¬levelCancelled x d → many → ends s (.ofNat 64 (3 * 2 ^ 32))) ∧
          (¬levelCancelled x d → ¬many → s.launches.length < 2 ^ 31 → ∃ s' l, ends s' (.ofNat 64 l.id) ∧ Described d n ten 0 l ∧ Accepted s s' x l)))) ∧
  (∀ s port, (s.port port).subBusy = true → (s.port port).subaddr.toNat % 64 ≠ 0 → exec (.launchAccept port) s =
    .next (s.setPort port { s.port port with subBusy := false, subres := .ofNat 64 (2 ^ 32) }))

namespace Sys2Proof.Claims

/-- A split is inside an instruction it has issued, which the stop of its group lets complete (R280). -/
def Inside (x : Split) : Prop :=
  x.live = true ∧ x.fault = none ∧ (x.wait = .drain ∨ x.wait = .retry ∨ (∃ u c b n, x.wait = .fence u c b n) ∨ (∃ gs, x.wait = .fill gs) ∨
    ∃ t p f d, x.wait = .answer t p f d)

/-- The stop of a record's group is whole. -/
def StopWhole (s : State) (r : FRec) : Prop :=
  ∀ g, r.grp = some g → (s.grpAt g).stopped = true → ¬Inside (s.grpAt g).s0 ∧ ¬Inside (s.grpAt g).s1

/-- A record under the LAUNCHID its launch is known by. -/
def knownAs (s : State) (r : FRec) : FRec := { r with launch := s.launchNo r.ten r.launch }

end Sys2Proof.Claims

namespace Sys2Proof.Claims

/-- A wait at a yield check that knows the address after it. -/
def Onward (w : Wait) (n : Word) : Prop :=
  (∃ b p, w = .bar b p n) ∨ (∃ b p, w = .barw b p n) ∨ (∃ k, w = .await k n) ∨ ∃ a v c, w = .cwait a v c n

/-- A split resumed by an action at its stopped place (R286). -/
def resumed (x : Split) (act : Nat) (pcN : Word) (next : Word → Word) (tick : Nat) (y : Split) : Prop :=
  (x.live = false → y = x) ∧
    (x.live = true →
      (act = 2 → y.pc = pcN ∧ y.wait = .none ∧ y.fault = none) ∧
      (∀ pc c, act = 0 → x.fault = some (pc, c) → y.pc = pc ∧ y.wait = .none ∧ y.fault = none) ∧
      (act = 0 → x.fault = none → y = { x with since := tick + 1 }) ∧
      (∀ pc c, act = 1 → x.fault = some (pc, c) → y.pc = next pc ∧ y.wait = .none ∧ y.fault = none) ∧
      (∀ j, act = 1 → x.fault = none → x.wait = .join j → y.pc = next x.pc ∧ y.wait = .none) ∧
      (∀ n, act = 1 → x.fault = none → Onward x.wait n → y.pc = n ∧ y.wait = .none) ∧
      (∀ n, act = 1 → x.fault = none → x.wait = .nap n → y.pc = x.pc ∧ y.wait = .none) ∧
      (act = 1 → x.fault = none → x.wait = .yielded → x.resume = .none → y = { x with since := tick + 1 }) ∧
      (∀ j, act = 1 → x.fault = none → x.wait = .yielded → x.resume = .join j → y = { x with pc := next x.pc, resume := .none, denied := none }) ∧
      (∀ n, act = 1 → x.fault = none → x.wait = .yielded → Onward x.resume n → y = { x with pc := n, resume := .none, denied := none }) ∧
      (act = 1 → x.fault = none → (x.wait = .none ∨ x.wait = .drain ∨ (∃ u c b n, x.wait = .fence u c b n) ∨ x.wait = .retry ∨ (∃ gs, x.wait = .fill gs) ∨
        x.wait = .push ∨ (∃ d v n cs, x.wait = .peers d v n cs) ∨ (∃ t p f, x.wait = .fetching t p f) ∨ ∃ t p f d, x.wait = .answer t p f d) →
        y = { x with since := tick + 1 }))

end Sys2Proof.Claims

/-- R280, R282, R283, R285, R286: The first waiting record of a launch is posted, once its group's other split has
completed the instruction it was inside (log entry 88): into its queue at the place TAIL names, TAIL then one higher
and the host signalled, unless the queue is full, when it waits; to the tenant's host queue where there is none, or,
marked, where its header is bad. The stopped group learns the record's SEQ. GO answers 1 for no such group, 2 for one
not stopped or another SEQ, 3 for a bad address of action 2, 4 for action 0 or 1 after 0x30 or 0x31, 5 for a reserved
bit, and changes nothing then; else 0: action 3 ends the team and takes an image of it from its queue, and with
actions 0 to 2 both splits go on together, one that waits at a yield check, or was stopped for pre-emption out of one,
past it under action 1. Before the module runs the command is dropped and counted at its port. A team whose image is
at a peer is found there, not here (R276). (Which of several groups GO finds, and status 4, are log entry 35.) -/
def Obligations.FaultReports : Prop :=
  ((∀ s k r, s.posts[k]? = some r → ¬StopWhole s r → exec (.faultRecordPost k) s = .next s) ∧
  ∀ s k r, s.posts[k]? = some r → (∀ x ∈ s.posts.take k, ¬(x.ten = r.ten ∧ x.launch = r.launch)) → StopWhole s r →
    let q := (s.launchOf r.ten r.launch).faultq
    let out : State := { s with posts := s.posts.eraseIdx k }
    let noted (s' : State) (n : Nat) : State := match r.grp with
      | some g => if (s'.grpAt g).stopped then s'.setGrpAt g { s'.grpAt g with seq := some n } else s'
      | none => s'
    let host (bad : Bool) : Prop := ∀ x, s.tenantOf? r.ten = some x → exec (.faultRecordPost k) s = .next (noted
      { out.setTenant { x with hostSeq := x.hostSeq + 1 } with
        hostq := (r.ten, x.hostSeq, bad, knownAs s r) :: s.hostq, told := .faultSignal r.ten :: s.told } x.hostSeq)
    (q = 0 → host false) ∧
    (q ≠ 0 → s.queueHeader r.ten q = none → host true) ∧
    (∀ h n cap, q ≠ 0 → s.queueHeader r.ten q = some (h, n, cap) →
      (cap ≤ (n + 2 ^ 64 - h) % 2 ^ 64 → exec (.faultRecordPost k) s = .next s) ∧
      ((n + 2 ^ 64 - h) % 2 ^ 64 < cap → ∃ s', exec (.faultRecordPost k) s = .next (noted { s' with told := .faultSignal r.ten :: s.told } n) ∧
        s' = (out.virtWrite r.ten none (q.toNat + 64 + 64 * (n % cap)) 64 (leNat ((knownAs s r).bytes n))).virtWrite r.ten none (q.toNat + 8) 8 ((n + 1) % 2 ^ 64) ∧
        { s' with mem := s.mem, fill := s.fill, dirs := s.dirs, posts := s.posts } = s))) ∧
  ((∀ s port, Reaches s port → s.gctl.port = port → s.boot.brstate ≠ 5 → exec .groupControlGo s = .next (refused s port)) ∧
  ∀ (s : State), Commands s s.gctl.port →
    let c := s.gctl
    let a0 := c.act.toNat % 4
    let a1 := c.act.toNat / 256 % 4
    let tells (n : Nat) : Prop := exec .groupControlGo s = .next { s with gctl := { s.gctl with status := n } }
    let named (i : Nat) : Prop := i < s.groups.length ∧ (s.grpAt i).gid = c.gsel.toNat % 16 ∧
      (let x := s.teamOf (s.grpAt i).team
       x.ended = false ∧ s.isAway x.uid = false ∧ s.launchNo x.ten x.launch = c.target.toNat / 2 ^ 32 ∧ x.id = c.target.toNat % 2 ^ 32)
    ((∀ i, ¬named i) → tells 1) ∧ (∀ i, s.gctlGroup? = some i → named i ∧ ∀ k, k < i → ¬named k) ∧
    ∀ i, s.gctlGroup? = some i →
      let g := s.grpAt i
      let badPc : Prop := (g.s0.live = true ∧ a0 = 2 ∧ ¬PcOk c.pc0) ∨ (g.s1.live = true ∧ a1 = 2 ∧ ¬PcOk c.pc1)
      let after30 (x : Split) (a : Nat) : Prop := x.live = true ∧ a < 2 ∧ ∃ pc k, x.fault = some (pc, k) ∧ (k = 0x30 ∨ k = 0x31)
      let bad30 : Prop := after30 g.s0 a0 ∨ after30 g.s1 a1
      let extra : Prop := c.gsel.toNat / 16 ≠ 0 ∨ c.act &&& ~~~0x303#64 ≠ 0
      let latest : Prop := g.stopped = true ∧ g.seq = some c.seq.toNat
      (¬latest → tells 2) ∧ (latest → badPc → tells 3) ∧ (latest → ¬badPc → bad30 → tells 4) ∧
      (latest → ¬badPc → ¬bad30 → extra → tells 5) ∧
      (latest → ¬badPc → ¬bad30 → ¬extra → i < s.groups.length →
        (((g.s0.live = true ∧ a0 = 3) ∨ (g.s1.live = true ∧ a1 = 3)) → ∃ t, exec .groupControlGo s = .next t ∧ t.gctl.status = 0 ∧
          (∀ it ∈ t.items, ∀ m, it.image? = some m → m.team.uid ≠ g.team) ∧ ∀ k, k < s.groups.length → (s.grpAt k).team = g.team → (t.grpAt k).ended = true) ∧
        (¬(g.s0.live = true ∧ a0 = 3) → ¬(g.s1.live = true ∧ a1 = 3) → ∃ t, exec .groupControlGo s = .next t ∧
          t.gctl = { s.gctl with status := 0 } ∧ { t with gctl := s.gctl, groups := s.groups, joinWaits := s.joinWaits, remote := s.remote } = s ∧ (∀ k, k ≠ i → t.grpAt k = s.grpAt k) ∧
          { t.grpAt i with stopped := true, saved := g.saved, seq := g.seq, s0 := g.s0, s1 := g.s1 } = g ∧ (t.grpAt i).stopped = false ∧
          resumed g.s0 a0 c.pc0 (s.nextAddr (s.teamOf g.team).ten) s.tick (t.grpAt i).s0 ∧
          resumed g.s1 a1 c.pc1 (s.nextAddr (s.teamOf g.team).ten) s.tick (t.grpAt i).s1)))

/-! ## Checkpoints, rollback and Bivouac (R83 to R86, R304 to R314, R353, R354) -/

namespace Sys2Proof.Claims

/-- The job's entry in the machine, and its teams. -/
abbrev IsJob (s : State) (ten : Nat) (id : Word) (j : RJob) : Prop := s.rjob? ten id = some j

/-- A checkpoint's contents at step 3 of R307: its images, what peers have sent, the job's waiting records and suspended images as they
stand, its launches not complete or cancelled, every launch id the job has had, and its joins under way. -/
def filled (s : State) (ten : Nat) (id : Word) (c : Ckpt) : Ckpt :=
  { c with
    items := c.items ++ (s.items.filter fun i => i.ten == ten && (s.launchOf ten i.launch).job == id).map (Item.mapImage s.imageNow)
    launches := s.launches.filter fun l => l.ten == ten && l.job == id && (!l.complete || l.cancelled)
    known := (s.launches.filter fun l => l.ten == ten && l.job == id).map fun l => l.id
    joins := s.joinWaits.filter fun w => w.ten == ten && (s.launchOf ten w.launch).job == id }

/-- `bs` stands in memory from physical byte `a`. -/
def Stands (t : State) (a : Nat) (bs : List Byte) : Prop := ∀ k, k < bs.length → t.rdB ⟨.mem false true, a + k⟩ = bs.getD k 0

/-- Every team of a job is stopped and saved, and every peer asked for what it holds of it has answered. -/
def AllStopped (s : State) (ten : Nat) (id : Word) (c : Ckpt) : Prop := (∀ x ∈ s.jobTeams ten id, x.stopped = true) ∧ c.waiting = []

/-- What the sealing of generation `c.gen` leaves of a job with an area (R307 step 4). -/
def Sealed (j : RJob) (c : Ckpt) (k : RJob) : Prop :=
  k.rpprev = j.rpgen ∧ k.rpprevman = j.rpman ∧ k.rpgen = c.gen ∧ k.rpman = c.slot * j.slotSize ∧ k.gen = c.gen + 1 ∧
    k.norb = false ∧ k.progress = none ∧ k.state = 0 ∧ k.last = c.gen ∧
    (∀ u, u ∈ k.undo ↔ u ∈ j.undo ∧ j.rpgen < u.gen) ∧ c ∈ k.sealed

end Sys2Proof.Claims

namespace Sys2Proof.Claims

/-- The bytes of a job's area from a place on. -/
def areaBytes (s : State) (a n : Nat) : List Byte := (List.range n).map fun k => s.rdB ⟨.mem false true, a + k⟩

/-- A generation is good (R308, R311): the CRC, GEN and HCRC of its slot's commit record match the manifest, the manifest's HCRC and ECRC are
right, and every block that it lists matches its CRC. -/
def GoodGeneration (s : State) (j : RJob) (gen man : Nat) : Prop :=
  let base := j.area + man
  let h := areaBytes s base 64
  let n := recAt h 16 4 + recAt h 20 4
  let commit := areaBytes s (base + j.slotSize - 64) 64
  crc32c (commit.take 20) = recAt commit 20 4 ∧ recAt commit 0 8 = gen ∧ recAt h 0 8 = gen ∧ recAt commit 16 4 = recAt h 44 4 ∧
    crc32c (h.take 44) = recAt h 44 4 ∧ crc32c (areaBytes s (base + 64) (32 * n)) = recAt h 40 4 ∧
    ∀ k, k < n → let e := areaBytes s (base + 64 + 32 * k) 32
      crc32c (areaBytes s (base + recAt e 0 8) (recAt e 8 8)) = recAt e 24 4
def GoodLast (s : State) (j : RJob) : Prop := j.rpgen ≠ 0 ∧ GoodGeneration s j j.rpgen j.rpman
def GoodBefore (s : State) (j : RJob) : Prop := j.rpprev ≠ 0 ∧ GoodGeneration s j j.rpprev j.rpprevman

/-- A peer that holds work of a job. -/
def HoldsWork (s : State) (ten : Nat) (id : Word) (p : Nat) : Prop := ∃ q ∈ s.away, q.1 = p ∧ q.2.ten = ten ∧ (s.launchOf ten q.2.launch).job = id

/-- A team here works for a peer's job (R276). -/
def WorksFor (s : State) (p ten : Nat) (id : Word) (x : Team) : Prop :=
  x ∈ s.teams ∧ x.ended = false ∧ x.ten = ten ∧ (s.launchOf ten x.launch).job = id ∧ (s.launchOf ten x.launch).guest.map (·.1) = some p

/-- The commands and stores of teams are complete, but what waits on a guard. -/
def CommandsDone (s : State) (mine : Nat → Prop) : Prop :=
  (∀ x ∈ s.jobs, mine x.team → x.idle = true ∨ s.behindGuard x.grp x.id = true) ∧ (∀ x ∈ s.installs, mine x.team → s.behindGuard x.grp x.id = true) ∧
    ∀ p ∈ s.pend, mine (s.grpAt p.grp).team → p.acc.writes = true → p.open = false

end Sys2Proof.Claims

/-- R304, R307, R308, R311, R312: Privileged software gives a job its area, its log at 1,024 to 2³² entries; once every
team has stopped and every peer that holds work of the job has sent what it saved, the slot gets manifest and commit
record; of a peer's job the peer gets what this module saved; the generation is abandoned where they do not fit, an
entry checkpoint's job then to be rolled back; the seal moves the recovery-point registers, GEN and the log together,
and the teams go on, but for Bivouac's. Containment stops the job's teams where they stand, those at peers too, and
drops its checkpoint; the rollback waits for the commands and writes of those teams, and for each peer's, takes the
latest good generation, RPGEN if that is good, else RPPREV, moves GEN past every generation there has been, undoes
each durable line's writes above the chosen generation, and ends the teams; a peer's work here goes, once its own
commands are complete, when its module rolls back; a job without a good generation is lost, and the host is told. A
rollback waits for Bivouac's end. (How the modules tell each other is log entry 62.) (The bytes of an image are log
entry 7, the place of an entry checkpoint and the joins kept with one log entry 67, work at peers log entry 62; that a
count outside the log's bounds changes nothing is log entry 46.) -/
def Obligations.Recovery : Prop :=
  (∀ s port ten job base slotSize undo j, Controls s port → IsJob s ten (.ofNat 64 job) j →
    (1024 ≤ undo → undo ≤ 2 ^ 32 → ∃ t, exec (.checkpointAreaSet port ten job base slotSize undo) s = .next t ∧ { t with rjobs := s.rjobs } = s ∧
      IsJob t ten (.ofNat 64 job) { j with hasArea := true, area := base, slotSize, undoCap := undo }) ∧
    ((undo < 1024 ∨ 2 ^ 32 < undo) → exec (.checkpointAreaSet port ten job base slotSize undo) s = .next s)) ∧
  (∀ s ten job j c, IsJob s ten (.ofNat 64 job) j → j.progress = some c → c.committed = false → AllStopped s ten (.ofNat 64 job) c → c.asker = none → j.hasArea = true →
    (let full := filled s ten (.ofNat 64 job) c
     let bytes := (full.slotBytes (.ofNat 64 job) (c.slot * j.slotSize)).1
     let commit := (full.slotBytes (.ofNat 64 job) (c.slot * j.slotSize)).2
     let base := j.area + c.slot * j.slotSize
     let need := max bytes.length ((full.allImages.map (·.size)).sum) + 64
     (bytes.take 8 = bytesOf 8 c.gen ∧ (bytes.drop 8).take 8 = bytesOf 8 (job % 2 ^ 64) ∧ commit.length = 64 ∧ commit.take 8 = bytesOf 8 c.gen ∧
       (commit.drop 8).take 8 = bytesOf 8 (c.slot * j.slotSize)) ∧
     (need ≤ j.slotSize → ∃ t, exec (.checkpointCommitWrite ten job) s = .next t ∧ { t with mem := s.mem, fill := s.fill, rjobs := s.rjobs } = s ∧
       IsJob t ten (.ofNat 64 job) { j with progress := some { full with committed := true, len := need } } ∧
       Stands t base bytes ∧ Stands t (base + j.slotSize - 64) commit ∧
       ∀ a, (a < base ∨ base + j.slotSize ≤ a) → t.rdB ⟨.mem false false, a⟩ = s.rdB ⟨.mem false false, a⟩) ∧
     (j.slotSize < need → ∃ t, exec (.checkpointCommitWrite ten job) s = .next t ∧
       (c.entry = true → { t with rjobs := s.rjobs } = s) ∧ ∃ k, IsJob t ten (.ofNat 64 job) k ∧
       { k with highest := j.highest } = { j with gen := c.gen + 1, state := 2, last := c.gen, progress := none, rolling := c.entry } ∧
       k.highest = max j.highest (c.gen + 1)))) ∧
  (∀ s ten job j c, IsJob s ten (.ofNat 64 job) j → j.progress = some c → c.committed = false → ¬AllStopped s ten (.ofNat 64 job) c →
    exec (.checkpointCommitWrite ten job) s = .next s) ∧
  (∀ s ten job j c p, IsJob s ten (.ofNat 64 job) j → j.progress = some c → c.committed = false → AllStopped s ten (.ofNat 64 job) c →
    c.asker = some p → c.entry = false → ∃ t resident suspended records, exec (.checkpointCommitWrite ten job) s = .next t ∧
      { t with rjobs := s.rjobs, remote := s.remote, nextId := s.nextId } = s ∧
      t.remote = s.remote ++ [{ peer := p, addr := 0, op := .access (.saved (.ofNat 64 job) resident suspended records), resent := !s.reaches p, who := .nobody
                                grp := 0, sp := 0, pc := 0, batch := 0, id := s.nextId }] ∧
      resident = c.images.map s.sentImage ∧ suspended = ((filled s ten (.ofNat 64 job) c).items.filterMap Item.image?).map s.sentImage ∧
      records.length = ((filled s ten (.ofNat 64 job) c).items.filter Item.isRecord).length ∧
      IsJob t ten (.ofNat 64 job) { j with progress := some { filled s ten (.ofNat 64 job) c with committed := true } }) ∧
  (∀ s ten job j c, IsJob s ten (.ofNat 64 job) j → j.progress = some c → c.committed = false → AllStopped s ten (.ofNat 64 job) c → c.asker = none → j.hasArea = false →
    ∃ t n place, exec (.checkpointCommitWrite ten job) s = .next t ∧ { t with mem := s.mem, fill := s.fill, rjobs := s.rjobs } = s ∧
      IsJob t ten (.ofNat 64 job) { j with progress := some { filled s ten (.ofNat 64 job) c with committed := true, len := n, place } } ∧
      ((∀ x, s.tenantOf? ten = some x → x.imageArea = 0) → place = c.place ∧ t.mem = s.mem) ∧
      ∀ x, s.tenantOf? ten = some x → x.imageArea ≠ 0 →
        (let bytes := (filled s ten (.ofNat 64 job) c).slotBytes (.ofNat 64 job) (c.slot * j.slotSize)
         ∃ p, place = some p ∧ x.imageArea ≤ p ∧ (∀ z ∈ s.areaTaken ten, p + n ≤ z.1 ∨ z.1 + z.2 ≤ p) ∧ bytes.1.length + bytes.2.length ≤ n ∧
           Stands t p (bytes.1 ++ bytes.2))) ∧
  (∀ s ten job j c, IsJob s ten (.ofNat 64 job) j → j.progress = some c →
    ((c.committed = false ∨ (c.asker ≠ none ∧ c.entry = false)) → exec (.checkpointSeal ten job) s = .next s) ∧
    (c.committed = true → (c.asker = none ∨ c.entry = true) → j.hasArea = true → ∃ t k, exec (.checkpointSeal ten job) s = .next t ∧ IsJob t ten (.ofNat 64 job) k ∧ Sealed j c k ∧
      (c.entry = true → { t with rjobs := s.rjobs, dirs := s.dirs } = s) ∧
      (c.entry = false → ∀ x ∈ s.jobTeams ten (.ofNat 64 job), Only s x →
        (t.teamOf x.uid).requests = x.requests.filter (· != .checkpoint) ∧
        (x.stopped = true → x.col < 512 → (t.teamOf x.uid).stopped = false ∧ (t.teamOf x.uid).col = x.col)))) ∧
  (∀ s j, (j.norb = true → s.chooseGen j = none) ∧
    (j.norb = false → (GoodLast s j → s.chooseGen j = some j.rpgen) ∧ (¬GoodLast s j → GoodBefore s j → s.chooseGen j = some j.rpprev) ∧
      (¬GoodLast s j → ¬GoodBefore s j → s.chooseGen j = none))) ∧
  (∀ s port ten job j, Controls s port → IsJob s ten (.ofNat 64 job) j → ∃ t ps, exec (.containmentCommand ⟨port, ten⟩ job) s = .next t ∧
    { t with rjobs := s.rjobs, teams := s.teams, remote := s.remote, nextId := s.nextId } = s ∧
    IsJob t ten (.ofNat 64 job) { j with rolling := true, progress := none, containing := ps, state := if j.progress.isSome then 2 else j.state } ∧
    (∀ p, p ∈ ps ↔ HoldsWork s ten (.ofNat 64 job) p) ∧ (∀ p ∈ ps, ∃ y ∈ t.remote, y.peer = p ∧ y.op = .access (.contain (.ofNat 64 job))) ∧
    ∀ x ∈ s.teams, Only s x → t.teamOf x.uid = if x ∈ s.jobTeams ten (.ofNat 64 job) then { x with stopped := true, requests := [] } else x) ∧
  (∀ s ten job j p, IsJob s ten (.ofNat 64 job) j → j.container = some p → s.biv.phase = 0 →
    (let mine (u : Nat) : Prop := ∃ x, WorksFor s p ten (.ofNat 64 job) x ∧ x.uid = u
     (¬CommandsDone s mine → exec (.rollbackRestore ten job) s = .next s) ∧
     (CommandsDone s mine → ∃ t, exec (.rollbackRestore ten job) s = .next t ∧
       (∃ y ∈ t.remote, y.peer = p ∧ y.op = .access (.contained (.ofNat 64 job))) ∧
       (∀ k, IsJob t ten (.ofNat 64 job) k → k.container = none) ∧ (∀ x ∈ t.jobs, ¬mine x.team) ∧
       (∀ x, WorksFor s p ten (.ofNat 64 job) x → Only s x → (∃ g, g < s.groups.length ∧ (s.grpAt g).team = x.uid ∧ (s.grpAt g).ended = false) →
         ∀ y ∈ t.teams, y.uid = x.uid → y.ended = true) ∧
       ∀ i ∈ t.items, ¬(i.ten = ten ∧ (s.launchOf ten i.launch).job = .ofNat 64 job ∧ (s.launchOf ten i.launch).guest.map (·.1) = some p)))) ∧
  (∀ s ten job j, IsJob s ten (.ofNat 64 job) j →
    (let mine (u : Nat) : Prop := u ∈ (s.jobTeams ten (.ofNat 64 job)).map (·.uid)
    (s.biv.phase ≠ 0 → exec (.rollbackRestore ten job) s = .next s) ∧
    (j.container = none → (j.rolling = false ∨ j.containing ≠ [] ∨ ¬CommandsDone s mine) → exec (.rollbackRestore ten job) s = .next s) ∧
    (j.rolling = true → j.containing = [] → j.container = none → s.biv.phase = 0 → CommandsDone s mine →
      (let now : RJob := { j with rolling := false, progress := none }
       ∃ t k, exec (.rollbackRestore ten job) s = .next t ∧ IsJob t ten (.ofNat 64 job) k ∧ k.rolling = false ∧ k.progress = none ∧
         (∀ x ∈ s.jobTeams ten (.ofNat 64 job), (∃ g, g < s.groups.length ∧ (s.grpAt g).team = x.uid ∧ (s.grpAt g).ended = false) → x.uid < s.nextId →
           ∀ y ∈ t.teams, y.uid = x.uid → y.ended = true) ∧
         ((s.chooseGen now = none ∨ ∃ g, s.chooseGen now = some g ∧ ∀ c ∈ j.sealed, c.gen ≠ g) →
           k.gen = j.gen ∧ k.highest = j.highest ∧ .jobLost ten (.ofNat 64 job) ∈ t.told ∧
           ∀ l ∈ t.launches, l.ten = ten → l.job = .ofNat 64 job → (t.launchOf ten l.id).cancelled = true ∨ (t.launchOf ten l.id).complete = true) ∧
         ∀ g c, s.chooseGen now = some g → j.sealed.find? (fun x => x.gen == g) = some c →
           k.gen = j.highest + 1 ∧ k.highest = j.highest + 1 ∧ k.rpgen = g ∧ (∀ u, u ∈ k.undo ↔ u ∈ j.undo ∧ u.gen ≤ g) ∧
           ∀ a b u, j.undo = a ++ u :: b → g < u.gen → u.old < 2 ^ 512 → (∀ v ∈ b, v.line = u.line → v.gen ≤ g) →
             t.rdN ⟨.mem false true, 64 * u.line⟩ 64 = u.old))))

namespace Sys2Proof.Claims

/-- The module has begun to enter Bivouac: every job that is not rolling back has an entry checkpoint, every resident team is
asked. -/
structure Entering (s t : State) : Prop where
  phase : t.biv.phase = 1
  quiet : t.biv.bvack = false
  checkpoints : ∀ j ∈ t.rjobs, j.rolling = false → ∃ c, j.progress = some c ∧ c.entry = true
  asked : ∀ x ∈ s.teams, Only s x → x.ended = false → x.col < 512 → .bivouac ∈ (t.teamOf x.uid).requests
  peers : s.away = [] → t.remote = s.remote
  rest : { t with biv := s.biv, rjobs := s.rjobs, teams := s.teams, groups := s.groups, remote := s.remote, nextId := s.nextId } = s

/-- What entry waits for (R83): every access, query, command, matrix operation and install, but those held, guarded or behind a
guard, what is under way to peers, reads of flash through a port, and the joins that need nothing but the exit. -/
structure Settled (s : State) : Prop where
  accesses : s.pend = [] ∧ s.queries = [] ∧ s.remote = [] ∧ s.flashReads = []
  commands : (∀ j ∈ s.jobs, j.idle = true ∨ s.behindGuard j.grp j.id = true) ∧ (∀ i ∈ s.installs, s.behindGuard i.grp i.id = true) ∧
    ∀ c ∈ s.columns, ∀ o ∈ c.2.ops, s.behindGuard o.grp o.id = true
  joins : ∀ j ∈ s.joinWaits, j.pushing = true ∨ j.page.isSome = true
  ports : (s.port 0).subBusy = false ∧ (s.port 1).subBusy = false

/-- The module sleeps: what R85 says is lost is gone; memory, flash, queued work and launches stand; a saved team of a job not to
be rolled back is suspended, its image queued with the contents that its job's sealed entry checkpoint holds (R86). -/
structure Asleep (s t : State) : Prop where
  phase : t.biv.phase = 2
  ack : t.biv.bvack = true
  lost : t.sram = [] ∧ t.tlb = [] ∧ t.pend = [] ∧ t.queries = [] ∧ t.flashReads = [] ∧ t.filling = [] ∧ t.lines = [] ∧ t.peerWaits = []
  teams : ∀ x ∈ s.teams, Only s x → x.ended = false → x.stopped = true → x.col < 512 →
    (∀ j, t.rjob? x.ten (s.launchOf x.ten x.launch).job = some j → j.rolling = false) →
    (t.teamOf x.uid).stopped = true ∧ (t.teamOf x.uid).col = 0xFFFF ∧ ∃ i ∈ t.items, ∃ m, i.work = .image m ∧ m.team = x ∧ i.passes = 64 ∧
      ∀ j c h, t.rjob? x.ten (s.launchOf x.ten x.launch).job = some j → j.sealed.head? = some c → c.entry = true →
        c.images.find? (fun y => y.team.uid == x.uid) = some h → m.slots = h.slots ∧ m.accum = h.accum ∧ m.fp6 = h.fp6 ∧ m.scratch = h.scratch
  columns : ∀ c, (t.col c).slots = [] ∧ (t.col c).accum = [] ∧ (t.col c).slotHeld = [] ∧ (t.col c).bankHeld = [] ∧ (t.col c).ops = [] ∧
    (t.col c).fenced = (s.col c).fenced ∧ (t.col c).proofs = (s.col c).proofs ∧ (t.col c).replays = (s.col c).replays
  peers : ∀ w ∈ s.peerWaits, .remoteAnswer w.peer 0x30 0 ∈ t.told
  kept : t.flash = s.flash ∧ t.reads = s.reads ∧ (∀ i ∈ s.items, i ∈ t.items) ∧ t.launches = s.launches ∧ t.boot = s.boot ∧ t.links = s.links ∧
    (s.lines = [] → t.mem = s.mem ∧ t.fill = s.fill)

end Sys2Proof.Claims

/-- R83 to R86, R313, R353, R354: A host command or PWRLOW begins entry, every job with an entry checkpoint; before the
module runs PWRLOW puts it to sleep at once; entry completes when every checkpoint is sealed or abandoned and nothing
is under way, or is cut short by its budget, unsealed jobs then to roll back; a wake starts the jobs again from GEN
one higher, their suspended teams as saved, what was queued on a failed die on one that passes, CYCLE, bands and heat
classes afresh, or waits for firmware, or fails. (The messages to peers are log entry 62, the die of work whose own
has failed log entry 14, the entry checkpoint of a job without an area, which no list keeps after the wake, log entry
67.) -/
def Obligations.Bivouac : Prop :=
  (∀ s port, Controls s port →
    (s.biv.phase = 0 → ∃ t, exec (.bivouacCommand port) s = .next t ∧ Entering s t) ∧
    (s.biv.phase ≠ 0 → exec (.bivouacCommand port) s = .next s)) ∧
  (∀ s, (s.boot.brstate ≠ 5 → exec .pwrlow s = .next { s with biv := { s.biv with pwrlow := true, phase := 2, bvack := true } }) ∧
    (s.boot.brstate = 5 → s.biv.phase = 0 → ∃ t, exec .pwrlow s = .next t ∧ Entering s t ∧ t.biv.pwrlow = true)) ∧
  (∀ s : State, (s.biv.phase ≠ 1 ∨ (∃ j ∈ s.rjobs, j.progress ≠ none) ∨ s.pend ≠ [] ∨ s.queries ≠ [] ∨ s.remote ≠ [] ∨
        (∃ i ∈ s.installs, s.behindGuard i.grp i.id = false) ∨ (∃ j ∈ s.jobs, j.idle = false ∧ s.behindGuard j.grp j.id = false) →
      exec .bivouacEntryComplete s = .next s) ∧
    (s.biv.phase = 1 → (∀ j ∈ s.rjobs, j.progress = none) → Settled s → (∀ x ∈ s.teams, x.ended = true ∨ 512 ≤ x.col ∨ x.stopped = true) →
      ∃ t, exec .bivouacEntryComplete s = .next t ∧ Asleep s t ∧ t.rjobs = s.rjobs)) ∧
  (∀ s, (s.biv.phase ≠ 1 → exec .bivouacBudgetExpiry s = .next s) ∧
    (s.biv.phase = 1 → ∃ t, exec .bivouacBudgetExpiry s = .next t ∧ t.biv.phase = 2 ∧ t.biv.bvack = true ∧
      (s.installs = [] → Asleep s t ∧ ∀ ten id j, IsJob s ten id j → ∃ k, IsJob t ten id k ∧
        (j.progress = none → k = j) ∧
        (∀ c, j.progress = some c → c.committed = true → j.hasArea = true → Sealed j c k) ∧
        (∀ c, j.progress = some c → c.committed = false → k.gen = c.gen + 1 ∧ k.progress = none ∧ k.rolling = true ∧ k.rpgen = j.rpgen ∧ k.sealed = j.sealed)))) ∧
  (∀ s failed ok,
    (s.biv.phase ≠ 2 → exec (.bivouacWake failed ok) s = .next s) ∧
    (s.biv.phase = 2 → s.boot.brstate ≠ 5 → exec (.bivouacWake failed ok) s =
      .next { s with biv := ⟨0, false, false⟩, boot := { s.boot with brstate := 1 }, ctlsem := 0 }) ∧
    (s.biv.phase = 2 → s.boot.brstate = 5 → failed = 0xFF → exec (.bivouacWake failed ok) s = .next { s with
      biv := ⟨0, false, false⟩, boot := { s.boot with brstate := 2, fail := s.boot.fail ||| 0xFF }, ctlsem := 0 }) ∧
    (s.biv.phase = 2 → s.boot.brstate = 5 → failed ≠ 0xFF → ¬(ok = true ∧ sha256 s.boot.image = s.boot.imageHash) → ∃ t, exec (.bivouacWake failed ok) s = .next t ∧
      t.boot = { s.boot with fail := s.boot.fail ||| failed.setWidth 29, brstate := 3, fwver := 0 } ∧ t.biv = { s.biv with phase := 3 } ∧ t.ctlsem = 0 ∧
      { t with boot := s.boot, biv := s.biv, ctlsem := s.ctlsem, told := s.told } = s) ∧
    (s.biv.phase = 2 → s.boot.brstate = 5 → failed ≠ 0xFF → ok = true → sha256 s.boot.image = s.boot.imageHash → ∃ t, exec (.bivouacWake failed ok) s = .next t ∧
      t.biv.phase = 0 ∧ t.biv.bvack = false ∧ t.ctlsem = 0 ∧ t.boot = { s.boot with fail := s.boot.fail ||| failed.setWidth 29 } ∧
      (∀ c, c < 512 → (t.col c).base = s.clock ∧ (t.col c).extra = 0 ∧ (t.col c).band = 0) ∧ t.flash = s.flash ∧
      (∀ x ∈ t.teams, x.ended = false → x.heat = (t.launchOf x.ten x.launch).heat) ∧
      (∀ j, s.rjobs = [j] → j.rolling = true → j.containing = [] → (∀ p, ¬HoldsWork s j.ten j.id p) → ∃ k, IsJob t j.ten j.id k ∧ k.progress = none ∧ k.rolling = false) ∧
      (∀ j p, s.rjobs = [j] → j.rolling = true → j.containing = [] → HoldsWork s j.ten j.id p →
        (∃ k, IsJob t j.ten j.id k ∧ k.rolling = true ∧ p ∈ k.containing) ∧ ∃ y ∈ t.remote, y.peer = p ∧ y.op = .access (.contain j.id)) ∧
      ((∀ j ∈ s.rjobs, j.rolling = false ∧ s.rjob? j.ten j.id = some j) → t.mem = s.mem ∧ t.jobs = s.jobs ∧ t.installs = s.installs ∧
        t.joinWaits = s.joinWaits ∧ t.launches = s.launches ∧ t.groups = s.groups ∧
        (∀ ten id j, IsJob s ten id j →
          IsJob t ten id { j with gen := j.highest + 1, highest := j.highest + 1, sealed := if j.hasArea then j.sealed.map (fun c => { c with entry := false }) else [] } ∧
            ∀ c r p, j.sealed = c :: r → c.entry = true → p ∈ c.peers → ∃ y ∈ t.remote, y.peer = p ∧ y.op = .access (.resume id)) ∧
        ∀ i ∈ s.items, ∀ m, i.work = .image m → { i with
          die := t.liveDie i.die, work := .image { m with team := { m.team with heat := (s.launchOf i.ten i.launch).heat } } } ∈ t.items)))

/-! ## Links, ports, bring-up and resets (R100, R290, R334 to R352) -/

namespace Sys2Proof.Claims

/-- A state with one link, or one port, changed. -/
def withLink (s : State) (n : Nat) (l : Link) : State := { s with links := Map.set .empty s.links n l }
def withPort (s : State) (p : Nat) (x : Port) : State := { s with ports := Map.set .empty s.ports p x }
def link (s : State) (n : Nat) : Link := Map.get .empty s.links n

/-- A link that carries flits. -/
abbrev Carries (s : State) (n : Nat) : Prop := n < 128 ∧ (link s n).training = false ∧ (link s n).active ≠ 0

/-- A link that is down, all its wavelengths retraining. -/
def fallen (l : Link) : Link := { l with active := 0, training := true, failed := 0, above := 0, below := 0, carried := 0, carriedOf := 0, seq := 0 }

/-- No wavelength in use is to leave at the next flit boundary (R336). -/
abbrev Steady (s : State) (n : Nat) : Prop := (link s n).active &&& (link s n).above = 0

/-- A flit whose check, over its first 248 bytes, is right (R335; what the header and the check are is the part's, log entry 60). -/
def flitOk (f : Flit) : Prop :=
  f.payload.length = 240 ∧ f.check = Config.flitCheck (bytesOf 8 (Config.flitHeader f.seq f.typ f.ack) ++ f.payload)

/-- The transactions routed over a link, and the payload bytes that have gone of the first one's message; a message of which part went over
another link before is begun anew. -/
def routed (s : State) (n : Nat) : List RemTx := s.remote.filter fun x => s.routeOf x == some n
def begun (s : State) (n : Nat) : Nat := match routed s n with
  | [] => 0
  | x :: _ => if (link s n).carriedOf = x.id then (link s n).carried else 0

/-- The bytes that wait to go over a link: the messages routed over it, but for what of the first has gone before. -/
def waiting (s : State) (n : Nat) : List Byte := ((routed s n).flatMap fun x => x.op.message).drop (begun s n)

/-- A transaction that cancels a launch at a peer, whose delivery ends the peer's work of it (R273). -/
def cancels (x : RemTx) : Prop := ∃ ten launch, x.op = .cancel ten launch

/-- Only bit `w` of a set of wavelengths changes, to `b`. -/
def bitSet (x y : BitVec 8) (w : Nat) (b : Bool) : Prop := ∀ k, k < 8 → y.getLsbD k = if k = w then b else x.getLsbD k

/-- Transactions to a peer not delivered are to be resent. -/
def toResend (s : State) (peer : Nat) : List RemTx := s.remote.map fun x => if x.peer = peer then { x with resent := true } else x

/-- Some link up leads to the peer. -/
def Linked (s : State) (peer : Nat) : Prop := ∃ n, Carries s n ∧ (link s n).known = true ∧ (link s n).peer = peer

/-- Bytes of a transaction's message (they are the part's, log entry 60). -/
abbrev messageOf (x : RemTx) : Nat := x.op.message.length

end Sys2Proof.Claims

/-- R336, R337, R340, R352: An estimate is kept, 0xFF at most, and says whether its window lay above the threshold or
below a tenth of it; a wavelength above it, at this end or the other, is handed back and counted, at the latest where
a flit begins, the last one taking the link down until one rejoins; one whose window since its hand-back lay below a
tenth of it rejoins; a refused flit is counted and replayed, and when its sixteenth replay is refused the link goes
down, its undelivered transactions to be resent; a retrained link uses all eight; a reset base takes every link down,
which counts for each that was up, and retrains them. (That the link falls when the sixteenth replay fails is log
entry 44.) -/
def Obligations.Links : Prop :=
  (∀ s n w est, n < 128 → w < 8 → ∃ t l, exec (.berWindowEstimate n w est) s = .next t ∧ t = withLink s n l ∧
    { l with berest := (link s n).berest, above := (link s n).above, below := (link s n).below } = link s n ∧
    Map.get 0 l.berest w = min est 255 ∧ (∀ k, k ≠ w → Map.get 0 l.berest k = Map.get 0 (link s n).berest k) ∧
    bitSet (link s n).above l.above w (decide (est < (link s n).berth)) ∧ bitSet (link s n).below l.below w (decide ((link s n).berth + 10 < est))) ∧
  (∀ s n w far, n < 128 → w < 8 → (link s n).active.getLsbD w = true →
    (far = false → (link s n).above.getLsbD w = false → exec (.wavelengthHandback n ⟨w, far⟩) s = .next s) ∧
    ((far = true ∨ (link s n).above.getLsbD w = true) → (∃ k, k < 8 ∧ k ≠ w ∧ (link s n).active.getLsbD k = true) → ∃ l,
      exec (.wavelengthHandback n ⟨w, far⟩) s = .next (withLink s n l) ∧
      { l with active := (link s n).active, above := (link s n).above, below := (link s n).below } =
        { link s n with handbacks := (link s n).handbacks + 1 } ∧
      bitSet (link s n).active l.active w false ∧ bitSet (link s n).above l.above w false ∧ bitSet (link s n).below l.below w false) ∧
    ((far = true ∨ (link s n).above.getLsbD w = true) → (∀ k, k < 8 → k ≠ w → (link s n).active.getLsbD k = false) → ∃ t,
      exec (.wavelengthHandback n ⟨w, far⟩) s = .next t ∧
      { link t n with above := (link s n).above, below := (link s n).below } = { link s n with
        active := 0, downs := (link s n).downs + 1, handbacks := (link s n).handbacks + 1, failed := 0, carried := 0, carriedOf := 0, seq := 0 } ∧
      bitSet (link s n).above (link t n).above w false ∧ bitSet (link s n).below (link t n).below w false ∧
      t.remote = toResend s (link s n).peer ∧ { t with links := s.links, remote := s.remote } = s)) ∧
  (∀ s n w, n < 128 → w < 8 → (link s n).training = false → (link s n).active.getLsbD w = false →
    ((link s n).below.getLsbD w = false → exec (.wavelengthRejoin n w) s = .next s) ∧
    ((link s n).below.getLsbD w = true → ∃ l, exec (.wavelengthRejoin n w) s = .next (withLink s n l) ∧
      { l with active := (link s n).active, below := (link s n).below } = link s n ∧
      bitSet (link s n).active l.active w true ∧ bitSet (link s n).below l.below w false)) ∧
  (∀ s n c l, n < 128 → (link s n).active &&& (link s n).above ≠ 0 → (link s n).active &&& ~~~(link s n).above ≠ 0 →
    l = { link s n with
      active := (link s n).active &&& ~~~(link s n).above, above := 0, below := (link s n).below &&& ~~~(link s n).above
      handbacks := (link s n).handbacks + .ofNat 64 ((List.range 8).countP fun w => ((link s n).active &&& (link s n).above).getLsbD w) } →
    exec (.flitReceive n c) s = exec (.flitReceive n c) (withLink s n l)) ∧
  (∀ s n f, Carries s n → Steady s n → ¬flitOk f →
    ((link s n).failed ≠ 16 → exec (.flitReceive n ⟨f, []⟩) s =
      .next (withLink s n { link s n with replays := (link s n).replays + 1, failed := (link s n).failed + 1 })) ∧
    ((link s n).failed = 16 → ∃ t, exec (.flitReceive n ⟨f, []⟩) s = .next t ∧ link t n = { fallen (link s n) with downs := (link s n).downs + 1 } ∧
      t.remote = toResend s (link s n).peer ∧ { t with links := s.links, remote := s.remote } = s)) ∧
  (∀ s n, ((link s n).training = true → exec (.linkRetrainComplete n) s = .next (withLink s n { link s n with active := 0xFF, training := false })) ∧
    ((link s n).training = false → exec (.linkRetrainComplete n) s = .next s)) ∧
  (∀ s, ∃ t, exec .opticalBaseReset s = .next t ∧ { t with links := s.links, remote := s.remote } = s ∧
    (∀ n, n < 128 → link t n = { fallen (link s n) with downs := if (link s n).active = 0 then (link s n).downs else (link s n).downs + 1 }) ∧ t.remote = s.remote.map fun x => { x with resent := true })

/-- R335, R337 to R339: A flit has a header of 8 bytes, 240 of messages and a check of 8 over these, in 32 beats of 8
bytes, striped over the wavelengths in use; messages are packed into payloads of 240 bytes, one going on in the next,
and the flit a link sends next carries those that wait; an accepted flit, one in sequence with what the link sends,
delivers, in the order they were sent, the transactions routed over its link whose messages it completes, and counts
what its wavelengths corrected; one of another link stays. Where no link is up to a resent transaction's peer, a load
ends, with 0x30 there, of a store or atomic the lanes that the transaction carries, and a command's piece with a
deferred one; of an LCANCEL only the message to that peer, and a cancel this module passes on for a peer waits for its
link. (Sizes of messages and the choice of a route are log entry 60, which piece of a message a flit carries log entry
43.) -/
def Obligations.Fabric : Prop :=
  (∀ f : Flit, f.payload.length = 240 → (flitBytes f).length = 256 ∧ (flitBytes f).take 8 = bytesOf 8 (Config.flitHeader f.seq f.typ f.ack) ∧
    ((flitBytes f).drop 8).take 240 = f.payload ∧ leNat ((flitBytes f).drop 248) = f.check.toNat ∧ (flitBeats f).length = 32 ∧
    (flitBeats f).flatten = flitBytes f ∧ ∀ b ∈ flitBeats f, b.length = 8) ∧
  (∀ (s : State) n, flitOk (s.nextFlit n) ∧ (s.nextFlit n).seq = (link s n).seq ∧
    ∀ k, k < 240 → (s.nextFlit n).payload.getD k 0 = (waiting s n).getD k 0) ∧
  (∀ (s : State) n f, Carries s n → Steady s n → flitOk f → (f.seq ≠ (link s n).seq ∨ f.payload ≠ (s.nextFlit n).payload) →
    exec (.flitReceive n ⟨f, []⟩) s = .next s) ∧
  (∀ ms : List (List Byte), (∀ x ∈ packMessages ms, x.length = 240) ∧ (packMessages ms).flatten.take ms.flatten.length = ms.flatten) ∧
  (∀ (act : BitVec 8) i, (act ≠ 0 → act.getLsbD (beatWave act i) = true) ∧ (act = 0xFF → beatWave act i = i % 8)) ∧
  (∀ (s : State) n, Carries s n → Steady s n →
    (let good : FlitCheck := ⟨s.nextFlit n, []⟩
    let l : Link := { link s n with failed := 0, seq := (link s n).seq + 1 }
    (∀ w k, beatsOn (link s n).active w ≠ 0 → ∃ t, exec (.flitReceive n ⟨s.nextFlit n, [(w, k)]⟩) s = .next t ∧
      Map.get 0 (link t n).corrected w = (Map.get 0 (link s n).corrected w + k) % 2 ^ 48) ∧
    ((∀ x ∈ s.remote, s.routeOf x ≠ some n) → exec (.flitReceive n good) s = .next (withLink s n { l with carried := 0, carriedOf := 0 })) ∧
    (∀ a x b, s.remote = a ++ x :: b → s.routeOf x = some n → (∀ y ∈ a, s.routeOf y ≠ some n) →
      (begun s n + 240 < messageOf x → exec (.flitReceive n good) s =
        .next (withLink s n { l with carried := begun s n + 240, carriedOf := x.id })) ∧
      (messageOf x ≤ begun s n + 240 → (∀ y ∈ b, s.routeOf y ≠ some n) → x.who = .nobody → ¬cancels x → exec (.flitReceive n good) s =
        .next { withLink s n { l with carried := 0, carriedOf := 0 } with remote := a ++ b }) ∧
      (∀ id lane q y, messageOf x ≤ begun s n + 240 → (∀ z ∈ b, s.routeOf z ≠ some n) → ¬cancels x → x.who = .lanes id [lane] → s.pend? id = some q →
        q.acc = .store → q.lanes = [y] → y.lane = lane → y.sent = true → y.res = none → exec (.flitReceive n good) s =
          .next { withLink s n { l with carried := 0, carriedOf := 0 } with remote := a ++ b, pend := s.pend.filter fun z => z.id != id })))) ∧
  (∀ (s : State) k x, s.remote[k]? = some x →
    ((x.resent = false ∨ Linked s x.peer) → exec (.resendTimeout k) s = .next s) ∧
    (∀ id ls q, x.resent = true → ¬Linked s x.peer → x.who = .lanes id ls → s.pend? id = some q → q.acc.writes = true → (s.grpAt x.grp).ended = false →
      (∃ y ∈ q.lanes, y.lane ∉ ls ∧ y.res = none) → ∃ s' : State, { s' with remote := s.remote, pend := s.pend } = s ∧
      (∀ y, y ∈ s'.remote ↔ y ∈ s.remote ∧ y ≠ x) ∧
      s'.pend = s.pend.map (fun z => if z.id = id then { q with dst := .none, lanes := q.lanes.filter fun y => !ls.contains y.lane } else z) ∧
      exec (.resendTimeout k) s = .next (s'.takeFault x.grp x.sp x.pc false { code := 0x30, info32 := (s.grpAt x.grp).idemRetry })) ∧
    (∀ id ls q, x.resent = true → ¬Linked s x.peer → x.who = .lanes id ls → s.pend? id = some q → q.acc.writes = false →
      (s.grpAt x.grp).ended = false → ∃ s' : State,
      { s' with remote := s.remote, pend := s.pend } = s ∧ (∀ y, y ∈ s'.remote ↔ y ∈ s.remote ∧ ∀ m, y.who ≠ .lanes id m) ∧
      s'.pend = (s.pend.filter fun z => z.id != id) ∧
      exec (.resendTimeout k) s = .next (s'.takeFault x.grp x.sp x.pc false { code := 0x30, info32 := (s.grpAt x.grp).idemRetry })) ∧
    (∀ id n, x.resent = true → ¬Linked s x.peer → x.who = .piece id n → (s.grpAt x.grp).ended = false → x.grp < s.groups.length → ∃ t,
      exec (.resendTimeout k) s = .next t ∧ x ∉ t.remote ∧ x.batch ∈ (t.grpAt x.grp).pend30) ∧
    (x.resent = true → ¬Linked s x.peer → x.who = .told → cancels x → (s.grpAt x.grp).ended = false → ∃ s' : State,
      (∀ y ∈ s.remote, y ≠ x → ∃ z ∈ s'.remote, z.peer = y.peer ∧ z.op = y.op) ∧
      exec (.resendTimeout k) s = .next (s'.takeFault x.grp x.sp x.pc false { code := 0x30, info32 := (s.grpAt x.grp).idemRetry })) ∧
    (∀ asker launch, x.who = .relay asker launch → exec (.resendTimeout k) s = .next s))

namespace Sys2Proof.Claims

/-- The places of `n` bytes a tenant's translation gives, in the order of the bytes. -/
def Placed (s : State) (ten a n : Nat) (u : Use) (ls : List Loc) : Prop :=
  ls.length = n ∧ ∀ k, k < n → s.translate ten (a + k) (a + k) u false = .ok (ls.getD k ⟨.ctl, 0⟩)

/-- Some byte of the access faults, or its page is not present. -/
def Misplaced (s : State) (ten a n : Nat) (u : Use) : Prop := ∃ k, k < n ∧ ∀ l, s.translate ten (a + k) (a + k) u false ≠ .ok l

/-- Bytes written at places, all in DRAM and each once, and nothing else; a directory over them is kept exact. -/
def WroteAt (s t : State) (ls : List Loc) (b : Nat → Byte) : Prop :=
  (∀ k, k < ls.length → t.rdB (ls.getD k ⟨.ctl, 0⟩) = b k) ∧
    (∀ x : Loc, (∀ l ∈ ls, x.same l = false) → t.rdB x = s.rdB x) ∧ { t with mem := s.mem, fill := s.fill, dirs := s.dirs } = s
abbrev InDram (ls : List Loc) : Prop := (∀ l ∈ ls, ∃ ix dur, l.sp = .mem ix dur) ∧ ls.Pairwise fun x y => x.a ≠ y.a
def heard (s : State) (m : Told) : State := { s with told := m :: s.told }

/-- The places a peer's bytes have, at offsets from its address, and no line of a write is on its way to one of their lines. -/
def PeerPlaced (s : State) (ten a : Nat) (offs : List Nat) (u : Use) (ls : List Loc) : Prop :=
  ls.length = offs.length ∧ (∀ w ∈ s.lines, w.meets ls = false) ∧ ∀ k, k < offs.length → a + offs.getD k 0 < 2 ^ 48 ∧
    s.translate ten (a + offs.getD k 0) (a + offs.getD k 0) u false = .ok (ls.getD k ⟨.ctl, 0⟩)

/-- Places in flash stand in the staging cache (R77). -/
abbrev AllStaged (s : State) (ls : List Loc) : Prop := ∀ l ∈ ls, Staged s l

/-- A write waits as its lines, of one port or of a peer that gets its answer with the last. -/
def Queued (s t : State) (port tell : Option Nat) (ls : List Loc) (bs : List Byte) : Prop :=
  ∃ more : List LineWrite, t = { s with lines := s.lines ++ more } ∧ (∀ l b, (l, b) ∈ ls.zip bs ↔ ∃ w ∈ more, (l, b) ∈ w.locs.zip w.bytes) ∧
    (∀ w ∈ more, w.port = port ∧ ∀ l ∈ w.locs, ∀ m ∈ w.locs, l.sp.key = m.sp.key ∧ l.a / 64 = m.a / 64) ∧
    (more.map (·.tell)) = (List.range more.length).map fun k => if k + 1 = more.length then tell else none

/-- A peer's transactions reach the module. -/
abbrev Hears (s : State) : Prop := s.boot.brstate = 5 ∧ s.biv.phase ≠ 2

end Sys2Proof.Claims

namespace Sys2Proof.Claims

/-- The offsets of BAR 0 that answer before the module runs (R348). -/
def early (o : Nat) : Prop :=
  (0x40000 ≤ o ∧ o < 0x40020) ∨ (0x30000 ≤ o ∧ o < 0x34000) ∨ (0x50000 ≤ o ∧ o < 0x50028) ∨ (0x51000 ≤ o ∧ o < 0x51030) ∨
    (0x51100 ≤ o ∧ o < 0x51BD0) ∨ (0x800000 ≤ o ∧ o < 0x1000000)

/-- The settings and their bounds; where a setting stands. -/
def settingOf : CtlReg → Option (Nat × Nat × (Settings → Nat))
  | .refreshFloor => some (500, 950, (·.floor))
  | .agingThreshold => some (2 ^ 16, 2 ^ 32, (·.aging))
  | .migrationDepth => some (8, 4096, (·.depth))
  | .proofInterval => some (256, 65536, (·.proofEvery))
  | .directoryArea => some (2 ^ 28, 2 ^ 33, (·.dirArea))
  | .yieldLimit => some (2 ^ 16, 2 ^ 26, (·.yieldLimit))
  | _ => none

end Sys2Proof.Claims

/-- R94, R100, R114, R237, R290, R338, R342 to R345, R348: A peer's read and atomic are served where its tenant's
translation places them, and answered with the old value; its write, as one through BAR 2, waits as its lines, each of
which lands whole, none before an earlier one of its port or line; a faulting peer is told the code, and one on a page
not present is reported and waits; a BAR 2 read tells its value or an abort, a faulting BAR 2 write is dropped and
recorded, and neither posts a report; a read of flash that the staging cache does not hold waits for its fill. A
record or an image of a peer's spanning launch is queued, at its level and with its age, under a LAUNCHID none of the
tenant's launches here has, an image with its handles; a peer's cancel ends its launch here, one of a launch of this
module is passed on to every other peer that holds work of it; and a peer's request for a checkpoint of its job, or
the containment of it, reaches the job's teams here. Before the module runs, and asleep, a peer's transaction is not
served. A free semaphore goes to the port that claims it, and its owner alone frees it; a control write by another
port, or before the module runs, is dropped and counted; the owner's sets its setting, unless out of bounds, behind
the writes its port made before; a BAR 0 read gives what stands at its offset, or zero before the module runs but for
the offsets that answer then; a tenant set up is new, with its own key, one torn down leaves nothing; a link that goes
down frees the semaphore its port holds. (Reads through BAR 0 and lines of writes as inputs are log entry 9, a peer's
spanning work log entry 62; that a setting out of bounds changes nothing is log entry 46; what a teardown takes with
it is log entry 17.) -/
def Obligations.HostAccess : Prop :=
  (∀ s peer ten a op, (s.boot.brstate ≠ 5 ∨ s.biv.phase = 2) → exec (.remoteTransaction peer ten a op) s = .next s) ∧
  (∀ s peer ten a offs ls, Hears s → PeerPlaced s ten a offs .read ls →
    (AllStaged s ls → exec (.remoteTransaction peer ten a (.read offs)) s = .next (heard s (.remoteAnswer peer 0 (readAt s ls)))) ∧
    (¬AllStaged s ls → ∃ fl, Fetches s fl ls ∧ exec (.remoteTransaction peer ten a (.read offs)) s =
      .next { s with filling := fl, peerWaits := s.peerWaits ++ [⟨peer, ten, a, .read offs, none⟩] })) ∧
  (∀ s peer ten a xs ls, Hears s → PeerPlaced s ten a (xs.map (·.1)) .write ls →
    ∃ t, exec (.remoteTransaction peer ten a (.write xs)) s = .next t ∧ Queued s t none (some peer) ls (xs.map (·.2))) ∧
  (∀ s peer ten a o wide data cmp ls, Hears s → o < 16 →
    (let n := if wide then 8 else 4
     (a % n ≠ 0 → exec (.remoteTransaction peer ten a (.atomic o wide data cmp)) s = .next (heard s (.remoteAnswer peer 0x13 0))) ∧
     (a % n = 0 → PeerPlaced s ten a (List.range n) .atomic ls → InDram ls → ∃ t, exec (.remoteTransaction peer ten a (.atomic o wide data cmp)) s =
         .next (heard t (.remoteAnswer peer 0 (readAt s ls))) ∧
       WroteAt s t ls fun k => .ofNat 8 (atomLeaves o n (readAt s ls) (data.toNat % 2 ^ (8 * n)) (cmp.toNat % 2 ^ (8 * n)) / 256 ^ k)))) ∧
  (∀ (s : State) peer ten a r offs, Hears s →
    (2 ^ 48 ≤ a + r → exec (.remoteTransaction peer ten a (.read (r :: offs))) s = .next (heard s (.remoteAnswer peer 0x12 0))) ∧
    (∀ f, a + r < 2 ^ 48 → s.translate ten (a + r) (a + r) .read false = .flt f →
      exec (.remoteTransaction peer ten a (.read (r :: offs))) s = .next (heard s (.remoteAnswer peer f.code 0))) ∧
    (∀ t p m f, a + r < 2 ^ 48 → s.translate ten (a + r) (a + r) .read false = .wait t p m f →
      exec (.remoteTransaction peer ten a (.read (r :: offs))) s =
        .next { s.report t p m with peerWaits := s.peerWaits ++ [⟨peer, ten, a, .read (r :: offs), some p⟩] })) ∧
  (∀ (s : State) k w, s.lines[k]? = some w →
    ((∃ v ∈ s.lines.take k, (v.port ≠ none ∧ v.port = w.port) ∨ v.meets w.locs = true) → s.perform (.line k) = .next s) ∧
    ((∀ v ∈ s.lines.take k, (v.port = none ∨ v.port ≠ w.port) ∧ v.meets w.locs = false) → w.bytes.length = w.locs.length → InDram w.locs → ∃ t,
      s.perform (.line k) = .next (match w.tell with
        | some p => heard t (.remoteAnswer p 0 0)
        | none => t) ∧
      t.lines = s.lines.eraseIdx k ∧ WroteAt s { t with lines := s.lines, debts := s.debts } w.locs (w.bytes.getD · 0))) ∧
  (∀ s port off n, port < 2 → (s.port port).up = true → s.biv.phase ≠ 2 → off + n ≤ 2 ^ 36 →
    (let a := (s.port port).bar2base * 2 ^ 36 + off
     let ten := (s.port port).bar2ten
     (∃ t, exec (.hostBar2Read port off n) s = .next t ∧ ∀ w ∈ t.lines, w.port ≠ some port) ∧
     (Reaches s port → (∀ ls, s.boot.brstate = 5 → Placed s ten a n .read ls →
        (AllStaged s ls → exec (.hostBar2Read port off n) s = .next (heard s (.read port off (some (readAt s ls))))) ∧
        (¬AllStaged s ls → ∃ fl, Fetches s fl ls ∧ exec (.hostBar2Read port off n) s =
          .next { s with filling := fl, flashReads := s.flashReads ++ [(port, off, n)] })) ∧
       ((s.boot.brstate ≠ 5 ∨ Misplaced s ten a n .read) → exec (.hostBar2Read port off n) s = .next (heard s (.read port off none)))))) ∧
  (∀ s port off bs, port < 2 → (s.port port).up = true → s.biv.phase ≠ 2 → off + bs.length ≤ 2 ^ 36 →
    (let a := (s.port port).bar2base * 2 ^ 36 + off
     let ten := (s.port port).bar2ten
     (∀ ls, s.boot.brstate = 5 → Placed s ten a bs.length .write ls → ∃ t, exec (.hostBar2Write port off bs) s = .next t ∧ Queued s t (some port) none ls bs) ∧
     ((s.boot.brstate ≠ 5 ∨ Misplaced s ten a bs.length .write) → exec (.hostBar2Write port off bs) s =
       .next (withPort s port { s.port port with aer := (s.port port).aer + 1 })))) ∧
  (∀ s peer ten a launch desc bank op (c : Carried), Hears s → s.tenantOf? ten ≠ none → DescriptorOk desc → s.launches.length < 2 ^ 31 →
    (∀ l ∈ s.launches, ¬(l.ten = ten ∧ l.guest = some (peer, launch))) →
    (let arrives (i : RemoteOp) (w : Work → State → Prop) : Prop := op = i →
       ∃ t it, exec (.remoteTransaction peer ten a op) s = .next (heard t (.remoteAnswer peer 0 0)) ∧
         t.items = s.items ++ [it] ∧ it.ten = ten ∧ (∀ l ∈ s.launches, l.ten = ten → l.id ≠ it.launch) ∧ w it.work t ∧ t.arrivals = s.arrivals ++ [(peer, it)] ∧
         it.prio = c.prio ∧ it.passes = c.passes ∧ it.aged = c.aged ∧ it.pushTime = s.clock - c.age ∧ it.queuedAt = s.clock - c.waited ∧
         (t.launchOf ten it.launch).guest = some (peer, launch) ∧ (t.launchOf ten it.launch).complete = false
     (∀ team bytes, arrives (.work launch desc bank team bytes c) fun w _ => w = .record bytes team) ∧
     ∀ i, arrives (.image launch desc bank i c) fun w t => ∃ m, w = .image m ∧ m.groups = i.groups ∧ m.team.ten = ten ∧ m.team.stopped = true ∧
       m.team ∈ t.teams ∧ s.nextId ≤ m.team.uid ∧ t.groups.length = s.groups.length + i.groups.length ∧
       (∀ h ∈ i.team.handles, ∀ r, h.kind = .tensor r → h ∈ m.team.handles) ∧
       ∀ h ∈ i.team.handles, ∀ n d, h.kind = .bits n → i.dirs.find? (fun y => y.id == n) = some d →
         (s.stringPages ten d.base ((d.len + 7) / 8)).isSome = true → ∃ g ∈ m.team.handles, ∃ e ∈ t.dirs, g.idx = h.idx ∧ g.tag = h.tag ∧ g.kind = .bits e.id ∧
           e.base = d.base ∧ e.len = d.len ∧ e.kind = d.kind ∧ e.ten = ten)) ∧
  (∀ s peer ten a launch l, Hears s → s.launches.find? (fun l => l.ten == ten && l.guest == some (peer, launch)) = some l → s.launchOf ten l.id = l →
    ∃ t, exec (.remoteTransaction peer ten a (.cancel launch)) s = .next (heard t (.remoteAnswer peer 0 0)) ∧ (t.launchOf ten l.id).cancelled = true ∧
      ∀ i ∈ t.items, ¬(i.ten = ten ∧ i.launch = l.id)) ∧
  (∀ s peer ten a launch, Hears s → (∃ l ∈ s.launches, l.ten = ten ∧ l.id = launch) →
    (let held (p : Nat) : Prop := p ≠ peer ∧ ∃ q ∈ s.away, q.1 = p ∧ q.2.ten = ten ∧ q.2.launch = launch
     ∃ t, exec (.remoteTransaction peer ten a (.cancelHome launch)) s = .next (heard t (.remoteAnswer peer 0 0)) ∧ (t.launchOf ten launch).cancelled = true ∧
       (∀ p, held p → ∃ y ∈ t.remote, y.peer = p ∧ y.op = .cancel ten launch ∧ y.who = .relay peer launch) ∧
       ((∀ p, ¬held p) → ∃ y ∈ t.remote, y.peer = peer ∧ y.op = .access (.cancelled launch)))) ∧
  (∀ s peer ten a job j, Hears s → IsJob s ten job j →
    (∃ t, exec (.remoteTransaction peer ten a (.contain job)) s = .next (heard t (.remoteAnswer peer 0 0)) ∧
      IsJob t ten job { j with progress := none, container := some peer } ∧ { t with rjobs := s.rjobs, teams := s.teams } = s ∧
      ∀ x, WorksFor s peer ten job x → Only s x → t.teamOf x.uid = { x with stopped := true, requests := [] }) ∧
    exec (.remoteTransaction peer ten a (.contained job)) s =
      .next (heard (s.setRJob { j with containing := j.containing.erase peer }) (.remoteAnswer peer 0 0))) ∧
  (∀ s peer ten a job j, Hears s → IsJob s ten job j → j.rolling = false → j.progress = none → s.away = [] →
    ∃ t c, exec (.remoteTransaction peer ten a (.checkpoint job)) s = .next (heard t (.remoteAnswer peer 0 0)) ∧
      IsJob t ten job { j with progress := some c, state := 1, last := j.gen } ∧ c.asker = some peer ∧ c.committed = false ∧
      ∀ x ∈ s.jobTeams ten job, Only s x → .checkpoint ∈ (t.teamOf x.uid).requests) ∧
  (∀ s port, Reaches s port →
    exec (.ctlsemClaim port) s = .next (if s.ctlsem = 0 then { s with ctlsem := port + 1 } else s) ∧
    exec (.ctlsemRelease port) s = .next (if s.ctlsem = port + 1 then { s with ctlsem := 0 } else s)) ∧
  (∀ s port speed, ∃ t, exec (.portLinkDown port) s = .next t ∧ t.port port = { s.port port with up := false } ∧ { t with ports := s.ports, ctlsem := s.ctlsem } = s ∧
    (∀ k, k ≠ port → t.port k = s.port k) ∧ t.ctlsem = (if s.ctlsem = port + 1 then 0 else s.ctlsem) ∧
    (port < 2 → 5 ≤ speed → speed ≤ 7 → exec (.portLinkTrained port speed) s = .next (withPort s port { s.port port with up := true, speed }))) ∧
  (∀ s port reg v lo hi get, Controls s port → settingOf reg = some (lo, hi, get) →
    (lo ≤ v.toNat → v.toNat ≤ hi → ∃ t, exec (.controlRegisterWrite port reg v) s = .next t ∧ get t.set = v.toNat ∧ { t with set := s.set, teams := s.teams } = s ∧
      (reg ≠ .refreshFloor → t.teams = s.teams) ∧ (reg = .refreshFloor → t.teams = s.teams.map fun x => { x with risen := x.risen && lacks t x.col }) ∧
      ∀ r l h g, settingOf r = some (l, h, g) → r ≠ reg → g t.set = g s.set) ∧
    ((v.toNat < lo ∨ hi < v.toNat) → exec (.controlRegisterWrite port reg v) s = .next s)) ∧
  (∀ s port reg v, Reaches s port → (∀ o, reg ≠ .offset o) → (s.ctlsem ≠ port + 1 ∨ s.boot.brstate ≠ 5) →
    exec (.controlRegisterWrite port reg v) s = .next (refused s port)) ∧
  (∀ s port o v, Reaches s port → s.boot.brstate ≠ 5 → ¬early o → exec (.controlRegisterWrite port (.offset o) v) s = .next (refused s port)) ∧
  (∀ (s : State) port reg v, port < 2 → (s.port port).up = true → s.biv.phase ≠ 2 → ∃ t, exec (.controlRegisterWrite port reg v) s = .next t ∧
    ∀ w ∈ t.lines, w.port ≠ some port) ∧
  (∀ (s : State) k port off, s.reads[k]? = some (port, off) → port < 2 → (s.port port).up = true → s.biv.phase ≠ 2 →
    (let answers (v : Nat) : Prop := s.perform (.bar0 k) = .next { s with reads := s.reads.eraseIdx k, told := .read0 port off v :: s.told }
     (s.boot.brstate ≠ 5 → ¬early off → answers 0) ∧
     (off = 0x40000 → answers s.ctlsem) ∧ (off = 0x50000 → answers s.boot.brstate) ∧ (off = 0x50008 → answers s.boot.fail.toNat) ∧
     (off = 0x40008 → (s.port port).speed < 256 → answers (port * 2 ^ 48 + min (s.port port).rejects 0xFFFF * 2 ^ 32 + (s.port port).speed * 2 ^ 8 + 16)) ∧
     (∀ n, n < 128 → off = 0x30000 + 128 * n + 0x08 → answers (s.link n).replays.toNat) ∧
     (∀ c, c < 512 → s.boot.brstate = 5 → off = 0x20000 + 8 * c → answers (s.col c).replays.toNat))) ∧
  (∀ s port ten root, Controls s port →
    ((32 ≤ ten ∨ s.tenantOf? ten ≠ none) → exec (.tenantSetup port ten root) s = .next s) ∧
    (ten < 32 → s.tenantOf? ten = none → ∃ t x, exec (.tenantSetup port ten root) s = .next t ∧ t.tenants = s.tenants ++ [x] ∧ x.n = ten ∧ x.root = root ∧
      x.nextLaunch = 1 ∧ x.hostSeq = 0 ∧ x.cancelled = [] ∧ { t with tenants := s.tenants, freeCtr := s.freeCtr, placed := s.placed } = s ∧
      (∀ p, p.ten ≠ ten → (p ∈ t.placed ↔ p ∈ s.placed)))) ∧
  (∀ s port ten, Controls s port → ∃ t, exec (.tenantTeardown port ten) s = .next t ∧ t.tenantOf? ten = none ∧
    (∀ l ∈ t.launches, l.ten ≠ ten) ∧ (∀ i ∈ t.items, i.ten ≠ ten) ∧ (∀ j ∈ t.rjobs, j.ten ≠ ten) ∧ (∀ p ∈ t.pairs, p.1 ≠ ten) ∧ (∀ p ∈ t.placed, p.ten ≠ ten) ∧
    (∀ n, n ≠ ten → t.tenantOf? n = s.tenantOf? n) ∧ t.set.supervisor = (if s.set.supervisor = some ten then none else s.set.supervisor)) ∧
  (∀ s port ten, Controls s port → exec (.supervisorDesignate port ten) s =
    .next { s with set := { s.set with supervisor := if ten < 32 then some ten else none } })

/-- R346 to R352: Power begins the self-test; its result leaves the module failed, or waiting for firmware; an image is
written to its window and FWGO begins its verification, from states 3 and 6 alone; verification ends with the module
running, or waiting again with its code; a report is signed on request, unless one is being signed or the life's count
is spent. A device reset leaves the machine at reset but for what power and flash keep, a job's checkpoint area with
its registers, undo log and generations among it; a compute-die reset loses the columns and teams of one die and
contains their jobs, their engine commands and installs going on, and leaves every memory, and every other die's
columns, as they were. (That the whole image is hashed is log entry 49, what DRAM holds after a reset log entry 41;
the fuses and the key of attestation are log entry 8; that a held reset ends a rollback or checkpoint in progress and
revokes string handles is log entry 79, DEDUCED; the values at reset are log entry 19.) -/
def Obligations.BringUp : Prop :=
  (∀ s : State, s.biv.phase ≠ 2 → exec .powerOn s = .next (if s.boot.brstate = 0 then { s with boot := { s.boot with brstate := 1 } } else s)) ∧
  (∀ (s : State) fail, s.biv.phase ≠ 2 → exec (.selfTestComplete fail) s = .next
    (if s.boot.brstate = 1 then { s with boot := { s.boot with fail := fail, brstate := if fail = 0 then 3 else 2 } } else s)) ∧
  (∀ s port off v, Reaches s port → s.ctlsem = port + 1 →
    (s.boot.brstate = 4 → exec (.firmwareWindowWrite port off v) s = .next (refused s port)) ∧
    (s.boot.brstate ≠ 4 → 2 ^ 23 ≤ off → exec (.firmwareWindowWrite port off v) s = .next s) ∧
    (s.boot.brstate ≠ 4 → off < 2 ^ 23 → ∃ t, exec (.firmwareWindowWrite port off v) s = .next t ∧ { t with boot := s.boot } = s ∧
      { t.boot with window := s.boot.window } = s.boot ∧ ∀ k, Memory.rd t.boot.window k = if k = off then v else Memory.rd s.boot.window k)) ∧
  (∀ s port len, Reaches s port → s.ctlsem = port + 1 → exec (.fwgo port len) s = .next { s with boot :=
    if s.boot.brstate = 3 ∨ s.boot.brstate = 6 then { s.boot with brstate := 4, fwlen := len.toNat } else { s.boot with fwstat := 6 } }) ∧
  (∀ s : State, ((s.boot.brstate ≠ 4 ∨ s.biv.phase = 2) → exec .firmwareVerifyDone s = .next s) ∧
    (s.boot.brstate = 4 → s.biv.phase ≠ 2 → s.biv.phase ≠ 3 →
      (let img := if 2 ^ 23 < s.boot.fwlen then [] else (List.range s.boot.fwlen).map fun k => Memory.rd s.boot.window k
       let body := leNat ((img.drop 8).take 8)
       let key := img.drop (64 + body + 2508)
       let shape : Prop := 64 ≤ img.length ∧ leNat (img.take 4) = 0x4E445247 ∧ (∀ k, 48 ≤ k → k < 64 → img.getD k 0 = 0) ∧ 1 ≤ body ∧ body ≤ 8385980 ∧
         img.length = 64 + body + 2564
       let ends (c : Nat) : Prop := exec .firmwareVerifyDone s = .next { s with boot := { s.boot with fwstat := c, brstate := 6 } }
       let keyOk : Prop := sha256 key = (img.drop 16).take 32 ∧ fusedKeyHash = (img.drop 16).take 32
       let signed : Prop := lmsVerify 6 10 key ((img.drop (64 + body)).take 2508) (img.take (64 + body)) = true
       let ver := leNat ((img.drop 4).take 4)
       (¬shape → ends 2) ∧ (shape → ¬keyOk → ends 4) ∧ (shape → keyOk → ¬signed → ends 3) ∧ (shape → keyOk → signed → ver < Config.fwFloor.toNat → ends 5) ∧
         (shape → keyOk → signed → Config.fwFloor.toNat ≤ ver → exec .firmwareVerifyDone s = .next { s with boot := { s.boot with
           fwstat := 1, fwver := ver, brstate := 5, image := img, imageHash := sha256 img } })))) ∧
  (∀ s port, Reaches s port → s.ctlsem = port + 1 → 3 ≤ s.boot.brstate → s.boot.brstate ≤ 6 → exec (.attgo port) s = .next { s with boot :=
    if s.boot.signing = true then { s.boot with attstat := 2 } else if 32768 ≤ s.boot.attCount then { s.boot with attstat := 3 }
    else { s.boot with signing := true } }) ∧
  (∀ s, s.biv.phase ≠ 2 → s.boot.signing = true → ∃ t, exec .attestationReportDone s = .next t ∧ { t with boot := s.boot } = s ∧ t.boot.attstat = 1 ∧ t.boot.signing = false ∧
    t.boot.attCount = s.boot.attCount + 1 ∧ (∀ k, k < 32 → t.boot.report.getD k 0 = Memory.rd s.boot.nonce k) ∧
    ((s.boot.brstate ≠ 5 ∨ s.boot.imageHash.length = 32) → t.boot.report.length = 2764) ∧
    { t.boot with report := s.boot.report, attstat := s.boot.attstat, attCount := s.boot.attCount, signing := true } = s.boot) ∧
  (∀ s held, ∃ t, exec (.deviceReset held) s = .next t ∧ t.mem = (if held then s.mem else []) ∧
    (∀ ix dur a, t.rdB ⟨.mem ix dur, a⟩ = if held then s.rdB ⟨.mem ix dur, a⟩ else 0) ∧ t.flash = s.flash ∧ t.wear = s.wear ∧
    t.boot = { Boot.empty with attCount := s.boot.attCount } ∧ t.groups = [] ∧ t.teams = [] ∧ t.columns = [] ∧ t.tenants = [] ∧ t.launches = [] ∧ t.sram = [] ∧
    t.jobs = [] ∧ t.items = [] ∧ t.dirs = [] ∧ t.regions = [] ∧ t.set = State.reset.set ∧ t.ctlsem = 0 ∧ t.biv.phase = 0 ∧
    (held = false → t.rjobs = []) ∧
    (held = true → ∀ j ∈ s.rjobs, j.hasArea = true → ∃ k ∈ t.rjobs, { k with
      progress := j.progress, rolling := j.rolling, want := j.want, containing := j.containing, container := j.container, sealed := j.sealed } = j ∧
      k.progress = none ∧ k.rolling = false ∧ k.containing = [] ∧ k.container = none ∧
      k.sealed.map (·.gen) = j.sealed.map (·.gen))) ∧
  (∀ s die, ∃ t, exec (.computeDieReset die) s = .next t ∧ t.mem = s.mem ∧ t.fill = s.fill ∧ t.jobs = s.jobs ∧ t.installs = s.installs ∧ t.flash = s.flash ∧ t.launches = s.launches ∧ t.items = s.items ∧
    (∀ c, c / 64 = die → (t.col c).slots = [] ∧ (t.col c).accum = [] ∧ (t.col c).slotHeld = [] ∧ (t.col c).bankHeld = [] ∧ (t.col c).ops = [] ∧
      (t.col c).replays = (s.col c).replays) ∧
    (∀ c, c / 64 ≠ die → { t.col c with ops := (s.col c).ops } = s.col c ∧ ∀ o, o ∈ (t.col c).ops ↔ o ∈ (s.col c).ops ∧
      ∀ x ∈ s.teams, x.ended = false → x.col < 512 → x.col / 64 = die → (s.grpAt o.grp).team ≠ x.uid) ∧ (∀ r a, r / 16 ≠ die → a < 2 ^ 27 → Memory.rd t.sram (2 ^ 27 * r + a) = Memory.rd s.sram (2 ^ 27 * r + a)) ∧
    (∀ r a, r / 16 = die → a < 2 ^ 27 → Memory.rd t.sram (2 ^ 27 * r + a) = 0) ∧
    ∀ x, Only s x → x.ended = false → x.col < 512 → x.col / 64 = die → ∀ j, IsJob s x.ten (s.launchOf x.ten x.launch).job j →
      (t.teamOf x.uid).stopped = true ∧ ∃ k, IsJob t x.ten (s.launchOf x.ten x.launch).job k ∧ k.rolling = true ∧ k.gen = j.gen)

/-! ## Words, steps, faults and reset (R27 to R50, R260, R278 to R284, R302, R346, R355) -/

namespace Sys2Proof.Claims

/-- The opcodes of R47. -/
def defined (opc : Nat) : Bool :=
  let span (lo hi : Nat) : Bool := lo ≤ opc && opc ≤ hi
  span 0x000 0x01A || span 0x080 0x09E || span 0x0A0 0x0AA || span 0x100 0x113 || span 0x120 0x123 || span 0x180 0x189 || span 0x200 0x20D ||
    span 0x210 0x21A || span 0x220 0x222 || span 0x280 0x28C || span 0x300 0x314 || span 0x380 0x386

/-- The opcode of a full form, and the pair opcodes, PMODs of a pair form. -/
def opcOf (w : Word) : Nat := w.toNat / 2 ^ 53 % 2 ^ 10
def halfOf (w : Word) (h1 : Bool) : Nat := w.toNat / (if h1 then 1 else 2 ^ 31) % 2 ^ 31

end Sys2Proof.Claims

/-- R27, R31 to R34, R39, R40: Decoding the words of a well-formed instruction gives it back with every operand, whatever
word follows; and a word that decodes is the encoding of the well-formed instruction it decodes to, so each has one
meaning. -/
def Obligations.EncodingRoundTrip : Prop :=
  (∀ i, i.wf = true → i.isWord = true → (encode i).length = i.words ∧ ∀ lit, match encode i with
    | [w] => decode w lit = .ok i ∧ hasLit w = false
    | [w, v] => decode w v = .ok i ∧ hasLit w = true
    | _ => False) ∧
  (∀ w lit i, decode w lit = .ok i → i.wf = true ∧ i.isWord = true ∧ encode i = if hasLit w then [w, lit] else [w])

/-- R31, R39, R47, R49: The words the encoding chapter works out, and its words that are no instruction; an undefined
opcode, bit 62 of a pair, a pair opcode of 0x2A or above or a non-zero PMOD is an illegal instruction. -/
def Obligations.EncodingWords : Prop :=
  (decode 0x10200601C0000008 0 = .ok (.vadd ⟨0, 3, .reg 3, .cst 0, .reg 0, 8⟩) ∧
    decode 0x002005C000000400 0x123456789ABCDEF0 = .ok (.smov ⟨0, 2, .litWord 0x123456789ABCDEF0, .reg 0, .reg 0, 0⟩) ∧
    decode 0x3020008300202922 0 = .ok (.st ⟨0, 0, .sca 6, .reg 1, .reg 5, 0x122⟩) ∧
    decode 0 0 = .ok (.nop ⟨0, 0, .reg 0, .reg 0, .reg 0, 0⟩) ∧
    decode 0x8000000000000000 0 = .ok (.pairNop ⟨.nop, 0, .reg 0⟩)) ∧
  (decode 0xFFFFFFFFFFFFFFFF 0 = .error .illegalInstruction ∧ decode 0x0020000000000400 0 = .error .illegalInstruction ∧
    decode 0x0020040000000000 0 = .error (.illegalOperand 1) ∧ decode 0x7FE0000000000000 0 = .error .illegalInstruction ∧
    decode 0x30200083002029E2 0 = .error .illegalInstruction ∧ decode 0x3020008300202B22 0 = .error .illegalInstruction ∧
    decode 0x81027FE00D0500C1 0 = .error .illegalInstruction) ∧
  (∀ w lit : Word, w.getLsbD 63 = false → defined (opcOf w) = false → decode w lit = .error .illegalInstruction) ∧
  (∀ w lit : Word, w.getLsbD 63 = true → (w.getLsbD 62 = true ∨ (∃ h, 0x2A ≤ halfOf w h / 2 ^ 24) ∨ ∃ h, halfOf w h % 2 ^ 6 ≠ 0) →
    decode w lit = .error .illegalInstruction)

/-- R48: NOP has no effect; a word with opcode 0 is NOP when all of its other fields are zero and an illegal instruction
otherwise. -/
def Obligations.NopHasNoEffect : Prop :=
  (∀ f s, Issues (.nop f) f s → ∃ t, exec (.nop f) s = .next t ∧ NoResult (.nop f) s t) ∧
  (∀ w lit : Word, w.getLsbD 63 = false → opcOf w = 0 →
    (w = 0 → decode w lit = .ok (.nop ⟨0, 0, .reg 0, .reg 0, .reg 0, 0⟩)) ∧ (w ≠ 0 → decode w lit = .error .illegalInstruction))

namespace Sys2Proof.Claims

/-- The column a group stands on. -/
def columnOf (s : State) (gi : Nat) : Nat := (s.teamOf (s.grpAt gi).team).col

/-- Split `k` of group `gi` issues: it is the executing one, waits no longer, and its column has issued in this cycle. -/
def issuing (s : State) (gi k : Nat) : State :=
  { s with cur := gi, curSplit := k, issued := columnOf s gi :: s.issued, groups := s.groups.set gi ((s.grpAt gi).setSp k { s.spAt (gi, k) with wait := .none }) }

end Sys2Proof.Claims

/-- R28, R70, R77, R260, R278: A waiting input happens first; else one of what may happen next, and a split that issues is
one that is ready, in a group that runs; of each column that has not issued in this cycle the one ready longest may; a
split whose word decodes to an instruction executes it; a cycle ends once every column with a ready split has issued,
and time passing changes no register, no program counter and no byte of memory. (The list of inputs and the free
choice among what may happen are log entry 9, the passing of time log entry 4.) -/
def Obligations.StepRunsDecoded : Prop :=
  (∀ (s : State) e r, s.inputs = e :: r → step s = Out.after (exec e { s with inputs := r })) ∧
  (∀ (s s' : State) gi k, s.inputs = [] → s.pick = some (.issue gi k, s') → step s = Out.after (s'.issueAt gi k)) ∧
  (∀ (s s' : State) e, s.inputs = [] → s.pick = some (.event e, s') → step s = Out.after (exec e s')) ∧
  (∀ s : State, s.inputs = [] → s.pick = none → step s = .next s.after) ∧
  (∀ (s : State) c s', s.pick = some (c, s') → c ∈ s.options ∧ { s' with freeCtr := s.freeCtr } = s) ∧
  (∀ (s : State) gi k, Choice.issue gi k ∈ s.options → (s.spAt (gi, k)).live = true ∧ (s.grpAt gi).ended = false ∧
    ((s.grpAt gi).stopped = false ∨ ((s.spAt (gi, k)).midway = true ∧ (s.spAt (gi, k)).fault = none)) ∧
    (s.teamOf (s.grpAt gi).team).stopped = false ∧ (s.col (columnOf s gi)).band < 3 ∧ columnOf s gi ∉ s.issued ∧ s.boot.brstate = 5 ∧ s.biv.phase < 2 ∧
    s.ready gi k = true ∧ ∀ g, g < s.groups.length → ∀ m, m < 2 → columnOf s g = columnOf s gi → s.ready g m = true →
      (s.spAt (gi, k)).since ≤ (s.spAt (g, m)).since) ∧
  (∀ (s : State) gi k g m, Choice.issue gi k ∈ s.options → Choice.issue g m ∈ s.options → columnOf s g = columnOf s gi → g = gi ∧ m = k) ∧
  (∀ (s : State) gi k w v ls i, gi < s.groups.length → k < 2 → (s.grpAt gi).suspect = none → (s.spAt (gi, k)).wait.waitsOnly = false →
    (issuing s gi k).fetch (s.teamOf (s.grpAt gi).team) (s.spAt (gi, k)).pc = .ok (w, v, ls) → s.unstaged ls = false → decode w v = .ok i →
    s.issueAt gi k = exec i (issuing s gi k)) ∧
  (∀ t, Out.after (.next t) = .next t.after) ∧
  (∀ s : State, (s.issues ≠ [] → s.after.tick = s.tick ∧ s.after.clock = s.clock ∧ s.after.issued = s.issued) ∧
    (s.issues = [] → s.after.tick = s.tick + 1 ∧ s.clock < s.after.clock ∧ s.after.issued = []) ∧
    { s.after with tick := s.tick, clock := s.clock, issued := s.issued, groups := s.groups, teams := s.teams, rjobs := s.rjobs, debts := s.debts
                   remote := s.remote, nextId := s.nextId } = s ∧
    (∀ d, d ∈ s.after.debts ↔ d ∈ s.debts ∧ s.owing d = true) ∧ (s.away = [] → s.after.remote = s.remote ∧ s.after.nextId = s.nextId) ∧
    ∀ g, (s.after.grpAt g).sregs = (s.grpAt g).sregs ∧ (s.after.grpAt g).vregs = (s.grpAt g).vregs ∧ (s.after.grpAt g).masks = (s.grpAt g).masks ∧
      ∀ k, k < 2 → (s.after.spAt (g, k)).pc = (s.spAt (g, k)).pc)

/-- The model's own: every step from a state whose byte memories have their canonical form answers a next state, in which
they have it. (The canonical form is the model's own, log entry 1.) -/
def Obligations.StepKeepsMemory : Prop :=
  ∀ s : State, s.MemOk → ∃ t, step s = .next t ∧ t.MemOk

namespace Sys2Proof.Claims

/-- The record of a fault of the executing split (R283). -/
structure Recorded (s : State) (f : Flt) (r : FRec) : Prop where
  who : r.ten = s.team.ten ∧ r.launch = s.team.launch ∧ r.team = s.team.id ∧ r.grp = some s.cur ∧ r.gslot = s.grp.slot ∧ r.gid = s.grp.gid ∧ r.col = s.team.col
  place : r.pc = s.split.pc
  gen : r.gen = s.genOf s.team.ten (s.launchOf s.team.ten s.team.launch).job
  what : r.flt = f
  /-- Bit 0 is the split, bit 1 says that the group was stopped already. -/
  flags : r.flags % 2 = s.curSplit ∧ (r.flags / 2 % 2 = 1 ↔ s.grp.stopped = true)

/-- The executing group stops at its split's instruction, and nothing else happens but its record (R280). -/
def Stopped (s t : State) (f : Flt) : Prop :=
  t.grp.stopped = true ∧ t.split = { s.split with fault := some (s.split.pc, f.code) } ∧ t.partner = s.partner ∧
    { t.grp with stopped := s.grp.stopped, saved := s.grp.saved, seq := s.grp.seq, s0 := s.grp.s0, s1 := s.grp.s1 } = s.grp ∧
    (∃ r, t.posts = s.posts ++ [r] ∧ Recorded s f r) ∧ { t with groups := s.groups, posts := s.posts } = s ∧
    (∀ g, g ≠ s.cur → t.grpAt g = s.grpAt g) ∧ t.groups.length = s.groups.length

/-- The code of a decode fault, and its field (R49, R284). -/
def decodeFlt : DecodeFault → Flt
  | .illegalInstruction => { code := 1 }
  | .illegalPairing => { code := 2 }
  | .illegalOperand k => { code := 3, info32 := k }

end Sys2Proof.Claims

/-- R280, R282, R283: Taking a fault stops the whole group where it is and queues a record. R49, R355: a word that is no
instruction, and a register or barrier number at or above the group's count, fault so with nothing else done. R302: an
open region restarts on its first three 0x30, and closes with 0x31 after. R98: a page not present is reported once,
and the split waits. -/
def Obligations.FaultTaking : Prop :=
  (∀ (s : State) f, Here s → s.curSplit < 2 → (f.code ≠ 0x30 ∨ s.grp.regionOpen = false) → Stopped s (s.fault f) f) ∧
  (∀ (s : State) gi k w v ls e, gi < s.groups.length → k < 2 → (s.grpAt gi).suspect = none → (s.spAt (gi, k)).wait.waitsOnly = false →
    (issuing s gi k).fetch (s.teamOf (s.grpAt gi).team) (s.spAt (gi, k)).pc = .ok (w, v, ls) → s.unstaged ls = false → decode w v = .error e →
    ∃ t, s.issueAt gi k = .next t ∧ Stopped (issuing s gi k) t (decodeFlt e)) ∧
  (∀ (s : State) i opc f k, i.full? = some (opc, f) → Here s → s.curSplit < 2 → s.countFault i f = some k →
    ∃ t, exec i s = .next t ∧ Stopped s t { code := 3, info32 := k }) ∧
  (∀ (s : State) f, Here s → f.code = 0x30 → s.grp.regionOpen = true →
    (s.grp.idemRetry < 3 → (s.fault f).grp.idemRetry = s.grp.idemRetry + 1 ∧
      (s.fault f).grp.s0 = { s.grp.s0 with live := true, m0 := s.grp.emask, pc := s.grp.entry, wait := .none, fault := none, named := none, resume := .none, denied := none } ∧
      (s.fault f).grp.s1.live = false ∧ (s.fault f).posts = s.posts ∧ (s.fault f).mem = s.mem ∧ (s.fault f).grp.sregs = s.grp.sregs ∧
      (s.fault f).grp.vregs = s.grp.vregs ∧ ∀ p ∈ (s.fault f).pend, p.grp = s.cur → p.dst = .none) ∧
    (3 ≤ s.grp.idemRetry → (s.fault f).grp.regionOpen = false ∧ (s.fault f).grp.stopped = true ∧
      ∃ r, (s.fault f).posts = s.posts ++ [r] ∧ r.flt = { f with code := 0x31, info32 := 3 })) ∧
  (∀ (s : State) gi k ten p m f, gi < s.groups.length → k < 2 → (s.grpAt gi).suspect = none → (s.spAt (gi, k)).wait.waitsOnly = false →
    (issuing s gi k).fetch (s.teamOf (s.grpAt gi).team) (s.spAt (gi, k)).pc = .wait ten p m f →
    ∃ t, s.issueAt gi k = .next t ∧ t.spAt (gi, k) = { s.spAt (gi, k) with wait := .fetching ten p f } ∧ (ten, p) ∈ t.reports ∧
      ((ten, p) ∈ s.reports → t.told = s.told ∧ t.reports = s.reports) ∧ ((ten, p) ∉ s.reports → t.told = .report ten p m :: s.told))

/-- R73, R77, R83, R112, R219, R274, R276, R290, R297, R336, R340, R346: What the rules give for reset: no tenant, no
team, no launch, BRSTATE 0, no port owning the semaphore, the settings at their values, every link's threshold at 50,
memory with nothing listed, in its canonical form. (That unlisted memory reads zero is log entry 1.) -/
def Obligations.ResetState : Prop :=
  (State.reset.boot.brstate = 0 ∧ State.reset.ctlsem = 0 ∧ State.reset.tenants = [] ∧ State.reset.teams = [] ∧ State.reset.groups = [] ∧
    State.reset.launches = [] ∧ State.reset.biv.phase = 0) ∧
  (State.reset.set.floor = 700 ∧ State.reset.set.aging = 2 ^ 24 ∧ State.reset.set.depth = 32 ∧ State.reset.set.budget = 50 ∧
    State.reset.set.proofEvery = 4096 ∧ State.reset.set.dirArea = 4 * 2 ^ 30 ∧ State.reset.set.yieldLimit = 2 ^ 20 ∧
    State.reset.set.stagingSize = 128 * 2 ^ 30 ∧ State.reset.set.supervisor = none ∧ ∀ n, (State.reset.link n).berth = 50) ∧
  State.reset.MemOk ∧ (∀ l : Loc, (∃ ix dur, l.sp = .mem ix dur) ∨ l.sp = .flash ∨ (∃ r, l.sp = .sram r) → State.reset.rdB l = 0)
end

