-- ==== Sys2Proof/Laws/Walk.lean ====
section
/-!
SUPPORT. Laws of translation: a walk depends on the page number alone, and a range of translated bytes can be read.
-/
namespace Sys2Proof.Machine

theorem walkFrom_page (s : State) {a b : Nat} (h : a / 4096 = b / 4096) (fuel tbl : Nat) : s.walkFrom a fuel tbl = s.walkFrom b fuel tbl := by
  induction fuel generalizing tbl with
  | zero => rfl
  | succ n ih =>
    have hd : a / 2 ^ (48 - 9 * (4 - n)) = b / 2 ^ (48 - 9 * (4 - n)) := by
      rw [show 48 - 9 * (4 - n) = 12 + (36 - 9 * (4 - n)) by omega, Nat.pow_add, ← Nat.div_div_eq_div_mul, ← Nat.div_div_eq_div_mul]
      exact congrArg (· / _) h
    simp only [State.walkFrom, hd, ih]

/-- Two addresses of one 4 KiB page have one walk (R95, R96). -/
theorem walk_page (s : State) (ten : Nat) {a b : Nat} (h : a / 4096 = b / 4096) : s.walk ten a = s.walk ten b := by
  unfold State.walk
  split
  · exact walkFrom_page s h ..
  · rfl

/-- Bytes whose pages are all present and the tenant's can be read. -/
theorem virtRead?_isSome (s : State) (ten a n : Nat) (hb : a + n ≤ 2 ^ 48) (h : ∀ k, k < n → ∃ e, s.walk ten (a + k) = .leaf e ∧ pteTen e = ten) :
    (s.virtRead? ten a n).isSome = true := by
  induction n generalizing a with
  | zero => rfl
  | succ n ih =>
    obtain ⟨e, he, ht⟩ := h 0 (Nat.succ_pos n)
    have hr := ih (a + 1) (by omega) fun k hk => by
      obtain ⟨e, he⟩ := h (k + 1) (Nat.succ_lt_succ hk)
      exact ⟨e, by rw [Nat.add_assoc, Nat.add_comm 1 k]; exact he⟩
    simp only [State.virtRead?, if_neg (show ¬2 ^ 48 ≤ a by omega), show s.walk ten a = .leaf e from he, ht, if_true]
    simpa using hr

/-- Bytes none of which lies in flash that the staging cache does not hold are missing nowhere (R77). -/
theorem virtMiss_nil (s : State) (ten a n : Nat) (h : ∀ k, k < n → ∀ e, s.walk ten (a + k) = .leaf e → s.granuleReady (leafLoc e (a + k)) = true) :
    s.virtMiss ten a n = [] := by
  refine List.filterMap_eq_nil_iff.mpr fun k hk => ?_
  split
  · rfl
  · split
    · next e he => simp [h k (List.mem_range.mp hk) e he]
    · rfl

/-- The first byte's place is missing where it is such a one. -/
theorem virtMiss_ne_nil (s : State) (ten a n : Nat) (e : Nat) (hn : 0 < n) (ha : a < 2 ^ 48) (hw : s.walk ten a = .leaf e) (ht : pteTen e = ten)
    (hr : s.granuleReady (leafLoc e a) = false) : s.virtMiss ten a n ≠ [] :=
  List.ne_nil_of_mem (a := leafLoc e a) (List.mem_filterMap.mpr ⟨0, List.mem_range.mpr hn, by
    simp only [Nat.add_zero, if_neg (Nat.not_le.mpr ha), hw, ht, hr, beq_self_eq_true, Bool.not_false, Bool.and_self, if_true]⟩)

end Sys2Proof.Machine
end

