-- ==== Sys2Proof/Laws/Install.lean ====
section
/-!
SUPPORT. Laws of installs: when the source of a unit reads, and when it waits.
-/
namespace Sys2Proof.Machine
theorem checkAll_map {α β : Type} (k : α → Chk β) (g : α → β) (l : List α) (h : ∀ x ∈ l, k x = .ok (g x)) : checkAll k l = .ok (l.map g) := by
  induction l with
  | nil => rfl
  | cons x r ih => simp only [checkAll, h x (.head _), Chk.bind, ih fun z hz => h z (.tail _ hz), List.map_cons]

/-- A unit's source reads where every line of it translates, line by line (R80). -/
theorem unitSource_ok (s : State) (ten src : Nat) (g : Nat → Loc) (ha : src % 64 = 0) (hp : src < 3 * 2 ^ 60) (hs : src % 2 ^ 60 + unitBytes ≤ 2 ^ 48)
    (h : ∀ k, k < unitBytes / 64 → s.translate ten (src % 2 ^ 60 + 64 * k) (src + 64 * k) .engRead false = .ok (g k)) :
    s.unitSource ten src = .ok ((List.range (unitBytes / 64)).map g) := by
  have hb : src % 2 ^ 60 < 2 ^ 48 := by unfold unitBytes at hs; omega
  have : ¬(src % 64 != 0 || decide (3 * 2 ^ 60 ≤ src) || src % 2 ^ 60 / 2 ^ 48 != 0) = true := by simp; omega
  rw [State.unitSource, if_neg this]
  refine checkAll_map _ g _ fun k hk => ?_
  have hk := List.mem_range.mp hk
  rw [if_pos (by unfold unitBytes at hk hs; omega)]; exact h k hk

/-- The first line's page not present makes the unit wait (R80, R98). -/
theorem unitSource_wait (s : State) (ten src : Nat) (ha : src % 64 = 0) (hp : src < 3 * 2 ^ 60) (hs : src % 2 ^ 60 < 2 ^ 48) {t p : Nat} {m : Bool} {f : Flt}
    (h : s.translate ten (src % 2 ^ 60) src .engRead false = .wait t p m f) : s.unitSource ten src = .wait t p m f := by
  have : ¬(src % 64 != 0 || decide (3 * 2 ^ 60 ≤ src) || src % 2 ^ 60 / 2 ^ 48 != 0) = true := by simp; omega
  rw [State.unitSource, if_neg this, show unitBytes / 64 = 32767 + 1 from rfl, List.range_succ_eq_map]
  simp only [checkAll, Nat.mul_zero, Nat.add_zero, if_pos hs, h, Chk.bind]
end Sys2Proof.Machine
end

