-- ==== Sys2Proof/Laws/Map.lean ====
section
/-!
SUPPORT. The laws of the canonical sparse map: read after write, and that every write keeps the form.
-/
namespace Sys2Proof

variable {α : Type}

theorem Map.get_erase (d : α) (m : Map α) (k k' : Nat) :
    Map.get d (Map.erase m k) k' = if k' = k then d else Map.get d m k' := by
  induction m with
  | nil => simp [Map.erase, Map.get]
  | cons p m ih =>
    obtain ⟨k₀, v₀⟩ := p
    simp only [Map.erase, List.filter_cons] at ih ⊢
    by_cases h : k₀ = k
    · subst h
      simp only [bne_self_eq_false, Bool.false_eq_true, if_false, ih, Map.get]
      by_cases h' : k' = k₀
      · simp [h']
      · simp [h', Ne.symm h']
    · have : (k₀ != k) = true := by simpa using h
      simp only [this, if_true, Map.get, ih]
      by_cases h' : k₀ = k'
      · subst h'; simp [h]
      · simp [h']

theorem Map.get_insert (d : α) (m : Map α) (k k' : Nat) (v : α)
    (hk : ∀ p ∈ m, p.1 ≠ k) :
    Map.get d (Map.insert m k v) k' = if k' = k then v else Map.get d m k' := by
  induction m with
  | nil => by_cases h : k = k' <;> simp [Map.insert, Map.get, h, eq_comm]
  | cons p m ih =>
    obtain ⟨k₀, v₀⟩ := p
    have h0 : k₀ ≠ k := hk _ (List.mem_cons_self ..)
    have ih := ih (fun p hp => hk p (List.mem_cons_of_mem _ hp))
    unfold Map.insert
    split
    · by_cases h : k = k'
      · simp [Map.get, h]
      · simp [Map.get, h, Ne.symm h]
    · simp only [Map.get, ih]
      by_cases h : k₀ = k'
      · subst h; simp [h0]
      · simp [h]

theorem Map.erase_ne (m : Map α) (k : Nat) : ∀ p ∈ Map.erase m k, p.1 ≠ k := by
  intro p hp
  simpa using (List.mem_filter.mp hp).2

/-- A read after a write: the value written at its key, every other key as before. -/
theorem Map.get_set [DecidableEq α] (d : α) (m : Map α) (k k' : Nat) (v : α) :
    Map.get d (Map.set d m k v) k' = if k' = k then v else Map.get d m k' := by
  unfold Map.set
  split
  · rename_i h; rw [Map.get_erase]; split <;> simp [h]
  · rw [Map.get_insert _ _ _ _ _ (Map.erase_ne m k), Map.get_erase]
    by_cases h : k' = k <;> simp [h]

@[simp] theorem Map.get_set_self [DecidableEq α] (d : α) (m : Map α) (k : Nat) (v : α) :
    Map.get d (Map.set d m k v) k = v := by simp [Map.get_set]

theorem Map.get_set_ne [DecidableEq α] (d : α) (m : Map α) {k k' : Nat} (v : α) (h : k' ≠ k) :
    Map.get d (Map.set d m k v) k' = Map.get d m k' := by simp [Map.get_set, h]

@[simp] theorem Map.get_nil (d : α) (k : Nat) : Map.get d ([] : Map α) k = d := rfl

/-- The form said over the list: keys pairwise rising, no default listed. -/
theorem Map.wf_iff [DecidableEq α] (d : α) (m : Map α) :
    Map.wf d m = true ↔ m.Pairwise (fun p q => p.1 < q.1) ∧ ∀ p ∈ m, p.2 ≠ d := by
  induction m with
  | nil => simp [Map.wf]
  | cons p m ih =>
    cases m with
    | nil => obtain ⟨k, v⟩ := p; simp [Map.wf]
    | cons q m =>
      obtain ⟨k, v⟩ := p
      obtain ⟨k', v'⟩ := q
      simp only [Map.wf, Bool.and_eq_true, decide_eq_true_eq, bne_iff_ne, ih]
      constructor
      · rintro ⟨⟨hk, hv⟩, hp, hd⟩
        refine ⟨List.pairwise_cons.mpr ⟨?_, hp⟩, ?_⟩
        · intro r hr
          rcases List.mem_cons.mp hr with rfl | hr
          · exact hk
          · exact Nat.lt_trans hk ((List.pairwise_cons.mp hp).1 r hr)
        · intro r hr
          rcases List.mem_cons.mp hr with rfl | hr
          · exact hv
          · exact hd r hr
      · rintro ⟨hp, hd⟩
        have h := List.pairwise_cons.mp hp
        exact ⟨⟨h.1 _ (List.mem_cons_self ..), hd _ (List.mem_cons_self ..)⟩, h.2,
          fun r hr => hd r (List.mem_cons_of_mem _ hr)⟩

theorem Map.mem_insert (m : Map α) (k : Nat) (v : α) (p : Nat × α) :
    p ∈ Map.insert m k v ↔ p = (k, v) ∨ p ∈ m := by
  induction m with
  | nil => simp [Map.insert]
  | cons q m ih =>
    unfold Map.insert
    split
    · simp
    · simp only [List.mem_cons, ih]
      constructor
      · rintro (h | h | h) <;> simp [h]
      · rintro (h | h | h) <;> simp [h]

theorem Map.insert_pairwise (m : Map α) (k : Nat) (v : α)
    (hm : m.Pairwise (fun p q => p.1 < q.1)) (hk : ∀ p ∈ m, p.1 ≠ k) :
    (Map.insert m k v).Pairwise (fun p q => p.1 < q.1) := by
  induction m with
  | nil => simp [Map.insert]
  | cons q m ih =>
    have h := List.pairwise_cons.mp hm
    unfold Map.insert
    split
    · rename_i hlt
      refine List.pairwise_cons.mpr ⟨?_, hm⟩
      intro r hr
      rcases List.mem_cons.mp hr with rfl | hr
      · exact hlt
      · exact Nat.lt_trans hlt (h.1 r hr)
    · rename_i hlt
      have hq : q.1 ≠ k := hk q (List.mem_cons_self ..)
      refine List.pairwise_cons.mpr ⟨?_, ih h.2 (fun p hp => hk p (List.mem_cons_of_mem _ hp))⟩
      intro r hr
      rcases (Map.mem_insert m k v r).mp hr with rfl | hr
      · simp only at hlt ⊢; omega
      · exact h.1 r hr

/-- Every write keeps the canonical form. -/
theorem Map.set_wf [DecidableEq α] (d : α) (m : Map α) (k : Nat) (v : α)
    (h : Map.wf d m = true) : Map.wf d (Map.set d m k v) = true := by
  rw [Map.wf_iff] at h ⊢
  have he : (Map.erase m k).Pairwise (fun p q => p.1 < q.1) := h.1.filter _
  have hd : ∀ p ∈ Map.erase m k, p.2 ≠ d := fun p hp => h.2 p (List.mem_filter.mp hp).1
  unfold Map.set
  split
  · exact ⟨he, hd⟩
  · rename_i hv
    refine ⟨Map.insert_pairwise _ k v he (Map.erase_ne m k), ?_⟩
    intro p hp
    rcases (Map.mem_insert _ k v p).mp hp with rfl | hp
    · exact hv
    · exact hd p hp

theorem Memory.rd_wr (m : Memory) (a b : Nat) (v : Byte) :
    Memory.rd (Memory.wr m a v) b = if b = a then v else Memory.rd m b := Map.get_set _ _ _ _ _

theorem Memory.wr_wf (m : Memory) (a : Nat) (v : Byte) (h : m.wf = true) :
    (Memory.wr m a v).wf = true := Map.set_wf _ _ _ _ h

theorem Memory.wrN_wf (m : Memory) (a n v : Nat) (h : m.wf = true) :
    (Memory.wrN m a n v).wf = true := by
  induction n generalizing m a v with
  | zero => exact h
  | succ n ih => exact ih _ _ _ (Memory.wr_wf _ _ _ h)

/-- A wide store changes no byte outside its own. -/
theorem Memory.rd_wrN_frame (m : Memory) (a n v b : Nat) (h : b < a ∨ a + n ≤ b) :
    Memory.rd (Memory.wrN m a n v) b = Memory.rd m b := by
  induction n generalizing m a v with
  | zero => rfl
  | succ n ih =>
    rw [Memory.wrN, ih _ _ _ (by omega), Memory.rd_wr]
    split
    · omega
    · rfl

/-- A wide read after the wide store of the same place gives the value stored. -/
theorem Memory.rdN_wrN (m : Memory) (a n v : Nat) :
    Memory.rdN (Memory.wrN m a n v) a n = v % 256 ^ n := by
  induction n generalizing m a v with
  | zero => simp [Memory.rdN, Nat.mod_one]
  | succ n ih =>
    rw [Memory.rdN, Memory.wrN, Memory.rd_wrN_frame _ _ _ _ _ (by omega), Memory.rd_wr, if_pos rfl, ih]
    have h := (Nat.mod_mul (a := 256) (b := 256 ^ n) (x := v)).symm
    rw [← Nat.pow_succ'] at h
    simpa using h

end Sys2Proof
end

