-- ==== Sys2Proof/Laws/State.lean ====
section
/-!
SUPPORT. What each named update of the state leaves alone, one lemma per field per update, so that no later
proof unfolds a record update.
-/
namespace Sys2Proof.Machine

variable (s : State)


@[simp] theorem State.setGrpAt_cur (i : Nat) (g : Group) : (s.setGrpAt i g).cur = s.cur := rfl
@[simp] theorem State.setGrpAt_curSplit (i : Nat) (g : Group) : (s.setGrpAt i g).curSplit = s.curSplit := rfl
@[simp] theorem State.setGrpAt_teams (i : Nat) (g : Group) : (s.setGrpAt i g).teams = s.teams := rfl
@[simp] theorem State.setGrpAt_columns (i : Nat) (g : Group) : (s.setGrpAt i g).columns = s.columns := rfl
@[simp] theorem State.setGrpAt_mem (i : Nat) (g : Group) : (s.setGrpAt i g).mem = s.mem := rfl
@[simp] theorem State.setGrpAt_flash (i : Nat) (g : Group) : (s.setGrpAt i g).flash = s.flash := rfl
@[simp] theorem State.setGrpAt_sram (i : Nat) (g : Group) : (s.setGrpAt i g).sram = s.sram := rfl
@[simp] theorem State.setGrpAt_fill (i : Nat) (g : Group) : (s.setGrpAt i g).fill = s.fill := rfl
@[simp] theorem State.setGrpAt_pend (i : Nat) (g : Group) : (s.setGrpAt i g).pend = s.pend := rfl
@[simp] theorem State.setGrpAt_queries (i : Nat) (g : Group) : (s.setGrpAt i g).queries = s.queries := rfl
@[simp] theorem State.setGrpAt_dirs (i : Nat) (g : Group) : (s.setGrpAt i g).dirs = s.dirs := rfl
@[simp] theorem State.setGrpAt_jobs (i : Nat) (g : Group) : (s.setGrpAt i g).jobs = s.jobs := rfl
@[simp] theorem State.setGrpAt_launches (i : Nat) (g : Group) : (s.setGrpAt i g).launches = s.launches := rfl
@[simp] theorem State.setGrpAt_items (i : Nat) (g : Group) : (s.setGrpAt i g).items = s.items := rfl
@[simp] theorem State.setGrpAt_joinWaits (i : Nat) (g : Group) : (s.setGrpAt i g).joinWaits = s.joinWaits := rfl
@[simp] theorem State.setGrpAt_dones (i : Nat) (g : Group) : (s.setGrpAt i g).dones = s.dones := rfl
@[simp] theorem State.setGrpAt_tenants (i : Nat) (g : Group) : (s.setGrpAt i g).tenants = s.tenants := rfl
@[simp] theorem State.setGrpAt_rjobs (i : Nat) (g : Group) : (s.setGrpAt i g).rjobs = s.rjobs := rfl
@[simp] theorem State.setGrpAt_regions (i : Nat) (g : Group) : (s.setGrpAt i g).regions = s.regions := rfl
@[simp] theorem State.setGrpAt_installs (i : Nat) (g : Group) : (s.setGrpAt i g).installs = s.installs := rfl
@[simp] theorem State.setGrpAt_wear (i : Nat) (g : Group) : (s.setGrpAt i g).wear = s.wear := rfl
@[simp] theorem State.setGrpAt_spares (i : Nat) (g : Group) : (s.setGrpAt i g).spares = s.spares := rfl
@[simp] theorem State.setGrpAt_staged (i : Nat) (g : Group) : (s.setGrpAt i g).staged = s.staged := rfl
@[simp] theorem State.setGrpAt_filling (i : Nat) (g : Group) : (s.setGrpAt i g).filling = s.filling := rfl
@[simp] theorem State.setGrpAt_tlb (i : Nat) (g : Group) : (s.setGrpAt i g).tlb = s.tlb := rfl
@[simp] theorem State.setGrpAt_reports (i : Nat) (g : Group) : (s.setGrpAt i g).reports = s.reports := rfl
@[simp] theorem State.setGrpAt_edits (i : Nat) (g : Group) : (s.setGrpAt i g).edits = s.edits := rfl
@[simp] theorem State.setGrpAt_placed (i : Nat) (g : Group) : (s.setGrpAt i g).placed = s.placed := rfl
@[simp] theorem State.setGrpAt_pinned (i : Nat) (g : Group) : (s.setGrpAt i g).pinned = s.pinned := rfl
@[simp] theorem State.setGrpAt_migrations (i : Nat) (g : Group) : (s.setGrpAt i g).migrations = s.migrations := rfl
@[simp] theorem State.setGrpAt_posts (i : Nat) (g : Group) : (s.setGrpAt i g).posts = s.posts := rfl
@[simp] theorem State.setGrpAt_hostq (i : Nat) (g : Group) : (s.setGrpAt i g).hostq = s.hostq := rfl
@[simp] theorem State.setGrpAt_links (i : Nat) (g : Group) : (s.setGrpAt i g).links = s.links := rfl
@[simp] theorem State.setGrpAt_remote (i : Nat) (g : Group) : (s.setGrpAt i g).remote = s.remote := rfl
@[simp] theorem State.setGrpAt_debts (i : Nat) (g : Group) : (s.setGrpAt i g).debts = s.debts := rfl
@[simp] theorem State.setGrpAt_arrivals (i : Nat) (g : Group) : (s.setGrpAt i g).arrivals = s.arrivals := rfl
@[simp] theorem State.setGrpAt_away (i : Nat) (g : Group) : (s.setGrpAt i g).away = s.away := rfl
@[simp] theorem State.setGrpAt_peerWaits (i : Nat) (g : Group) : (s.setGrpAt i g).peerWaits = s.peerWaits := rfl
@[simp] theorem State.setGrpAt_lines (i : Nat) (g : Group) : (s.setGrpAt i g).lines = s.lines := rfl
@[simp] theorem State.setGrpAt_reads (i : Nat) (g : Group) : (s.setGrpAt i g).reads = s.reads := rfl
@[simp] theorem State.setGrpAt_flashReads (i : Nat) (g : Group) : (s.setGrpAt i g).flashReads = s.flashReads := rfl
@[simp] theorem State.setGrpAt_throttled (i : Nat) (g : Group) : (s.setGrpAt i g).throttled = s.throttled := rfl
@[simp] theorem State.setGrpAt_pairs (i : Nat) (g : Group) : (s.setGrpAt i g).pairs = s.pairs := rfl
@[simp] theorem State.setGrpAt_routes (i : Nat) (g : Group) : (s.setGrpAt i g).routes = s.routes := rfl
@[simp] theorem State.setGrpAt_ports (i : Nat) (g : Group) : (s.setGrpAt i g).ports = s.ports := rfl
@[simp] theorem State.setGrpAt_ctlsem (i : Nat) (g : Group) : (s.setGrpAt i g).ctlsem = s.ctlsem := rfl
@[simp] theorem State.setGrpAt_gctl (i : Nat) (g : Group) : (s.setGrpAt i g).gctl = s.gctl := rfl
@[simp] theorem State.setGrpAt_boot (i : Nat) (g : Group) : (s.setGrpAt i g).boot = s.boot := rfl
@[simp] theorem State.setGrpAt_biv (i : Nat) (g : Group) : (s.setGrpAt i g).biv = s.biv := rfl
@[simp] theorem State.setGrpAt_set (i : Nat) (g : Group) : (s.setGrpAt i g).set = s.set := rfl
@[simp] theorem State.setGrpAt_told (i : Nat) (g : Group) : (s.setGrpAt i g).told = s.told := rfl
@[simp] theorem State.setGrpAt_inputs (i : Nat) (g : Group) : (s.setGrpAt i g).inputs = s.inputs := rfl
@[simp] theorem State.setGrpAt_tick (i : Nat) (g : Group) : (s.setGrpAt i g).tick = s.tick := rfl
@[simp] theorem State.setGrpAt_clock (i : Nat) (g : Group) : (s.setGrpAt i g).clock = s.clock := rfl
@[simp] theorem State.setGrpAt_issued (i : Nat) (g : Group) : (s.setGrpAt i g).issued = s.issued := rfl
@[simp] theorem State.setGrpAt_nextId (i : Nat) (g : Group) : (s.setGrpAt i g).nextId = s.nextId := rfl
@[simp] theorem State.setGrpAt_freeCtr (i : Nat) (g : Group) : (s.setGrpAt i g).freeCtr = s.freeCtr := rfl

@[simp] theorem State.setGrp_cur (g : Group) : (s.setGrp g).cur = s.cur := rfl
@[simp] theorem State.setGrp_curSplit (g : Group) : (s.setGrp g).curSplit = s.curSplit := rfl
@[simp] theorem State.setGrp_teams (g : Group) : (s.setGrp g).teams = s.teams := rfl
@[simp] theorem State.setGrp_columns (g : Group) : (s.setGrp g).columns = s.columns := rfl
@[simp] theorem State.setGrp_mem (g : Group) : (s.setGrp g).mem = s.mem := rfl
@[simp] theorem State.setGrp_flash (g : Group) : (s.setGrp g).flash = s.flash := rfl
@[simp] theorem State.setGrp_sram (g : Group) : (s.setGrp g).sram = s.sram := rfl
@[simp] theorem State.setGrp_fill (g : Group) : (s.setGrp g).fill = s.fill := rfl
@[simp] theorem State.setGrp_pend (g : Group) : (s.setGrp g).pend = s.pend := rfl
@[simp] theorem State.setGrp_queries (g : Group) : (s.setGrp g).queries = s.queries := rfl
@[simp] theorem State.setGrp_dirs (g : Group) : (s.setGrp g).dirs = s.dirs := rfl
@[simp] theorem State.setGrp_jobs (g : Group) : (s.setGrp g).jobs = s.jobs := rfl
@[simp] theorem State.setGrp_launches (g : Group) : (s.setGrp g).launches = s.launches := rfl
@[simp] theorem State.setGrp_items (g : Group) : (s.setGrp g).items = s.items := rfl
@[simp] theorem State.setGrp_joinWaits (g : Group) : (s.setGrp g).joinWaits = s.joinWaits := rfl
@[simp] theorem State.setGrp_dones (g : Group) : (s.setGrp g).dones = s.dones := rfl
@[simp] theorem State.setGrp_tenants (g : Group) : (s.setGrp g).tenants = s.tenants := rfl
@[simp] theorem State.setGrp_rjobs (g : Group) : (s.setGrp g).rjobs = s.rjobs := rfl
@[simp] theorem State.setGrp_regions (g : Group) : (s.setGrp g).regions = s.regions := rfl
@[simp] theorem State.setGrp_installs (g : Group) : (s.setGrp g).installs = s.installs := rfl
@[simp] theorem State.setGrp_wear (g : Group) : (s.setGrp g).wear = s.wear := rfl
@[simp] theorem State.setGrp_spares (g : Group) : (s.setGrp g).spares = s.spares := rfl
@[simp] theorem State.setGrp_staged (g : Group) : (s.setGrp g).staged = s.staged := rfl
@[simp] theorem State.setGrp_filling (g : Group) : (s.setGrp g).filling = s.filling := rfl
@[simp] theorem State.setGrp_tlb (g : Group) : (s.setGrp g).tlb = s.tlb := rfl
@[simp] theorem State.setGrp_reports (g : Group) : (s.setGrp g).reports = s.reports := rfl
@[simp] theorem State.setGrp_edits (g : Group) : (s.setGrp g).edits = s.edits := rfl
@[simp] theorem State.setGrp_placed (g : Group) : (s.setGrp g).placed = s.placed := rfl
@[simp] theorem State.setGrp_pinned (g : Group) : (s.setGrp g).pinned = s.pinned := rfl
@[simp] theorem State.setGrp_migrations (g : Group) : (s.setGrp g).migrations = s.migrations := rfl
@[simp] theorem State.setGrp_posts (g : Group) : (s.setGrp g).posts = s.posts := rfl
@[simp] theorem State.setGrp_hostq (g : Group) : (s.setGrp g).hostq = s.hostq := rfl
@[simp] theorem State.setGrp_links (g : Group) : (s.setGrp g).links = s.links := rfl
@[simp] theorem State.setGrp_remote (g : Group) : (s.setGrp g).remote = s.remote := rfl
@[simp] theorem State.setGrp_debts (g : Group) : (s.setGrp g).debts = s.debts := rfl
@[simp] theorem State.setGrp_arrivals (g : Group) : (s.setGrp g).arrivals = s.arrivals := rfl
@[simp] theorem State.setGrp_away (g : Group) : (s.setGrp g).away = s.away := rfl
@[simp] theorem State.setGrp_peerWaits (g : Group) : (s.setGrp g).peerWaits = s.peerWaits := rfl
@[simp] theorem State.setGrp_lines (g : Group) : (s.setGrp g).lines = s.lines := rfl
@[simp] theorem State.setGrp_reads (g : Group) : (s.setGrp g).reads = s.reads := rfl
@[simp] theorem State.setGrp_flashReads (g : Group) : (s.setGrp g).flashReads = s.flashReads := rfl
@[simp] theorem State.setGrp_throttled (g : Group) : (s.setGrp g).throttled = s.throttled := rfl
@[simp] theorem State.setGrp_pairs (g : Group) : (s.setGrp g).pairs = s.pairs := rfl
@[simp] theorem State.setGrp_routes (g : Group) : (s.setGrp g).routes = s.routes := rfl
@[simp] theorem State.setGrp_ports (g : Group) : (s.setGrp g).ports = s.ports := rfl
@[simp] theorem State.setGrp_ctlsem (g : Group) : (s.setGrp g).ctlsem = s.ctlsem := rfl
@[simp] theorem State.setGrp_gctl (g : Group) : (s.setGrp g).gctl = s.gctl := rfl
@[simp] theorem State.setGrp_boot (g : Group) : (s.setGrp g).boot = s.boot := rfl
@[simp] theorem State.setGrp_biv (g : Group) : (s.setGrp g).biv = s.biv := rfl
@[simp] theorem State.setGrp_set (g : Group) : (s.setGrp g).set = s.set := rfl
@[simp] theorem State.setGrp_told (g : Group) : (s.setGrp g).told = s.told := rfl
@[simp] theorem State.setGrp_inputs (g : Group) : (s.setGrp g).inputs = s.inputs := rfl
@[simp] theorem State.setGrp_tick (g : Group) : (s.setGrp g).tick = s.tick := rfl
@[simp] theorem State.setGrp_clock (g : Group) : (s.setGrp g).clock = s.clock := rfl
@[simp] theorem State.setGrp_issued (g : Group) : (s.setGrp g).issued = s.issued := rfl
@[simp] theorem State.setGrp_nextId (g : Group) : (s.setGrp g).nextId = s.nextId := rfl
@[simp] theorem State.setGrp_freeCtr (g : Group) : (s.setGrp g).freeCtr = s.freeCtr := rfl

@[simp] theorem State.setSplit_cur (x : Split) : (s.setSplit x).cur = s.cur := rfl
@[simp] theorem State.setSplit_curSplit (x : Split) : (s.setSplit x).curSplit = s.curSplit := rfl
@[simp] theorem State.setSplit_teams (x : Split) : (s.setSplit x).teams = s.teams := rfl
@[simp] theorem State.setSplit_columns (x : Split) : (s.setSplit x).columns = s.columns := rfl
@[simp] theorem State.setSplit_mem (x : Split) : (s.setSplit x).mem = s.mem := rfl
@[simp] theorem State.setSplit_flash (x : Split) : (s.setSplit x).flash = s.flash := rfl
@[simp] theorem State.setSplit_sram (x : Split) : (s.setSplit x).sram = s.sram := rfl
@[simp] theorem State.setSplit_fill (x : Split) : (s.setSplit x).fill = s.fill := rfl
@[simp] theorem State.setSplit_pend (x : Split) : (s.setSplit x).pend = s.pend := rfl
@[simp] theorem State.setSplit_queries (x : Split) : (s.setSplit x).queries = s.queries := rfl
@[simp] theorem State.setSplit_dirs (x : Split) : (s.setSplit x).dirs = s.dirs := rfl
@[simp] theorem State.setSplit_jobs (x : Split) : (s.setSplit x).jobs = s.jobs := rfl
@[simp] theorem State.setSplit_launches (x : Split) : (s.setSplit x).launches = s.launches := rfl
@[simp] theorem State.setSplit_items (x : Split) : (s.setSplit x).items = s.items := rfl
@[simp] theorem State.setSplit_joinWaits (x : Split) : (s.setSplit x).joinWaits = s.joinWaits := rfl
@[simp] theorem State.setSplit_dones (x : Split) : (s.setSplit x).dones = s.dones := rfl
@[simp] theorem State.setSplit_tenants (x : Split) : (s.setSplit x).tenants = s.tenants := rfl
@[simp] theorem State.setSplit_rjobs (x : Split) : (s.setSplit x).rjobs = s.rjobs := rfl
@[simp] theorem State.setSplit_regions (x : Split) : (s.setSplit x).regions = s.regions := rfl
@[simp] theorem State.setSplit_installs (x : Split) : (s.setSplit x).installs = s.installs := rfl
@[simp] theorem State.setSplit_wear (x : Split) : (s.setSplit x).wear = s.wear := rfl
@[simp] theorem State.setSplit_spares (x : Split) : (s.setSplit x).spares = s.spares := rfl
@[simp] theorem State.setSplit_staged (x : Split) : (s.setSplit x).staged = s.staged := rfl
@[simp] theorem State.setSplit_filling (x : Split) : (s.setSplit x).filling = s.filling := rfl
@[simp] theorem State.setSplit_tlb (x : Split) : (s.setSplit x).tlb = s.tlb := rfl
@[simp] theorem State.setSplit_reports (x : Split) : (s.setSplit x).reports = s.reports := rfl
@[simp] theorem State.setSplit_edits (x : Split) : (s.setSplit x).edits = s.edits := rfl
@[simp] theorem State.setSplit_placed (x : Split) : (s.setSplit x).placed = s.placed := rfl
@[simp] theorem State.setSplit_pinned (x : Split) : (s.setSplit x).pinned = s.pinned := rfl
@[simp] theorem State.setSplit_migrations (x : Split) : (s.setSplit x).migrations = s.migrations := rfl
@[simp] theorem State.setSplit_posts (x : Split) : (s.setSplit x).posts = s.posts := rfl
@[simp] theorem State.setSplit_hostq (x : Split) : (s.setSplit x).hostq = s.hostq := rfl
@[simp] theorem State.setSplit_links (x : Split) : (s.setSplit x).links = s.links := rfl
@[simp] theorem State.setSplit_remote (x : Split) : (s.setSplit x).remote = s.remote := rfl
@[simp] theorem State.setSplit_debts (x : Split) : (s.setSplit x).debts = s.debts := rfl
@[simp] theorem State.setSplit_arrivals (x : Split) : (s.setSplit x).arrivals = s.arrivals := rfl
@[simp] theorem State.setSplit_away (x : Split) : (s.setSplit x).away = s.away := rfl
@[simp] theorem State.setSplit_peerWaits (x : Split) : (s.setSplit x).peerWaits = s.peerWaits := rfl
@[simp] theorem State.setSplit_lines (x : Split) : (s.setSplit x).lines = s.lines := rfl
@[simp] theorem State.setSplit_reads (x : Split) : (s.setSplit x).reads = s.reads := rfl
@[simp] theorem State.setSplit_flashReads (x : Split) : (s.setSplit x).flashReads = s.flashReads := rfl
@[simp] theorem State.setSplit_throttled (x : Split) : (s.setSplit x).throttled = s.throttled := rfl
@[simp] theorem State.setSplit_pairs (x : Split) : (s.setSplit x).pairs = s.pairs := rfl
@[simp] theorem State.setSplit_routes (x : Split) : (s.setSplit x).routes = s.routes := rfl
@[simp] theorem State.setSplit_ports (x : Split) : (s.setSplit x).ports = s.ports := rfl
@[simp] theorem State.setSplit_ctlsem (x : Split) : (s.setSplit x).ctlsem = s.ctlsem := rfl
@[simp] theorem State.setSplit_gctl (x : Split) : (s.setSplit x).gctl = s.gctl := rfl
@[simp] theorem State.setSplit_boot (x : Split) : (s.setSplit x).boot = s.boot := rfl
@[simp] theorem State.setSplit_biv (x : Split) : (s.setSplit x).biv = s.biv := rfl
@[simp] theorem State.setSplit_set (x : Split) : (s.setSplit x).set = s.set := rfl
@[simp] theorem State.setSplit_told (x : Split) : (s.setSplit x).told = s.told := rfl
@[simp] theorem State.setSplit_inputs (x : Split) : (s.setSplit x).inputs = s.inputs := rfl
@[simp] theorem State.setSplit_tick (x : Split) : (s.setSplit x).tick = s.tick := rfl
@[simp] theorem State.setSplit_clock (x : Split) : (s.setSplit x).clock = s.clock := rfl
@[simp] theorem State.setSplit_issued (x : Split) : (s.setSplit x).issued = s.issued := rfl
@[simp] theorem State.setSplit_nextId (x : Split) : (s.setSplit x).nextId = s.nextId := rfl
@[simp] theorem State.setSplit_freeCtr (x : Split) : (s.setSplit x).freeCtr = s.freeCtr := rfl

@[simp] theorem State.goto_cur (p : Word) : (s.goto p).cur = s.cur := rfl
@[simp] theorem State.goto_curSplit (p : Word) : (s.goto p).curSplit = s.curSplit := rfl
@[simp] theorem State.goto_teams (p : Word) : (s.goto p).teams = s.teams := rfl
@[simp] theorem State.goto_columns (p : Word) : (s.goto p).columns = s.columns := rfl
@[simp] theorem State.goto_mem (p : Word) : (s.goto p).mem = s.mem := rfl
@[simp] theorem State.goto_flash (p : Word) : (s.goto p).flash = s.flash := rfl
@[simp] theorem State.goto_sram (p : Word) : (s.goto p).sram = s.sram := rfl
@[simp] theorem State.goto_fill (p : Word) : (s.goto p).fill = s.fill := rfl
@[simp] theorem State.goto_pend (p : Word) : (s.goto p).pend = s.pend := rfl
@[simp] theorem State.goto_queries (p : Word) : (s.goto p).queries = s.queries := rfl
@[simp] theorem State.goto_dirs (p : Word) : (s.goto p).dirs = s.dirs := rfl
@[simp] theorem State.goto_jobs (p : Word) : (s.goto p).jobs = s.jobs := rfl
@[simp] theorem State.goto_launches (p : Word) : (s.goto p).launches = s.launches := rfl
@[simp] theorem State.goto_items (p : Word) : (s.goto p).items = s.items := rfl
@[simp] theorem State.goto_joinWaits (p : Word) : (s.goto p).joinWaits = s.joinWaits := rfl
@[simp] theorem State.goto_dones (p : Word) : (s.goto p).dones = s.dones := rfl
@[simp] theorem State.goto_tenants (p : Word) : (s.goto p).tenants = s.tenants := rfl
@[simp] theorem State.goto_rjobs (p : Word) : (s.goto p).rjobs = s.rjobs := rfl
@[simp] theorem State.goto_regions (p : Word) : (s.goto p).regions = s.regions := rfl
@[simp] theorem State.goto_installs (p : Word) : (s.goto p).installs = s.installs := rfl
@[simp] theorem State.goto_wear (p : Word) : (s.goto p).wear = s.wear := rfl
@[simp] theorem State.goto_spares (p : Word) : (s.goto p).spares = s.spares := rfl
@[simp] theorem State.goto_staged (p : Word) : (s.goto p).staged = s.staged := rfl
@[simp] theorem State.goto_filling (p : Word) : (s.goto p).filling = s.filling := rfl
@[simp] theorem State.goto_tlb (p : Word) : (s.goto p).tlb = s.tlb := rfl
@[simp] theorem State.goto_reports (p : Word) : (s.goto p).reports = s.reports := rfl
@[simp] theorem State.goto_edits (p : Word) : (s.goto p).edits = s.edits := rfl
@[simp] theorem State.goto_placed (p : Word) : (s.goto p).placed = s.placed := rfl
@[simp] theorem State.goto_pinned (p : Word) : (s.goto p).pinned = s.pinned := rfl
@[simp] theorem State.goto_migrations (p : Word) : (s.goto p).migrations = s.migrations := rfl
@[simp] theorem State.goto_posts (p : Word) : (s.goto p).posts = s.posts := rfl
@[simp] theorem State.goto_hostq (p : Word) : (s.goto p).hostq = s.hostq := rfl
@[simp] theorem State.goto_links (p : Word) : (s.goto p).links = s.links := rfl
@[simp] theorem State.goto_remote (p : Word) : (s.goto p).remote = s.remote := rfl
@[simp] theorem State.goto_debts (p : Word) : (s.goto p).debts = s.debts := rfl
@[simp] theorem State.goto_arrivals (p : Word) : (s.goto p).arrivals = s.arrivals := rfl
@[simp] theorem State.goto_away (p : Word) : (s.goto p).away = s.away := rfl
@[simp] theorem State.goto_peerWaits (p : Word) : (s.goto p).peerWaits = s.peerWaits := rfl
@[simp] theorem State.goto_lines (p : Word) : (s.goto p).lines = s.lines := rfl
@[simp] theorem State.goto_reads (p : Word) : (s.goto p).reads = s.reads := rfl
@[simp] theorem State.goto_flashReads (p : Word) : (s.goto p).flashReads = s.flashReads := rfl
@[simp] theorem State.goto_throttled (p : Word) : (s.goto p).throttled = s.throttled := rfl
@[simp] theorem State.goto_pairs (p : Word) : (s.goto p).pairs = s.pairs := rfl
@[simp] theorem State.goto_routes (p : Word) : (s.goto p).routes = s.routes := rfl
@[simp] theorem State.goto_ports (p : Word) : (s.goto p).ports = s.ports := rfl
@[simp] theorem State.goto_ctlsem (p : Word) : (s.goto p).ctlsem = s.ctlsem := rfl
@[simp] theorem State.goto_gctl (p : Word) : (s.goto p).gctl = s.gctl := rfl
@[simp] theorem State.goto_boot (p : Word) : (s.goto p).boot = s.boot := rfl
@[simp] theorem State.goto_biv (p : Word) : (s.goto p).biv = s.biv := rfl
@[simp] theorem State.goto_set (p : Word) : (s.goto p).set = s.set := rfl
@[simp] theorem State.goto_told (p : Word) : (s.goto p).told = s.told := rfl
@[simp] theorem State.goto_inputs (p : Word) : (s.goto p).inputs = s.inputs := rfl
@[simp] theorem State.goto_tick (p : Word) : (s.goto p).tick = s.tick := rfl
@[simp] theorem State.goto_clock (p : Word) : (s.goto p).clock = s.clock := rfl
@[simp] theorem State.goto_issued (p : Word) : (s.goto p).issued = s.issued := rfl
@[simp] theorem State.goto_nextId (p : Word) : (s.goto p).nextId = s.nextId := rfl
@[simp] theorem State.goto_freeCtr (p : Word) : (s.goto p).freeCtr = s.freeCtr := rfl

@[simp] theorem State.retire_cur (i : Instr) : (s.retire i).cur = s.cur := rfl
@[simp] theorem State.retire_curSplit (i : Instr) : (s.retire i).curSplit = s.curSplit := rfl
@[simp] theorem State.retire_teams (i : Instr) : (s.retire i).teams = s.teams := rfl
@[simp] theorem State.retire_columns (i : Instr) : (s.retire i).columns = s.columns := rfl
@[simp] theorem State.retire_mem (i : Instr) : (s.retire i).mem = s.mem := rfl
@[simp] theorem State.retire_flash (i : Instr) : (s.retire i).flash = s.flash := rfl
@[simp] theorem State.retire_sram (i : Instr) : (s.retire i).sram = s.sram := rfl
@[simp] theorem State.retire_fill (i : Instr) : (s.retire i).fill = s.fill := rfl
@[simp] theorem State.retire_pend (i : Instr) : (s.retire i).pend = s.pend := rfl
@[simp] theorem State.retire_queries (i : Instr) : (s.retire i).queries = s.queries := rfl
@[simp] theorem State.retire_dirs (i : Instr) : (s.retire i).dirs = s.dirs := rfl
@[simp] theorem State.retire_jobs (i : Instr) : (s.retire i).jobs = s.jobs := rfl
@[simp] theorem State.retire_launches (i : Instr) : (s.retire i).launches = s.launches := rfl
@[simp] theorem State.retire_items (i : Instr) : (s.retire i).items = s.items := rfl
@[simp] theorem State.retire_joinWaits (i : Instr) : (s.retire i).joinWaits = s.joinWaits := rfl
@[simp] theorem State.retire_dones (i : Instr) : (s.retire i).dones = s.dones := rfl
@[simp] theorem State.retire_tenants (i : Instr) : (s.retire i).tenants = s.tenants := rfl
@[simp] theorem State.retire_rjobs (i : Instr) : (s.retire i).rjobs = s.rjobs := rfl
@[simp] theorem State.retire_regions (i : Instr) : (s.retire i).regions = s.regions := rfl
@[simp] theorem State.retire_installs (i : Instr) : (s.retire i).installs = s.installs := rfl
@[simp] theorem State.retire_wear (i : Instr) : (s.retire i).wear = s.wear := rfl
@[simp] theorem State.retire_spares (i : Instr) : (s.retire i).spares = s.spares := rfl
@[simp] theorem State.retire_staged (i : Instr) : (s.retire i).staged = s.staged := rfl
@[simp] theorem State.retire_filling (i : Instr) : (s.retire i).filling = s.filling := rfl
@[simp] theorem State.retire_tlb (i : Instr) : (s.retire i).tlb = s.tlb := rfl
@[simp] theorem State.retire_reports (i : Instr) : (s.retire i).reports = s.reports := rfl
@[simp] theorem State.retire_edits (i : Instr) : (s.retire i).edits = s.edits := rfl
@[simp] theorem State.retire_placed (i : Instr) : (s.retire i).placed = s.placed := rfl
@[simp] theorem State.retire_pinned (i : Instr) : (s.retire i).pinned = s.pinned := rfl
@[simp] theorem State.retire_migrations (i : Instr) : (s.retire i).migrations = s.migrations := rfl
@[simp] theorem State.retire_posts (i : Instr) : (s.retire i).posts = s.posts := rfl
@[simp] theorem State.retire_hostq (i : Instr) : (s.retire i).hostq = s.hostq := rfl
@[simp] theorem State.retire_links (i : Instr) : (s.retire i).links = s.links := rfl
@[simp] theorem State.retire_remote (i : Instr) : (s.retire i).remote = s.remote := rfl
@[simp] theorem State.retire_debts (i : Instr) : (s.retire i).debts = s.debts := rfl
@[simp] theorem State.retire_arrivals (i : Instr) : (s.retire i).arrivals = s.arrivals := rfl
@[simp] theorem State.retire_away (i : Instr) : (s.retire i).away = s.away := rfl
@[simp] theorem State.retire_peerWaits (i : Instr) : (s.retire i).peerWaits = s.peerWaits := rfl
@[simp] theorem State.retire_lines (i : Instr) : (s.retire i).lines = s.lines := rfl
@[simp] theorem State.retire_reads (i : Instr) : (s.retire i).reads = s.reads := rfl
@[simp] theorem State.retire_flashReads (i : Instr) : (s.retire i).flashReads = s.flashReads := rfl
@[simp] theorem State.retire_throttled (i : Instr) : (s.retire i).throttled = s.throttled := rfl
@[simp] theorem State.retire_pairs (i : Instr) : (s.retire i).pairs = s.pairs := rfl
@[simp] theorem State.retire_routes (i : Instr) : (s.retire i).routes = s.routes := rfl
@[simp] theorem State.retire_ports (i : Instr) : (s.retire i).ports = s.ports := rfl
@[simp] theorem State.retire_ctlsem (i : Instr) : (s.retire i).ctlsem = s.ctlsem := rfl
@[simp] theorem State.retire_gctl (i : Instr) : (s.retire i).gctl = s.gctl := rfl
@[simp] theorem State.retire_boot (i : Instr) : (s.retire i).boot = s.boot := rfl
@[simp] theorem State.retire_biv (i : Instr) : (s.retire i).biv = s.biv := rfl
@[simp] theorem State.retire_set (i : Instr) : (s.retire i).set = s.set := rfl
@[simp] theorem State.retire_told (i : Instr) : (s.retire i).told = s.told := rfl
@[simp] theorem State.retire_inputs (i : Instr) : (s.retire i).inputs = s.inputs := rfl
@[simp] theorem State.retire_tick (i : Instr) : (s.retire i).tick = s.tick := rfl
@[simp] theorem State.retire_clock (i : Instr) : (s.retire i).clock = s.clock := rfl
@[simp] theorem State.retire_issued (i : Instr) : (s.retire i).issued = s.issued := rfl
@[simp] theorem State.retire_nextId (i : Instr) : (s.retire i).nextId = s.nextId := rfl
@[simp] theorem State.retire_freeCtr (i : Instr) : (s.retire i).freeCtr = s.freeCtr := rfl

@[simp] theorem State.waitAt_cur (w : Wait) : (s.waitAt w).cur = s.cur := rfl
@[simp] theorem State.waitAt_curSplit (w : Wait) : (s.waitAt w).curSplit = s.curSplit := rfl
@[simp] theorem State.waitAt_teams (w : Wait) : (s.waitAt w).teams = s.teams := rfl
@[simp] theorem State.waitAt_columns (w : Wait) : (s.waitAt w).columns = s.columns := rfl
@[simp] theorem State.waitAt_mem (w : Wait) : (s.waitAt w).mem = s.mem := rfl
@[simp] theorem State.waitAt_flash (w : Wait) : (s.waitAt w).flash = s.flash := rfl
@[simp] theorem State.waitAt_sram (w : Wait) : (s.waitAt w).sram = s.sram := rfl
@[simp] theorem State.waitAt_fill (w : Wait) : (s.waitAt w).fill = s.fill := rfl
@[simp] theorem State.waitAt_pend (w : Wait) : (s.waitAt w).pend = s.pend := rfl
@[simp] theorem State.waitAt_queries (w : Wait) : (s.waitAt w).queries = s.queries := rfl
@[simp] theorem State.waitAt_dirs (w : Wait) : (s.waitAt w).dirs = s.dirs := rfl
@[simp] theorem State.waitAt_jobs (w : Wait) : (s.waitAt w).jobs = s.jobs := rfl
@[simp] theorem State.waitAt_launches (w : Wait) : (s.waitAt w).launches = s.launches := rfl
@[simp] theorem State.waitAt_items (w : Wait) : (s.waitAt w).items = s.items := rfl
@[simp] theorem State.waitAt_joinWaits (w : Wait) : (s.waitAt w).joinWaits = s.joinWaits := rfl
@[simp] theorem State.waitAt_dones (w : Wait) : (s.waitAt w).dones = s.dones := rfl
@[simp] theorem State.waitAt_tenants (w : Wait) : (s.waitAt w).tenants = s.tenants := rfl
@[simp] theorem State.waitAt_rjobs (w : Wait) : (s.waitAt w).rjobs = s.rjobs := rfl
@[simp] theorem State.waitAt_regions (w : Wait) : (s.waitAt w).regions = s.regions := rfl
@[simp] theorem State.waitAt_installs (w : Wait) : (s.waitAt w).installs = s.installs := rfl
@[simp] theorem State.waitAt_wear (w : Wait) : (s.waitAt w).wear = s.wear := rfl
@[simp] theorem State.waitAt_spares (w : Wait) : (s.waitAt w).spares = s.spares := rfl
@[simp] theorem State.waitAt_staged (w : Wait) : (s.waitAt w).staged = s.staged := rfl
@[simp] theorem State.waitAt_filling (w : Wait) : (s.waitAt w).filling = s.filling := rfl
@[simp] theorem State.waitAt_tlb (w : Wait) : (s.waitAt w).tlb = s.tlb := rfl
@[simp] theorem State.waitAt_reports (w : Wait) : (s.waitAt w).reports = s.reports := rfl
@[simp] theorem State.waitAt_edits (w : Wait) : (s.waitAt w).edits = s.edits := rfl
@[simp] theorem State.waitAt_placed (w : Wait) : (s.waitAt w).placed = s.placed := rfl
@[simp] theorem State.waitAt_pinned (w : Wait) : (s.waitAt w).pinned = s.pinned := rfl
@[simp] theorem State.waitAt_migrations (w : Wait) : (s.waitAt w).migrations = s.migrations := rfl
@[simp] theorem State.waitAt_posts (w : Wait) : (s.waitAt w).posts = s.posts := rfl
@[simp] theorem State.waitAt_hostq (w : Wait) : (s.waitAt w).hostq = s.hostq := rfl
@[simp] theorem State.waitAt_links (w : Wait) : (s.waitAt w).links = s.links := rfl
@[simp] theorem State.waitAt_remote (w : Wait) : (s.waitAt w).remote = s.remote := rfl
@[simp] theorem State.waitAt_debts (w : Wait) : (s.waitAt w).debts = s.debts := rfl
@[simp] theorem State.waitAt_arrivals (w : Wait) : (s.waitAt w).arrivals = s.arrivals := rfl
@[simp] theorem State.waitAt_away (w : Wait) : (s.waitAt w).away = s.away := rfl
@[simp] theorem State.waitAt_peerWaits (w : Wait) : (s.waitAt w).peerWaits = s.peerWaits := rfl
@[simp] theorem State.waitAt_lines (w : Wait) : (s.waitAt w).lines = s.lines := rfl
@[simp] theorem State.waitAt_reads (w : Wait) : (s.waitAt w).reads = s.reads := rfl
@[simp] theorem State.waitAt_flashReads (w : Wait) : (s.waitAt w).flashReads = s.flashReads := rfl
@[simp] theorem State.waitAt_throttled (w : Wait) : (s.waitAt w).throttled = s.throttled := rfl
@[simp] theorem State.waitAt_pairs (w : Wait) : (s.waitAt w).pairs = s.pairs := rfl
@[simp] theorem State.waitAt_routes (w : Wait) : (s.waitAt w).routes = s.routes := rfl
@[simp] theorem State.waitAt_ports (w : Wait) : (s.waitAt w).ports = s.ports := rfl
@[simp] theorem State.waitAt_ctlsem (w : Wait) : (s.waitAt w).ctlsem = s.ctlsem := rfl
@[simp] theorem State.waitAt_gctl (w : Wait) : (s.waitAt w).gctl = s.gctl := rfl
@[simp] theorem State.waitAt_boot (w : Wait) : (s.waitAt w).boot = s.boot := rfl
@[simp] theorem State.waitAt_biv (w : Wait) : (s.waitAt w).biv = s.biv := rfl
@[simp] theorem State.waitAt_set (w : Wait) : (s.waitAt w).set = s.set := rfl
@[simp] theorem State.waitAt_told (w : Wait) : (s.waitAt w).told = s.told := rfl
@[simp] theorem State.waitAt_inputs (w : Wait) : (s.waitAt w).inputs = s.inputs := rfl
@[simp] theorem State.waitAt_tick (w : Wait) : (s.waitAt w).tick = s.tick := rfl
@[simp] theorem State.waitAt_clock (w : Wait) : (s.waitAt w).clock = s.clock := rfl
@[simp] theorem State.waitAt_issued (w : Wait) : (s.waitAt w).issued = s.issued := rfl
@[simp] theorem State.waitAt_nextId (w : Wait) : (s.waitAt w).nextId = s.nextId := rfl
@[simp] theorem State.waitAt_freeCtr (w : Wait) : (s.waitAt w).freeCtr = s.freeCtr := rfl

@[simp] theorem State.wrS_cur (r : Nat) (v : Word) : (s.wrS r v).cur = s.cur := rfl
@[simp] theorem State.wrS_curSplit (r : Nat) (v : Word) : (s.wrS r v).curSplit = s.curSplit := rfl
@[simp] theorem State.wrS_teams (r : Nat) (v : Word) : (s.wrS r v).teams = s.teams := rfl
@[simp] theorem State.wrS_columns (r : Nat) (v : Word) : (s.wrS r v).columns = s.columns := rfl
@[simp] theorem State.wrS_mem (r : Nat) (v : Word) : (s.wrS r v).mem = s.mem := rfl
@[simp] theorem State.wrS_flash (r : Nat) (v : Word) : (s.wrS r v).flash = s.flash := rfl
@[simp] theorem State.wrS_sram (r : Nat) (v : Word) : (s.wrS r v).sram = s.sram := rfl
@[simp] theorem State.wrS_fill (r : Nat) (v : Word) : (s.wrS r v).fill = s.fill := rfl
@[simp] theorem State.wrS_pend (r : Nat) (v : Word) : (s.wrS r v).pend = s.pend := rfl
@[simp] theorem State.wrS_queries (r : Nat) (v : Word) : (s.wrS r v).queries = s.queries := rfl
@[simp] theorem State.wrS_dirs (r : Nat) (v : Word) : (s.wrS r v).dirs = s.dirs := rfl
@[simp] theorem State.wrS_jobs (r : Nat) (v : Word) : (s.wrS r v).jobs = s.jobs := rfl
@[simp] theorem State.wrS_launches (r : Nat) (v : Word) : (s.wrS r v).launches = s.launches := rfl
@[simp] theorem State.wrS_items (r : Nat) (v : Word) : (s.wrS r v).items = s.items := rfl
@[simp] theorem State.wrS_joinWaits (r : Nat) (v : Word) : (s.wrS r v).joinWaits = s.joinWaits := rfl
@[simp] theorem State.wrS_dones (r : Nat) (v : Word) : (s.wrS r v).dones = s.dones := rfl
@[simp] theorem State.wrS_tenants (r : Nat) (v : Word) : (s.wrS r v).tenants = s.tenants := rfl
@[simp] theorem State.wrS_rjobs (r : Nat) (v : Word) : (s.wrS r v).rjobs = s.rjobs := rfl
@[simp] theorem State.wrS_regions (r : Nat) (v : Word) : (s.wrS r v).regions = s.regions := rfl
@[simp] theorem State.wrS_installs (r : Nat) (v : Word) : (s.wrS r v).installs = s.installs := rfl
@[simp] theorem State.wrS_wear (r : Nat) (v : Word) : (s.wrS r v).wear = s.wear := rfl
@[simp] theorem State.wrS_spares (r : Nat) (v : Word) : (s.wrS r v).spares = s.spares := rfl
@[simp] theorem State.wrS_staged (r : Nat) (v : Word) : (s.wrS r v).staged = s.staged := rfl
@[simp] theorem State.wrS_filling (r : Nat) (v : Word) : (s.wrS r v).filling = s.filling := rfl
@[simp] theorem State.wrS_tlb (r : Nat) (v : Word) : (s.wrS r v).tlb = s.tlb := rfl
@[simp] theorem State.wrS_reports (r : Nat) (v : Word) : (s.wrS r v).reports = s.reports := rfl
@[simp] theorem State.wrS_edits (r : Nat) (v : Word) : (s.wrS r v).edits = s.edits := rfl
@[simp] theorem State.wrS_placed (r : Nat) (v : Word) : (s.wrS r v).placed = s.placed := rfl
@[simp] theorem State.wrS_pinned (r : Nat) (v : Word) : (s.wrS r v).pinned = s.pinned := rfl
@[simp] theorem State.wrS_migrations (r : Nat) (v : Word) : (s.wrS r v).migrations = s.migrations := rfl
@[simp] theorem State.wrS_posts (r : Nat) (v : Word) : (s.wrS r v).posts = s.posts := rfl
@[simp] theorem State.wrS_hostq (r : Nat) (v : Word) : (s.wrS r v).hostq = s.hostq := rfl
@[simp] theorem State.wrS_links (r : Nat) (v : Word) : (s.wrS r v).links = s.links := rfl
@[simp] theorem State.wrS_remote (r : Nat) (v : Word) : (s.wrS r v).remote = s.remote := rfl
@[simp] theorem State.wrS_debts (r : Nat) (v : Word) : (s.wrS r v).debts = s.debts := rfl
@[simp] theorem State.wrS_arrivals (r : Nat) (v : Word) : (s.wrS r v).arrivals = s.arrivals := rfl
@[simp] theorem State.wrS_away (r : Nat) (v : Word) : (s.wrS r v).away = s.away := rfl
@[simp] theorem State.wrS_peerWaits (r : Nat) (v : Word) : (s.wrS r v).peerWaits = s.peerWaits := rfl
@[simp] theorem State.wrS_lines (r : Nat) (v : Word) : (s.wrS r v).lines = s.lines := rfl
@[simp] theorem State.wrS_reads (r : Nat) (v : Word) : (s.wrS r v).reads = s.reads := rfl
@[simp] theorem State.wrS_flashReads (r : Nat) (v : Word) : (s.wrS r v).flashReads = s.flashReads := rfl
@[simp] theorem State.wrS_throttled (r : Nat) (v : Word) : (s.wrS r v).throttled = s.throttled := rfl
@[simp] theorem State.wrS_pairs (r : Nat) (v : Word) : (s.wrS r v).pairs = s.pairs := rfl
@[simp] theorem State.wrS_routes (r : Nat) (v : Word) : (s.wrS r v).routes = s.routes := rfl
@[simp] theorem State.wrS_ports (r : Nat) (v : Word) : (s.wrS r v).ports = s.ports := rfl
@[simp] theorem State.wrS_ctlsem (r : Nat) (v : Word) : (s.wrS r v).ctlsem = s.ctlsem := rfl
@[simp] theorem State.wrS_gctl (r : Nat) (v : Word) : (s.wrS r v).gctl = s.gctl := rfl
@[simp] theorem State.wrS_boot (r : Nat) (v : Word) : (s.wrS r v).boot = s.boot := rfl
@[simp] theorem State.wrS_biv (r : Nat) (v : Word) : (s.wrS r v).biv = s.biv := rfl
@[simp] theorem State.wrS_set (r : Nat) (v : Word) : (s.wrS r v).set = s.set := rfl
@[simp] theorem State.wrS_told (r : Nat) (v : Word) : (s.wrS r v).told = s.told := rfl
@[simp] theorem State.wrS_inputs (r : Nat) (v : Word) : (s.wrS r v).inputs = s.inputs := rfl
@[simp] theorem State.wrS_tick (r : Nat) (v : Word) : (s.wrS r v).tick = s.tick := rfl
@[simp] theorem State.wrS_clock (r : Nat) (v : Word) : (s.wrS r v).clock = s.clock := rfl
@[simp] theorem State.wrS_issued (r : Nat) (v : Word) : (s.wrS r v).issued = s.issued := rfl
@[simp] theorem State.wrS_nextId (r : Nat) (v : Word) : (s.wrS r v).nextId = s.nextId := rfl
@[simp] theorem State.wrS_freeCtr (r : Nat) (v : Word) : (s.wrS r v).freeCtr = s.freeCtr := rfl

@[simp] theorem State.wrM_cur (r : Nat) (v : Mask) : (s.wrM r v).cur = s.cur := rfl
@[simp] theorem State.wrM_curSplit (r : Nat) (v : Mask) : (s.wrM r v).curSplit = s.curSplit := rfl
@[simp] theorem State.wrM_teams (r : Nat) (v : Mask) : (s.wrM r v).teams = s.teams := rfl
@[simp] theorem State.wrM_columns (r : Nat) (v : Mask) : (s.wrM r v).columns = s.columns := rfl
@[simp] theorem State.wrM_mem (r : Nat) (v : Mask) : (s.wrM r v).mem = s.mem := rfl
@[simp] theorem State.wrM_flash (r : Nat) (v : Mask) : (s.wrM r v).flash = s.flash := rfl
@[simp] theorem State.wrM_sram (r : Nat) (v : Mask) : (s.wrM r v).sram = s.sram := rfl
@[simp] theorem State.wrM_fill (r : Nat) (v : Mask) : (s.wrM r v).fill = s.fill := rfl
@[simp] theorem State.wrM_pend (r : Nat) (v : Mask) : (s.wrM r v).pend = s.pend := rfl
@[simp] theorem State.wrM_queries (r : Nat) (v : Mask) : (s.wrM r v).queries = s.queries := rfl
@[simp] theorem State.wrM_dirs (r : Nat) (v : Mask) : (s.wrM r v).dirs = s.dirs := rfl
@[simp] theorem State.wrM_jobs (r : Nat) (v : Mask) : (s.wrM r v).jobs = s.jobs := rfl
@[simp] theorem State.wrM_launches (r : Nat) (v : Mask) : (s.wrM r v).launches = s.launches := rfl
@[simp] theorem State.wrM_items (r : Nat) (v : Mask) : (s.wrM r v).items = s.items := rfl
@[simp] theorem State.wrM_joinWaits (r : Nat) (v : Mask) : (s.wrM r v).joinWaits = s.joinWaits := rfl
@[simp] theorem State.wrM_dones (r : Nat) (v : Mask) : (s.wrM r v).dones = s.dones := rfl
@[simp] theorem State.wrM_tenants (r : Nat) (v : Mask) : (s.wrM r v).tenants = s.tenants := rfl
@[simp] theorem State.wrM_rjobs (r : Nat) (v : Mask) : (s.wrM r v).rjobs = s.rjobs := rfl
@[simp] theorem State.wrM_regions (r : Nat) (v : Mask) : (s.wrM r v).regions = s.regions := rfl
@[simp] theorem State.wrM_installs (r : Nat) (v : Mask) : (s.wrM r v).installs = s.installs := rfl
@[simp] theorem State.wrM_wear (r : Nat) (v : Mask) : (s.wrM r v).wear = s.wear := rfl
@[simp] theorem State.wrM_spares (r : Nat) (v : Mask) : (s.wrM r v).spares = s.spares := rfl
@[simp] theorem State.wrM_staged (r : Nat) (v : Mask) : (s.wrM r v).staged = s.staged := rfl
@[simp] theorem State.wrM_filling (r : Nat) (v : Mask) : (s.wrM r v).filling = s.filling := rfl
@[simp] theorem State.wrM_tlb (r : Nat) (v : Mask) : (s.wrM r v).tlb = s.tlb := rfl
@[simp] theorem State.wrM_reports (r : Nat) (v : Mask) : (s.wrM r v).reports = s.reports := rfl
@[simp] theorem State.wrM_edits (r : Nat) (v : Mask) : (s.wrM r v).edits = s.edits := rfl
@[simp] theorem State.wrM_placed (r : Nat) (v : Mask) : (s.wrM r v).placed = s.placed := rfl
@[simp] theorem State.wrM_pinned (r : Nat) (v : Mask) : (s.wrM r v).pinned = s.pinned := rfl
@[simp] theorem State.wrM_migrations (r : Nat) (v : Mask) : (s.wrM r v).migrations = s.migrations := rfl
@[simp] theorem State.wrM_posts (r : Nat) (v : Mask) : (s.wrM r v).posts = s.posts := rfl
@[simp] theorem State.wrM_hostq (r : Nat) (v : Mask) : (s.wrM r v).hostq = s.hostq := rfl
@[simp] theorem State.wrM_links (r : Nat) (v : Mask) : (s.wrM r v).links = s.links := rfl
@[simp] theorem State.wrM_remote (r : Nat) (v : Mask) : (s.wrM r v).remote = s.remote := rfl
@[simp] theorem State.wrM_debts (r : Nat) (v : Mask) : (s.wrM r v).debts = s.debts := rfl
@[simp] theorem State.wrM_arrivals (r : Nat) (v : Mask) : (s.wrM r v).arrivals = s.arrivals := rfl
@[simp] theorem State.wrM_away (r : Nat) (v : Mask) : (s.wrM r v).away = s.away := rfl
@[simp] theorem State.wrM_peerWaits (r : Nat) (v : Mask) : (s.wrM r v).peerWaits = s.peerWaits := rfl
@[simp] theorem State.wrM_lines (r : Nat) (v : Mask) : (s.wrM r v).lines = s.lines := rfl
@[simp] theorem State.wrM_reads (r : Nat) (v : Mask) : (s.wrM r v).reads = s.reads := rfl
@[simp] theorem State.wrM_flashReads (r : Nat) (v : Mask) : (s.wrM r v).flashReads = s.flashReads := rfl
@[simp] theorem State.wrM_throttled (r : Nat) (v : Mask) : (s.wrM r v).throttled = s.throttled := rfl
@[simp] theorem State.wrM_pairs (r : Nat) (v : Mask) : (s.wrM r v).pairs = s.pairs := rfl
@[simp] theorem State.wrM_routes (r : Nat) (v : Mask) : (s.wrM r v).routes = s.routes := rfl
@[simp] theorem State.wrM_ports (r : Nat) (v : Mask) : (s.wrM r v).ports = s.ports := rfl
@[simp] theorem State.wrM_ctlsem (r : Nat) (v : Mask) : (s.wrM r v).ctlsem = s.ctlsem := rfl
@[simp] theorem State.wrM_gctl (r : Nat) (v : Mask) : (s.wrM r v).gctl = s.gctl := rfl
@[simp] theorem State.wrM_boot (r : Nat) (v : Mask) : (s.wrM r v).boot = s.boot := rfl
@[simp] theorem State.wrM_biv (r : Nat) (v : Mask) : (s.wrM r v).biv = s.biv := rfl
@[simp] theorem State.wrM_set (r : Nat) (v : Mask) : (s.wrM r v).set = s.set := rfl
@[simp] theorem State.wrM_told (r : Nat) (v : Mask) : (s.wrM r v).told = s.told := rfl
@[simp] theorem State.wrM_inputs (r : Nat) (v : Mask) : (s.wrM r v).inputs = s.inputs := rfl
@[simp] theorem State.wrM_tick (r : Nat) (v : Mask) : (s.wrM r v).tick = s.tick := rfl
@[simp] theorem State.wrM_clock (r : Nat) (v : Mask) : (s.wrM r v).clock = s.clock := rfl
@[simp] theorem State.wrM_issued (r : Nat) (v : Mask) : (s.wrM r v).issued = s.issued := rfl
@[simp] theorem State.wrM_nextId (r : Nat) (v : Mask) : (s.wrM r v).nextId = s.nextId := rfl
@[simp] theorem State.wrM_freeCtr (r : Nat) (v : Mask) : (s.wrM r v).freeCtr = s.freeCtr := rfl

@[simp] theorem State.wrLanes_cur (w : Bool) (r : Nat) (vs : List (Nat × Nat)) : (s.wrLanes w r vs).cur = s.cur := rfl
@[simp] theorem State.wrLanes_curSplit (w : Bool) (r : Nat) (vs : List (Nat × Nat)) : (s.wrLanes w r vs).curSplit = s.curSplit := rfl
@[simp] theorem State.wrLanes_teams (w : Bool) (r : Nat) (vs : List (Nat × Nat)) : (s.wrLanes w r vs).teams = s.teams := rfl
@[simp] theorem State.wrLanes_columns (w : Bool) (r : Nat) (vs : List (Nat × Nat)) : (s.wrLanes w r vs).columns = s.columns := rfl
@[simp] theorem State.wrLanes_mem (w : Bool) (r : Nat) (vs : List (Nat × Nat)) : (s.wrLanes w r vs).mem = s.mem := rfl
@[simp] theorem State.wrLanes_flash (w : Bool) (r : Nat) (vs : List (Nat × Nat)) : (s.wrLanes w r vs).flash = s.flash := rfl
@[simp] theorem State.wrLanes_sram (w : Bool) (r : Nat) (vs : List (Nat × Nat)) : (s.wrLanes w r vs).sram = s.sram := rfl
@[simp] theorem State.wrLanes_fill (w : Bool) (r : Nat) (vs : List (Nat × Nat)) : (s.wrLanes w r vs).fill = s.fill := rfl
@[simp] theorem State.wrLanes_pend (w : Bool) (r : Nat) (vs : List (Nat × Nat)) : (s.wrLanes w r vs).pend = s.pend := rfl
@[simp] theorem State.wrLanes_queries (w : Bool) (r : Nat) (vs : List (Nat × Nat)) : (s.wrLanes w r vs).queries = s.queries := rfl
@[simp] theorem State.wrLanes_dirs (w : Bool) (r : Nat) (vs : List (Nat × Nat)) : (s.wrLanes w r vs).dirs = s.dirs := rfl
@[simp] theorem State.wrLanes_jobs (w : Bool) (r : Nat) (vs : List (Nat × Nat)) : (s.wrLanes w r vs).jobs = s.jobs := rfl
@[simp] theorem State.wrLanes_launches (w : Bool) (r : Nat) (vs : List (Nat × Nat)) : (s.wrLanes w r vs).launches = s.launches := rfl
@[simp] theorem State.wrLanes_items (w : Bool) (r : Nat) (vs : List (Nat × Nat)) : (s.wrLanes w r vs).items = s.items := rfl
@[simp] theorem State.wrLanes_joinWaits (w : Bool) (r : Nat) (vs : List (Nat × Nat)) : (s.wrLanes w r vs).joinWaits = s.joinWaits := rfl
@[simp] theorem State.wrLanes_dones (w : Bool) (r : Nat) (vs : List (Nat × Nat)) : (s.wrLanes w r vs).dones = s.dones := rfl
@[simp] theorem State.wrLanes_tenants (w : Bool) (r : Nat) (vs : List (Nat × Nat)) : (s.wrLanes w r vs).tenants = s.tenants := rfl
@[simp] theorem State.wrLanes_rjobs (w : Bool) (r : Nat) (vs : List (Nat × Nat)) : (s.wrLanes w r vs).rjobs = s.rjobs := rfl
@[simp] theorem State.wrLanes_regions (w : Bool) (r : Nat) (vs : List (Nat × Nat)) : (s.wrLanes w r vs).regions = s.regions := rfl
@[simp] theorem State.wrLanes_installs (w : Bool) (r : Nat) (vs : List (Nat × Nat)) : (s.wrLanes w r vs).installs = s.installs := rfl
@[simp] theorem State.wrLanes_wear (w : Bool) (r : Nat) (vs : List (Nat × Nat)) : (s.wrLanes w r vs).wear = s.wear := rfl
@[simp] theorem State.wrLanes_spares (w : Bool) (r : Nat) (vs : List (Nat × Nat)) : (s.wrLanes w r vs).spares = s.spares := rfl
@[simp] theorem State.wrLanes_staged (w : Bool) (r : Nat) (vs : List (Nat × Nat)) : (s.wrLanes w r vs).staged = s.staged := rfl
@[simp] theorem State.wrLanes_filling (w : Bool) (r : Nat) (vs : List (Nat × Nat)) : (s.wrLanes w r vs).filling = s.filling := rfl
@[simp] theorem State.wrLanes_tlb (w : Bool) (r : Nat) (vs : List (Nat × Nat)) : (s.wrLanes w r vs).tlb = s.tlb := rfl
@[simp] theorem State.wrLanes_reports (w : Bool) (r : Nat) (vs : List (Nat × Nat)) : (s.wrLanes w r vs).reports = s.reports := rfl
@[simp] theorem State.wrLanes_edits (w : Bool) (r : Nat) (vs : List (Nat × Nat)) : (s.wrLanes w r vs).edits = s.edits := rfl
@[simp] theorem State.wrLanes_placed (w : Bool) (r : Nat) (vs : List (Nat × Nat)) : (s.wrLanes w r vs).placed = s.placed := rfl
@[simp] theorem State.wrLanes_pinned (w : Bool) (r : Nat) (vs : List (Nat × Nat)) : (s.wrLanes w r vs).pinned = s.pinned := rfl
@[simp] theorem State.wrLanes_migrations (w : Bool) (r : Nat) (vs : List (Nat × Nat)) : (s.wrLanes w r vs).migrations = s.migrations := rfl
@[simp] theorem State.wrLanes_posts (w : Bool) (r : Nat) (vs : List (Nat × Nat)) : (s.wrLanes w r vs).posts = s.posts := rfl
@[simp] theorem State.wrLanes_hostq (w : Bool) (r : Nat) (vs : List (Nat × Nat)) : (s.wrLanes w r vs).hostq = s.hostq := rfl
@[simp] theorem State.wrLanes_links (w : Bool) (r : Nat) (vs : List (Nat × Nat)) : (s.wrLanes w r vs).links = s.links := rfl
@[simp] theorem State.wrLanes_remote (w : Bool) (r : Nat) (vs : List (Nat × Nat)) : (s.wrLanes w r vs).remote = s.remote := rfl
@[simp] theorem State.wrLanes_debts (w : Bool) (r : Nat) (vs : List (Nat × Nat)) : (s.wrLanes w r vs).debts = s.debts := rfl
@[simp] theorem State.wrLanes_arrivals (w : Bool) (r : Nat) (vs : List (Nat × Nat)) : (s.wrLanes w r vs).arrivals = s.arrivals := rfl
@[simp] theorem State.wrLanes_away (w : Bool) (r : Nat) (vs : List (Nat × Nat)) : (s.wrLanes w r vs).away = s.away := rfl
@[simp] theorem State.wrLanes_peerWaits (w : Bool) (r : Nat) (vs : List (Nat × Nat)) : (s.wrLanes w r vs).peerWaits = s.peerWaits := rfl
@[simp] theorem State.wrLanes_lines (w : Bool) (r : Nat) (vs : List (Nat × Nat)) : (s.wrLanes w r vs).lines = s.lines := rfl
@[simp] theorem State.wrLanes_reads (w : Bool) (r : Nat) (vs : List (Nat × Nat)) : (s.wrLanes w r vs).reads = s.reads := rfl
@[simp] theorem State.wrLanes_flashReads (w : Bool) (r : Nat) (vs : List (Nat × Nat)) : (s.wrLanes w r vs).flashReads = s.flashReads := rfl
@[simp] theorem State.wrLanes_throttled (w : Bool) (r : Nat) (vs : List (Nat × Nat)) : (s.wrLanes w r vs).throttled = s.throttled := rfl
@[simp] theorem State.wrLanes_pairs (w : Bool) (r : Nat) (vs : List (Nat × Nat)) : (s.wrLanes w r vs).pairs = s.pairs := rfl
@[simp] theorem State.wrLanes_routes (w : Bool) (r : Nat) (vs : List (Nat × Nat)) : (s.wrLanes w r vs).routes = s.routes := rfl
@[simp] theorem State.wrLanes_ports (w : Bool) (r : Nat) (vs : List (Nat × Nat)) : (s.wrLanes w r vs).ports = s.ports := rfl
@[simp] theorem State.wrLanes_ctlsem (w : Bool) (r : Nat) (vs : List (Nat × Nat)) : (s.wrLanes w r vs).ctlsem = s.ctlsem := rfl
@[simp] theorem State.wrLanes_gctl (w : Bool) (r : Nat) (vs : List (Nat × Nat)) : (s.wrLanes w r vs).gctl = s.gctl := rfl
@[simp] theorem State.wrLanes_boot (w : Bool) (r : Nat) (vs : List (Nat × Nat)) : (s.wrLanes w r vs).boot = s.boot := rfl
@[simp] theorem State.wrLanes_biv (w : Bool) (r : Nat) (vs : List (Nat × Nat)) : (s.wrLanes w r vs).biv = s.biv := rfl
@[simp] theorem State.wrLanes_set (w : Bool) (r : Nat) (vs : List (Nat × Nat)) : (s.wrLanes w r vs).set = s.set := rfl
@[simp] theorem State.wrLanes_told (w : Bool) (r : Nat) (vs : List (Nat × Nat)) : (s.wrLanes w r vs).told = s.told := rfl
@[simp] theorem State.wrLanes_inputs (w : Bool) (r : Nat) (vs : List (Nat × Nat)) : (s.wrLanes w r vs).inputs = s.inputs := rfl
@[simp] theorem State.wrLanes_tick (w : Bool) (r : Nat) (vs : List (Nat × Nat)) : (s.wrLanes w r vs).tick = s.tick := rfl
@[simp] theorem State.wrLanes_clock (w : Bool) (r : Nat) (vs : List (Nat × Nat)) : (s.wrLanes w r vs).clock = s.clock := rfl
@[simp] theorem State.wrLanes_issued (w : Bool) (r : Nat) (vs : List (Nat × Nat)) : (s.wrLanes w r vs).issued = s.issued := rfl
@[simp] theorem State.wrLanes_nextId (w : Bool) (r : Nat) (vs : List (Nat × Nat)) : (s.wrLanes w r vs).nextId = s.nextId := rfl
@[simp] theorem State.wrLanes_freeCtr (w : Bool) (r : Nat) (vs : List (Nat × Nat)) : (s.wrLanes w r vs).freeCtr = s.freeCtr := rfl

@[simp] theorem State.retS_cur (i : Instr) (r : BitVec 8) (v : Word) : (s.retS i r v).cur = s.cur := rfl
@[simp] theorem State.retS_curSplit (i : Instr) (r : BitVec 8) (v : Word) : (s.retS i r v).curSplit = s.curSplit := rfl
@[simp] theorem State.retS_teams (i : Instr) (r : BitVec 8) (v : Word) : (s.retS i r v).teams = s.teams := rfl
@[simp] theorem State.retS_columns (i : Instr) (r : BitVec 8) (v : Word) : (s.retS i r v).columns = s.columns := rfl
@[simp] theorem State.retS_mem (i : Instr) (r : BitVec 8) (v : Word) : (s.retS i r v).mem = s.mem := rfl
@[simp] theorem State.retS_flash (i : Instr) (r : BitVec 8) (v : Word) : (s.retS i r v).flash = s.flash := rfl
@[simp] theorem State.retS_sram (i : Instr) (r : BitVec 8) (v : Word) : (s.retS i r v).sram = s.sram := rfl
@[simp] theorem State.retS_fill (i : Instr) (r : BitVec 8) (v : Word) : (s.retS i r v).fill = s.fill := rfl
@[simp] theorem State.retS_pend (i : Instr) (r : BitVec 8) (v : Word) : (s.retS i r v).pend = s.pend := rfl
@[simp] theorem State.retS_queries (i : Instr) (r : BitVec 8) (v : Word) : (s.retS i r v).queries = s.queries := rfl
@[simp] theorem State.retS_dirs (i : Instr) (r : BitVec 8) (v : Word) : (s.retS i r v).dirs = s.dirs := rfl
@[simp] theorem State.retS_jobs (i : Instr) (r : BitVec 8) (v : Word) : (s.retS i r v).jobs = s.jobs := rfl
@[simp] theorem State.retS_launches (i : Instr) (r : BitVec 8) (v : Word) : (s.retS i r v).launches = s.launches := rfl
@[simp] theorem State.retS_items (i : Instr) (r : BitVec 8) (v : Word) : (s.retS i r v).items = s.items := rfl
@[simp] theorem State.retS_joinWaits (i : Instr) (r : BitVec 8) (v : Word) : (s.retS i r v).joinWaits = s.joinWaits := rfl
@[simp] theorem State.retS_dones (i : Instr) (r : BitVec 8) (v : Word) : (s.retS i r v).dones = s.dones := rfl
@[simp] theorem State.retS_tenants (i : Instr) (r : BitVec 8) (v : Word) : (s.retS i r v).tenants = s.tenants := rfl
@[simp] theorem State.retS_rjobs (i : Instr) (r : BitVec 8) (v : Word) : (s.retS i r v).rjobs = s.rjobs := rfl
@[simp] theorem State.retS_regions (i : Instr) (r : BitVec 8) (v : Word) : (s.retS i r v).regions = s.regions := rfl
@[simp] theorem State.retS_installs (i : Instr) (r : BitVec 8) (v : Word) : (s.retS i r v).installs = s.installs := rfl
@[simp] theorem State.retS_wear (i : Instr) (r : BitVec 8) (v : Word) : (s.retS i r v).wear = s.wear := rfl
@[simp] theorem State.retS_spares (i : Instr) (r : BitVec 8) (v : Word) : (s.retS i r v).spares = s.spares := rfl
@[simp] theorem State.retS_staged (i : Instr) (r : BitVec 8) (v : Word) : (s.retS i r v).staged = s.staged := rfl
@[simp] theorem State.retS_filling (i : Instr) (r : BitVec 8) (v : Word) : (s.retS i r v).filling = s.filling := rfl
@[simp] theorem State.retS_tlb (i : Instr) (r : BitVec 8) (v : Word) : (s.retS i r v).tlb = s.tlb := rfl
@[simp] theorem State.retS_reports (i : Instr) (r : BitVec 8) (v : Word) : (s.retS i r v).reports = s.reports := rfl
@[simp] theorem State.retS_edits (i : Instr) (r : BitVec 8) (v : Word) : (s.retS i r v).edits = s.edits := rfl
@[simp] theorem State.retS_placed (i : Instr) (r : BitVec 8) (v : Word) : (s.retS i r v).placed = s.placed := rfl
@[simp] theorem State.retS_pinned (i : Instr) (r : BitVec 8) (v : Word) : (s.retS i r v).pinned = s.pinned := rfl
@[simp] theorem State.retS_migrations (i : Instr) (r : BitVec 8) (v : Word) : (s.retS i r v).migrations = s.migrations := rfl
@[simp] theorem State.retS_posts (i : Instr) (r : BitVec 8) (v : Word) : (s.retS i r v).posts = s.posts := rfl
@[simp] theorem State.retS_hostq (i : Instr) (r : BitVec 8) (v : Word) : (s.retS i r v).hostq = s.hostq := rfl
@[simp] theorem State.retS_links (i : Instr) (r : BitVec 8) (v : Word) : (s.retS i r v).links = s.links := rfl
@[simp] theorem State.retS_remote (i : Instr) (r : BitVec 8) (v : Word) : (s.retS i r v).remote = s.remote := rfl
@[simp] theorem State.retS_debts (i : Instr) (r : BitVec 8) (v : Word) : (s.retS i r v).debts = s.debts := rfl
@[simp] theorem State.retS_arrivals (i : Instr) (r : BitVec 8) (v : Word) : (s.retS i r v).arrivals = s.arrivals := rfl
@[simp] theorem State.retS_away (i : Instr) (r : BitVec 8) (v : Word) : (s.retS i r v).away = s.away := rfl
@[simp] theorem State.retS_peerWaits (i : Instr) (r : BitVec 8) (v : Word) : (s.retS i r v).peerWaits = s.peerWaits := rfl
@[simp] theorem State.retS_lines (i : Instr) (r : BitVec 8) (v : Word) : (s.retS i r v).lines = s.lines := rfl
@[simp] theorem State.retS_reads (i : Instr) (r : BitVec 8) (v : Word) : (s.retS i r v).reads = s.reads := rfl
@[simp] theorem State.retS_flashReads (i : Instr) (r : BitVec 8) (v : Word) : (s.retS i r v).flashReads = s.flashReads := rfl
@[simp] theorem State.retS_throttled (i : Instr) (r : BitVec 8) (v : Word) : (s.retS i r v).throttled = s.throttled := rfl
@[simp] theorem State.retS_pairs (i : Instr) (r : BitVec 8) (v : Word) : (s.retS i r v).pairs = s.pairs := rfl
@[simp] theorem State.retS_routes (i : Instr) (r : BitVec 8) (v : Word) : (s.retS i r v).routes = s.routes := rfl
@[simp] theorem State.retS_ports (i : Instr) (r : BitVec 8) (v : Word) : (s.retS i r v).ports = s.ports := rfl
@[simp] theorem State.retS_ctlsem (i : Instr) (r : BitVec 8) (v : Word) : (s.retS i r v).ctlsem = s.ctlsem := rfl
@[simp] theorem State.retS_gctl (i : Instr) (r : BitVec 8) (v : Word) : (s.retS i r v).gctl = s.gctl := rfl
@[simp] theorem State.retS_boot (i : Instr) (r : BitVec 8) (v : Word) : (s.retS i r v).boot = s.boot := rfl
@[simp] theorem State.retS_biv (i : Instr) (r : BitVec 8) (v : Word) : (s.retS i r v).biv = s.biv := rfl
@[simp] theorem State.retS_set (i : Instr) (r : BitVec 8) (v : Word) : (s.retS i r v).set = s.set := rfl
@[simp] theorem State.retS_told (i : Instr) (r : BitVec 8) (v : Word) : (s.retS i r v).told = s.told := rfl
@[simp] theorem State.retS_inputs (i : Instr) (r : BitVec 8) (v : Word) : (s.retS i r v).inputs = s.inputs := rfl
@[simp] theorem State.retS_tick (i : Instr) (r : BitVec 8) (v : Word) : (s.retS i r v).tick = s.tick := rfl
@[simp] theorem State.retS_clock (i : Instr) (r : BitVec 8) (v : Word) : (s.retS i r v).clock = s.clock := rfl
@[simp] theorem State.retS_issued (i : Instr) (r : BitVec 8) (v : Word) : (s.retS i r v).issued = s.issued := rfl
@[simp] theorem State.retS_nextId (i : Instr) (r : BitVec 8) (v : Word) : (s.retS i r v).nextId = s.nextId := rfl
@[simp] theorem State.retS_freeCtr (i : Instr) (r : BitVec 8) (v : Word) : (s.retS i r v).freeCtr = s.freeCtr := rfl

@[simp] theorem State.closeRegion_cur : (s.closeRegion).cur = s.cur := rfl
@[simp] theorem State.closeRegion_curSplit : (s.closeRegion).curSplit = s.curSplit := rfl
@[simp] theorem State.closeRegion_teams : (s.closeRegion).teams = s.teams := rfl
@[simp] theorem State.closeRegion_columns : (s.closeRegion).columns = s.columns := rfl
@[simp] theorem State.closeRegion_mem : (s.closeRegion).mem = s.mem := rfl
@[simp] theorem State.closeRegion_flash : (s.closeRegion).flash = s.flash := rfl
@[simp] theorem State.closeRegion_sram : (s.closeRegion).sram = s.sram := rfl
@[simp] theorem State.closeRegion_fill : (s.closeRegion).fill = s.fill := rfl
@[simp] theorem State.closeRegion_pend : (s.closeRegion).pend = s.pend := rfl
@[simp] theorem State.closeRegion_queries : (s.closeRegion).queries = s.queries := rfl
@[simp] theorem State.closeRegion_dirs : (s.closeRegion).dirs = s.dirs := rfl
@[simp] theorem State.closeRegion_jobs : (s.closeRegion).jobs = s.jobs := rfl
@[simp] theorem State.closeRegion_launches : (s.closeRegion).launches = s.launches := rfl
@[simp] theorem State.closeRegion_items : (s.closeRegion).items = s.items := rfl
@[simp] theorem State.closeRegion_joinWaits : (s.closeRegion).joinWaits = s.joinWaits := rfl
@[simp] theorem State.closeRegion_dones : (s.closeRegion).dones = s.dones := rfl
@[simp] theorem State.closeRegion_tenants : (s.closeRegion).tenants = s.tenants := rfl
@[simp] theorem State.closeRegion_rjobs : (s.closeRegion).rjobs = s.rjobs := rfl
@[simp] theorem State.closeRegion_regions : (s.closeRegion).regions = s.regions := rfl
@[simp] theorem State.closeRegion_installs : (s.closeRegion).installs = s.installs := rfl
@[simp] theorem State.closeRegion_wear : (s.closeRegion).wear = s.wear := rfl
@[simp] theorem State.closeRegion_spares : (s.closeRegion).spares = s.spares := rfl
@[simp] theorem State.closeRegion_staged : (s.closeRegion).staged = s.staged := rfl
@[simp] theorem State.closeRegion_filling : (s.closeRegion).filling = s.filling := rfl
@[simp] theorem State.closeRegion_tlb : (s.closeRegion).tlb = s.tlb := rfl
@[simp] theorem State.closeRegion_reports : (s.closeRegion).reports = s.reports := rfl
@[simp] theorem State.closeRegion_edits : (s.closeRegion).edits = s.edits := rfl
@[simp] theorem State.closeRegion_placed : (s.closeRegion).placed = s.placed := rfl
@[simp] theorem State.closeRegion_pinned : (s.closeRegion).pinned = s.pinned := rfl
@[simp] theorem State.closeRegion_migrations : (s.closeRegion).migrations = s.migrations := rfl
@[simp] theorem State.closeRegion_posts : (s.closeRegion).posts = s.posts := rfl
@[simp] theorem State.closeRegion_hostq : (s.closeRegion).hostq = s.hostq := rfl
@[simp] theorem State.closeRegion_links : (s.closeRegion).links = s.links := rfl
@[simp] theorem State.closeRegion_remote : (s.closeRegion).remote = s.remote := rfl
@[simp] theorem State.closeRegion_debts : (s.closeRegion).debts = s.debts := rfl
@[simp] theorem State.closeRegion_arrivals : (s.closeRegion).arrivals = s.arrivals := rfl
@[simp] theorem State.closeRegion_away : (s.closeRegion).away = s.away := rfl
@[simp] theorem State.closeRegion_peerWaits : (s.closeRegion).peerWaits = s.peerWaits := rfl
@[simp] theorem State.closeRegion_lines : (s.closeRegion).lines = s.lines := rfl
@[simp] theorem State.closeRegion_reads : (s.closeRegion).reads = s.reads := rfl
@[simp] theorem State.closeRegion_flashReads : (s.closeRegion).flashReads = s.flashReads := rfl
@[simp] theorem State.closeRegion_throttled : (s.closeRegion).throttled = s.throttled := rfl
@[simp] theorem State.closeRegion_pairs : (s.closeRegion).pairs = s.pairs := rfl
@[simp] theorem State.closeRegion_routes : (s.closeRegion).routes = s.routes := rfl
@[simp] theorem State.closeRegion_ports : (s.closeRegion).ports = s.ports := rfl
@[simp] theorem State.closeRegion_ctlsem : (s.closeRegion).ctlsem = s.ctlsem := rfl
@[simp] theorem State.closeRegion_gctl : (s.closeRegion).gctl = s.gctl := rfl
@[simp] theorem State.closeRegion_boot : (s.closeRegion).boot = s.boot := rfl
@[simp] theorem State.closeRegion_biv : (s.closeRegion).biv = s.biv := rfl
@[simp] theorem State.closeRegion_set : (s.closeRegion).set = s.set := rfl
@[simp] theorem State.closeRegion_told : (s.closeRegion).told = s.told := rfl
@[simp] theorem State.closeRegion_inputs : (s.closeRegion).inputs = s.inputs := rfl
@[simp] theorem State.closeRegion_tick : (s.closeRegion).tick = s.tick := rfl
@[simp] theorem State.closeRegion_clock : (s.closeRegion).clock = s.clock := rfl
@[simp] theorem State.closeRegion_issued : (s.closeRegion).issued = s.issued := rfl
@[simp] theorem State.closeRegion_nextId : (s.closeRegion).nextId = s.nextId := rfl
@[simp] theorem State.closeRegion_freeCtr : (s.closeRegion).freeCtr = s.freeCtr := rfl

@[simp] theorem State.setTeam_cur (t : Team) : (s.setTeam t).cur = s.cur := rfl
@[simp] theorem State.setTeam_curSplit (t : Team) : (s.setTeam t).curSplit = s.curSplit := rfl
@[simp] theorem State.setTeam_groups (t : Team) : (s.setTeam t).groups = s.groups := rfl
@[simp] theorem State.setTeam_columns (t : Team) : (s.setTeam t).columns = s.columns := rfl
@[simp] theorem State.setTeam_mem (t : Team) : (s.setTeam t).mem = s.mem := rfl
@[simp] theorem State.setTeam_flash (t : Team) : (s.setTeam t).flash = s.flash := rfl
@[simp] theorem State.setTeam_sram (t : Team) : (s.setTeam t).sram = s.sram := rfl
@[simp] theorem State.setTeam_fill (t : Team) : (s.setTeam t).fill = s.fill := rfl
@[simp] theorem State.setTeam_pend (t : Team) : (s.setTeam t).pend = s.pend := rfl
@[simp] theorem State.setTeam_queries (t : Team) : (s.setTeam t).queries = s.queries := rfl
@[simp] theorem State.setTeam_dirs (t : Team) : (s.setTeam t).dirs = s.dirs := rfl
@[simp] theorem State.setTeam_jobs (t : Team) : (s.setTeam t).jobs = s.jobs := rfl
@[simp] theorem State.setTeam_launches (t : Team) : (s.setTeam t).launches = s.launches := rfl
@[simp] theorem State.setTeam_items (t : Team) : (s.setTeam t).items = s.items := rfl
@[simp] theorem State.setTeam_joinWaits (t : Team) : (s.setTeam t).joinWaits = s.joinWaits := rfl
@[simp] theorem State.setTeam_dones (t : Team) : (s.setTeam t).dones = s.dones := rfl
@[simp] theorem State.setTeam_tenants (t : Team) : (s.setTeam t).tenants = s.tenants := rfl
@[simp] theorem State.setTeam_rjobs (t : Team) : (s.setTeam t).rjobs = s.rjobs := rfl
@[simp] theorem State.setTeam_regions (t : Team) : (s.setTeam t).regions = s.regions := rfl
@[simp] theorem State.setTeam_installs (t : Team) : (s.setTeam t).installs = s.installs := rfl
@[simp] theorem State.setTeam_wear (t : Team) : (s.setTeam t).wear = s.wear := rfl
@[simp] theorem State.setTeam_spares (t : Team) : (s.setTeam t).spares = s.spares := rfl
@[simp] theorem State.setTeam_staged (t : Team) : (s.setTeam t).staged = s.staged := rfl
@[simp] theorem State.setTeam_filling (t : Team) : (s.setTeam t).filling = s.filling := rfl
@[simp] theorem State.setTeam_tlb (t : Team) : (s.setTeam t).tlb = s.tlb := rfl
@[simp] theorem State.setTeam_reports (t : Team) : (s.setTeam t).reports = s.reports := rfl
@[simp] theorem State.setTeam_edits (t : Team) : (s.setTeam t).edits = s.edits := rfl
@[simp] theorem State.setTeam_placed (t : Team) : (s.setTeam t).placed = s.placed := rfl
@[simp] theorem State.setTeam_pinned (t : Team) : (s.setTeam t).pinned = s.pinned := rfl
@[simp] theorem State.setTeam_migrations (t : Team) : (s.setTeam t).migrations = s.migrations := rfl
@[simp] theorem State.setTeam_posts (t : Team) : (s.setTeam t).posts = s.posts := rfl
@[simp] theorem State.setTeam_hostq (t : Team) : (s.setTeam t).hostq = s.hostq := rfl
@[simp] theorem State.setTeam_links (t : Team) : (s.setTeam t).links = s.links := rfl
@[simp] theorem State.setTeam_remote (t : Team) : (s.setTeam t).remote = s.remote := rfl
@[simp] theorem State.setTeam_debts (t : Team) : (s.setTeam t).debts = s.debts := rfl
@[simp] theorem State.setTeam_arrivals (t : Team) : (s.setTeam t).arrivals = s.arrivals := rfl
@[simp] theorem State.setTeam_away (t : Team) : (s.setTeam t).away = s.away := rfl
@[simp] theorem State.setTeam_peerWaits (t : Team) : (s.setTeam t).peerWaits = s.peerWaits := rfl
@[simp] theorem State.setTeam_lines (t : Team) : (s.setTeam t).lines = s.lines := rfl
@[simp] theorem State.setTeam_reads (t : Team) : (s.setTeam t).reads = s.reads := rfl
@[simp] theorem State.setTeam_flashReads (t : Team) : (s.setTeam t).flashReads = s.flashReads := rfl
@[simp] theorem State.setTeam_throttled (t : Team) : (s.setTeam t).throttled = s.throttled := rfl
@[simp] theorem State.setTeam_pairs (t : Team) : (s.setTeam t).pairs = s.pairs := rfl
@[simp] theorem State.setTeam_routes (t : Team) : (s.setTeam t).routes = s.routes := rfl
@[simp] theorem State.setTeam_ports (t : Team) : (s.setTeam t).ports = s.ports := rfl
@[simp] theorem State.setTeam_ctlsem (t : Team) : (s.setTeam t).ctlsem = s.ctlsem := rfl
@[simp] theorem State.setTeam_gctl (t : Team) : (s.setTeam t).gctl = s.gctl := rfl
@[simp] theorem State.setTeam_boot (t : Team) : (s.setTeam t).boot = s.boot := rfl
@[simp] theorem State.setTeam_biv (t : Team) : (s.setTeam t).biv = s.biv := rfl
@[simp] theorem State.setTeam_set (t : Team) : (s.setTeam t).set = s.set := rfl
@[simp] theorem State.setTeam_told (t : Team) : (s.setTeam t).told = s.told := rfl
@[simp] theorem State.setTeam_inputs (t : Team) : (s.setTeam t).inputs = s.inputs := rfl
@[simp] theorem State.setTeam_tick (t : Team) : (s.setTeam t).tick = s.tick := rfl
@[simp] theorem State.setTeam_clock (t : Team) : (s.setTeam t).clock = s.clock := rfl
@[simp] theorem State.setTeam_issued (t : Team) : (s.setTeam t).issued = s.issued := rfl
@[simp] theorem State.setTeam_nextId (t : Team) : (s.setTeam t).nextId = s.nextId := rfl
@[simp] theorem State.setTeam_freeCtr (t : Team) : (s.setTeam t).freeCtr = s.freeCtr := rfl

@[simp] theorem State.setLaunch_cur (l : Launch) : (s.setLaunch l).cur = s.cur := rfl
@[simp] theorem State.setLaunch_curSplit (l : Launch) : (s.setLaunch l).curSplit = s.curSplit := rfl
@[simp] theorem State.setLaunch_groups (l : Launch) : (s.setLaunch l).groups = s.groups := rfl
@[simp] theorem State.setLaunch_teams (l : Launch) : (s.setLaunch l).teams = s.teams := rfl
@[simp] theorem State.setLaunch_columns (l : Launch) : (s.setLaunch l).columns = s.columns := rfl
@[simp] theorem State.setLaunch_mem (l : Launch) : (s.setLaunch l).mem = s.mem := rfl
@[simp] theorem State.setLaunch_flash (l : Launch) : (s.setLaunch l).flash = s.flash := rfl
@[simp] theorem State.setLaunch_sram (l : Launch) : (s.setLaunch l).sram = s.sram := rfl
@[simp] theorem State.setLaunch_fill (l : Launch) : (s.setLaunch l).fill = s.fill := rfl
@[simp] theorem State.setLaunch_pend (l : Launch) : (s.setLaunch l).pend = s.pend := rfl
@[simp] theorem State.setLaunch_queries (l : Launch) : (s.setLaunch l).queries = s.queries := rfl
@[simp] theorem State.setLaunch_dirs (l : Launch) : (s.setLaunch l).dirs = s.dirs := rfl
@[simp] theorem State.setLaunch_jobs (l : Launch) : (s.setLaunch l).jobs = s.jobs := rfl
@[simp] theorem State.setLaunch_items (l : Launch) : (s.setLaunch l).items = s.items := rfl
@[simp] theorem State.setLaunch_joinWaits (l : Launch) : (s.setLaunch l).joinWaits = s.joinWaits := rfl
@[simp] theorem State.setLaunch_dones (l : Launch) : (s.setLaunch l).dones = s.dones := rfl
@[simp] theorem State.setLaunch_tenants (l : Launch) : (s.setLaunch l).tenants = s.tenants := rfl
@[simp] theorem State.setLaunch_rjobs (l : Launch) : (s.setLaunch l).rjobs = s.rjobs := rfl
@[simp] theorem State.setLaunch_regions (l : Launch) : (s.setLaunch l).regions = s.regions := rfl
@[simp] theorem State.setLaunch_installs (l : Launch) : (s.setLaunch l).installs = s.installs := rfl
@[simp] theorem State.setLaunch_wear (l : Launch) : (s.setLaunch l).wear = s.wear := rfl
@[simp] theorem State.setLaunch_spares (l : Launch) : (s.setLaunch l).spares = s.spares := rfl
@[simp] theorem State.setLaunch_staged (l : Launch) : (s.setLaunch l).staged = s.staged := rfl
@[simp] theorem State.setLaunch_filling (l : Launch) : (s.setLaunch l).filling = s.filling := rfl
@[simp] theorem State.setLaunch_tlb (l : Launch) : (s.setLaunch l).tlb = s.tlb := rfl
@[simp] theorem State.setLaunch_reports (l : Launch) : (s.setLaunch l).reports = s.reports := rfl
@[simp] theorem State.setLaunch_edits (l : Launch) : (s.setLaunch l).edits = s.edits := rfl
@[simp] theorem State.setLaunch_placed (l : Launch) : (s.setLaunch l).placed = s.placed := rfl
@[simp] theorem State.setLaunch_pinned (l : Launch) : (s.setLaunch l).pinned = s.pinned := rfl
@[simp] theorem State.setLaunch_migrations (l : Launch) : (s.setLaunch l).migrations = s.migrations := rfl
@[simp] theorem State.setLaunch_posts (l : Launch) : (s.setLaunch l).posts = s.posts := rfl
@[simp] theorem State.setLaunch_hostq (l : Launch) : (s.setLaunch l).hostq = s.hostq := rfl
@[simp] theorem State.setLaunch_links (l : Launch) : (s.setLaunch l).links = s.links := rfl
@[simp] theorem State.setLaunch_remote (l : Launch) : (s.setLaunch l).remote = s.remote := rfl
@[simp] theorem State.setLaunch_debts (l : Launch) : (s.setLaunch l).debts = s.debts := rfl
@[simp] theorem State.setLaunch_arrivals (l : Launch) : (s.setLaunch l).arrivals = s.arrivals := rfl
@[simp] theorem State.setLaunch_away (l : Launch) : (s.setLaunch l).away = s.away := rfl
@[simp] theorem State.setLaunch_peerWaits (l : Launch) : (s.setLaunch l).peerWaits = s.peerWaits := rfl
@[simp] theorem State.setLaunch_lines (l : Launch) : (s.setLaunch l).lines = s.lines := rfl
@[simp] theorem State.setLaunch_reads (l : Launch) : (s.setLaunch l).reads = s.reads := rfl
@[simp] theorem State.setLaunch_flashReads (l : Launch) : (s.setLaunch l).flashReads = s.flashReads := rfl
@[simp] theorem State.setLaunch_throttled (l : Launch) : (s.setLaunch l).throttled = s.throttled := rfl
@[simp] theorem State.setLaunch_pairs (l : Launch) : (s.setLaunch l).pairs = s.pairs := rfl
@[simp] theorem State.setLaunch_routes (l : Launch) : (s.setLaunch l).routes = s.routes := rfl
@[simp] theorem State.setLaunch_ports (l : Launch) : (s.setLaunch l).ports = s.ports := rfl
@[simp] theorem State.setLaunch_ctlsem (l : Launch) : (s.setLaunch l).ctlsem = s.ctlsem := rfl
@[simp] theorem State.setLaunch_gctl (l : Launch) : (s.setLaunch l).gctl = s.gctl := rfl
@[simp] theorem State.setLaunch_boot (l : Launch) : (s.setLaunch l).boot = s.boot := rfl
@[simp] theorem State.setLaunch_biv (l : Launch) : (s.setLaunch l).biv = s.biv := rfl
@[simp] theorem State.setLaunch_set (l : Launch) : (s.setLaunch l).set = s.set := rfl
@[simp] theorem State.setLaunch_told (l : Launch) : (s.setLaunch l).told = s.told := rfl
@[simp] theorem State.setLaunch_inputs (l : Launch) : (s.setLaunch l).inputs = s.inputs := rfl
@[simp] theorem State.setLaunch_tick (l : Launch) : (s.setLaunch l).tick = s.tick := rfl
@[simp] theorem State.setLaunch_clock (l : Launch) : (s.setLaunch l).clock = s.clock := rfl
@[simp] theorem State.setLaunch_issued (l : Launch) : (s.setLaunch l).issued = s.issued := rfl
@[simp] theorem State.setLaunch_nextId (l : Launch) : (s.setLaunch l).nextId = s.nextId := rfl
@[simp] theorem State.setLaunch_freeCtr (l : Launch) : (s.setLaunch l).freeCtr = s.freeCtr := rfl

@[simp] theorem State.setCol_cur (c : Nat) (x : Column) : (s.setCol c x).cur = s.cur := rfl
@[simp] theorem State.setCol_curSplit (c : Nat) (x : Column) : (s.setCol c x).curSplit = s.curSplit := rfl
@[simp] theorem State.setCol_groups (c : Nat) (x : Column) : (s.setCol c x).groups = s.groups := rfl
@[simp] theorem State.setCol_teams (c : Nat) (x : Column) : (s.setCol c x).teams = s.teams := rfl
@[simp] theorem State.setCol_mem (c : Nat) (x : Column) : (s.setCol c x).mem = s.mem := rfl
@[simp] theorem State.setCol_flash (c : Nat) (x : Column) : (s.setCol c x).flash = s.flash := rfl
@[simp] theorem State.setCol_sram (c : Nat) (x : Column) : (s.setCol c x).sram = s.sram := rfl
@[simp] theorem State.setCol_fill (c : Nat) (x : Column) : (s.setCol c x).fill = s.fill := rfl
@[simp] theorem State.setCol_pend (c : Nat) (x : Column) : (s.setCol c x).pend = s.pend := rfl
@[simp] theorem State.setCol_queries (c : Nat) (x : Column) : (s.setCol c x).queries = s.queries := rfl
@[simp] theorem State.setCol_dirs (c : Nat) (x : Column) : (s.setCol c x).dirs = s.dirs := rfl
@[simp] theorem State.setCol_jobs (c : Nat) (x : Column) : (s.setCol c x).jobs = s.jobs := rfl
@[simp] theorem State.setCol_launches (c : Nat) (x : Column) : (s.setCol c x).launches = s.launches := rfl
@[simp] theorem State.setCol_items (c : Nat) (x : Column) : (s.setCol c x).items = s.items := rfl
@[simp] theorem State.setCol_joinWaits (c : Nat) (x : Column) : (s.setCol c x).joinWaits = s.joinWaits := rfl
@[simp] theorem State.setCol_dones (c : Nat) (x : Column) : (s.setCol c x).dones = s.dones := rfl
@[simp] theorem State.setCol_tenants (c : Nat) (x : Column) : (s.setCol c x).tenants = s.tenants := rfl
@[simp] theorem State.setCol_rjobs (c : Nat) (x : Column) : (s.setCol c x).rjobs = s.rjobs := rfl
@[simp] theorem State.setCol_regions (c : Nat) (x : Column) : (s.setCol c x).regions = s.regions := rfl
@[simp] theorem State.setCol_installs (c : Nat) (x : Column) : (s.setCol c x).installs = s.installs := rfl
@[simp] theorem State.setCol_wear (c : Nat) (x : Column) : (s.setCol c x).wear = s.wear := rfl
@[simp] theorem State.setCol_spares (c : Nat) (x : Column) : (s.setCol c x).spares = s.spares := rfl
@[simp] theorem State.setCol_staged (c : Nat) (x : Column) : (s.setCol c x).staged = s.staged := rfl
@[simp] theorem State.setCol_filling (c : Nat) (x : Column) : (s.setCol c x).filling = s.filling := rfl
@[simp] theorem State.setCol_tlb (c : Nat) (x : Column) : (s.setCol c x).tlb = s.tlb := rfl
@[simp] theorem State.setCol_reports (c : Nat) (x : Column) : (s.setCol c x).reports = s.reports := rfl
@[simp] theorem State.setCol_edits (c : Nat) (x : Column) : (s.setCol c x).edits = s.edits := rfl
@[simp] theorem State.setCol_placed (c : Nat) (x : Column) : (s.setCol c x).placed = s.placed := rfl
@[simp] theorem State.setCol_pinned (c : Nat) (x : Column) : (s.setCol c x).pinned = s.pinned := rfl
@[simp] theorem State.setCol_migrations (c : Nat) (x : Column) : (s.setCol c x).migrations = s.migrations := rfl
@[simp] theorem State.setCol_posts (c : Nat) (x : Column) : (s.setCol c x).posts = s.posts := rfl
@[simp] theorem State.setCol_hostq (c : Nat) (x : Column) : (s.setCol c x).hostq = s.hostq := rfl
@[simp] theorem State.setCol_links (c : Nat) (x : Column) : (s.setCol c x).links = s.links := rfl
@[simp] theorem State.setCol_remote (c : Nat) (x : Column) : (s.setCol c x).remote = s.remote := rfl
@[simp] theorem State.setCol_debts (c : Nat) (x : Column) : (s.setCol c x).debts = s.debts := rfl
@[simp] theorem State.setCol_arrivals (c : Nat) (x : Column) : (s.setCol c x).arrivals = s.arrivals := rfl
@[simp] theorem State.setCol_away (c : Nat) (x : Column) : (s.setCol c x).away = s.away := rfl
@[simp] theorem State.setCol_peerWaits (c : Nat) (x : Column) : (s.setCol c x).peerWaits = s.peerWaits := rfl
@[simp] theorem State.setCol_lines (c : Nat) (x : Column) : (s.setCol c x).lines = s.lines := rfl
@[simp] theorem State.setCol_reads (c : Nat) (x : Column) : (s.setCol c x).reads = s.reads := rfl
@[simp] theorem State.setCol_flashReads (c : Nat) (x : Column) : (s.setCol c x).flashReads = s.flashReads := rfl
@[simp] theorem State.setCol_throttled (c : Nat) (x : Column) : (s.setCol c x).throttled = s.throttled := rfl
@[simp] theorem State.setCol_pairs (c : Nat) (x : Column) : (s.setCol c x).pairs = s.pairs := rfl
@[simp] theorem State.setCol_routes (c : Nat) (x : Column) : (s.setCol c x).routes = s.routes := rfl
@[simp] theorem State.setCol_ports (c : Nat) (x : Column) : (s.setCol c x).ports = s.ports := rfl
@[simp] theorem State.setCol_ctlsem (c : Nat) (x : Column) : (s.setCol c x).ctlsem = s.ctlsem := rfl
@[simp] theorem State.setCol_gctl (c : Nat) (x : Column) : (s.setCol c x).gctl = s.gctl := rfl
@[simp] theorem State.setCol_boot (c : Nat) (x : Column) : (s.setCol c x).boot = s.boot := rfl
@[simp] theorem State.setCol_biv (c : Nat) (x : Column) : (s.setCol c x).biv = s.biv := rfl
@[simp] theorem State.setCol_set (c : Nat) (x : Column) : (s.setCol c x).set = s.set := rfl
@[simp] theorem State.setCol_told (c : Nat) (x : Column) : (s.setCol c x).told = s.told := rfl
@[simp] theorem State.setCol_inputs (c : Nat) (x : Column) : (s.setCol c x).inputs = s.inputs := rfl
@[simp] theorem State.setCol_tick (c : Nat) (x : Column) : (s.setCol c x).tick = s.tick := rfl
@[simp] theorem State.setCol_clock (c : Nat) (x : Column) : (s.setCol c x).clock = s.clock := rfl
@[simp] theorem State.setCol_issued (c : Nat) (x : Column) : (s.setCol c x).issued = s.issued := rfl
@[simp] theorem State.setCol_nextId (c : Nat) (x : Column) : (s.setCol c x).nextId = s.nextId := rfl
@[simp] theorem State.setCol_freeCtr (c : Nat) (x : Column) : (s.setCol c x).freeCtr = s.freeCtr := rfl

@[simp] theorem State.setTenant_cur (t : Tenant) : (s.setTenant t).cur = s.cur := rfl
@[simp] theorem State.setTenant_curSplit (t : Tenant) : (s.setTenant t).curSplit = s.curSplit := rfl
@[simp] theorem State.setTenant_groups (t : Tenant) : (s.setTenant t).groups = s.groups := rfl
@[simp] theorem State.setTenant_teams (t : Tenant) : (s.setTenant t).teams = s.teams := rfl
@[simp] theorem State.setTenant_columns (t : Tenant) : (s.setTenant t).columns = s.columns := rfl
@[simp] theorem State.setTenant_mem (t : Tenant) : (s.setTenant t).mem = s.mem := rfl
@[simp] theorem State.setTenant_flash (t : Tenant) : (s.setTenant t).flash = s.flash := rfl
@[simp] theorem State.setTenant_sram (t : Tenant) : (s.setTenant t).sram = s.sram := rfl
@[simp] theorem State.setTenant_fill (t : Tenant) : (s.setTenant t).fill = s.fill := rfl
@[simp] theorem State.setTenant_pend (t : Tenant) : (s.setTenant t).pend = s.pend := rfl
@[simp] theorem State.setTenant_queries (t : Tenant) : (s.setTenant t).queries = s.queries := rfl
@[simp] theorem State.setTenant_dirs (t : Tenant) : (s.setTenant t).dirs = s.dirs := rfl
@[simp] theorem State.setTenant_jobs (t : Tenant) : (s.setTenant t).jobs = s.jobs := rfl
@[simp] theorem State.setTenant_launches (t : Tenant) : (s.setTenant t).launches = s.launches := rfl
@[simp] theorem State.setTenant_items (t : Tenant) : (s.setTenant t).items = s.items := rfl
@[simp] theorem State.setTenant_joinWaits (t : Tenant) : (s.setTenant t).joinWaits = s.joinWaits := rfl
@[simp] theorem State.setTenant_dones (t : Tenant) : (s.setTenant t).dones = s.dones := rfl
@[simp] theorem State.setTenant_rjobs (t : Tenant) : (s.setTenant t).rjobs = s.rjobs := rfl
@[simp] theorem State.setTenant_regions (t : Tenant) : (s.setTenant t).regions = s.regions := rfl
@[simp] theorem State.setTenant_installs (t : Tenant) : (s.setTenant t).installs = s.installs := rfl
@[simp] theorem State.setTenant_wear (t : Tenant) : (s.setTenant t).wear = s.wear := rfl
@[simp] theorem State.setTenant_spares (t : Tenant) : (s.setTenant t).spares = s.spares := rfl
@[simp] theorem State.setTenant_staged (t : Tenant) : (s.setTenant t).staged = s.staged := rfl
@[simp] theorem State.setTenant_filling (t : Tenant) : (s.setTenant t).filling = s.filling := rfl
@[simp] theorem State.setTenant_tlb (t : Tenant) : (s.setTenant t).tlb = s.tlb := rfl
@[simp] theorem State.setTenant_reports (t : Tenant) : (s.setTenant t).reports = s.reports := rfl
@[simp] theorem State.setTenant_edits (t : Tenant) : (s.setTenant t).edits = s.edits := rfl
@[simp] theorem State.setTenant_placed (t : Tenant) : (s.setTenant t).placed = s.placed := rfl
@[simp] theorem State.setTenant_pinned (t : Tenant) : (s.setTenant t).pinned = s.pinned := rfl
@[simp] theorem State.setTenant_migrations (t : Tenant) : (s.setTenant t).migrations = s.migrations := rfl
@[simp] theorem State.setTenant_posts (t : Tenant) : (s.setTenant t).posts = s.posts := rfl
@[simp] theorem State.setTenant_hostq (t : Tenant) : (s.setTenant t).hostq = s.hostq := rfl
@[simp] theorem State.setTenant_links (t : Tenant) : (s.setTenant t).links = s.links := rfl
@[simp] theorem State.setTenant_remote (t : Tenant) : (s.setTenant t).remote = s.remote := rfl
@[simp] theorem State.setTenant_debts (t : Tenant) : (s.setTenant t).debts = s.debts := rfl
@[simp] theorem State.setTenant_arrivals (t : Tenant) : (s.setTenant t).arrivals = s.arrivals := rfl
@[simp] theorem State.setTenant_away (t : Tenant) : (s.setTenant t).away = s.away := rfl
@[simp] theorem State.setTenant_peerWaits (t : Tenant) : (s.setTenant t).peerWaits = s.peerWaits := rfl
@[simp] theorem State.setTenant_lines (t : Tenant) : (s.setTenant t).lines = s.lines := rfl
@[simp] theorem State.setTenant_reads (t : Tenant) : (s.setTenant t).reads = s.reads := rfl
@[simp] theorem State.setTenant_flashReads (t : Tenant) : (s.setTenant t).flashReads = s.flashReads := rfl
@[simp] theorem State.setTenant_throttled (t : Tenant) : (s.setTenant t).throttled = s.throttled := rfl
@[simp] theorem State.setTenant_pairs (t : Tenant) : (s.setTenant t).pairs = s.pairs := rfl
@[simp] theorem State.setTenant_routes (t : Tenant) : (s.setTenant t).routes = s.routes := rfl
@[simp] theorem State.setTenant_ports (t : Tenant) : (s.setTenant t).ports = s.ports := rfl
@[simp] theorem State.setTenant_ctlsem (t : Tenant) : (s.setTenant t).ctlsem = s.ctlsem := rfl
@[simp] theorem State.setTenant_gctl (t : Tenant) : (s.setTenant t).gctl = s.gctl := rfl
@[simp] theorem State.setTenant_boot (t : Tenant) : (s.setTenant t).boot = s.boot := rfl
@[simp] theorem State.setTenant_biv (t : Tenant) : (s.setTenant t).biv = s.biv := rfl
@[simp] theorem State.setTenant_set (t : Tenant) : (s.setTenant t).set = s.set := rfl
@[simp] theorem State.setTenant_told (t : Tenant) : (s.setTenant t).told = s.told := rfl
@[simp] theorem State.setTenant_inputs (t : Tenant) : (s.setTenant t).inputs = s.inputs := rfl
@[simp] theorem State.setTenant_tick (t : Tenant) : (s.setTenant t).tick = s.tick := rfl
@[simp] theorem State.setTenant_clock (t : Tenant) : (s.setTenant t).clock = s.clock := rfl
@[simp] theorem State.setTenant_issued (t : Tenant) : (s.setTenant t).issued = s.issued := rfl
@[simp] theorem State.setTenant_nextId (t : Tenant) : (s.setTenant t).nextId = s.nextId := rfl
@[simp] theorem State.setTenant_freeCtr (t : Tenant) : (s.setTenant t).freeCtr = s.freeCtr := rfl

@[simp] theorem State.setRJob_cur (j : RJob) : (s.setRJob j).cur = s.cur := rfl
@[simp] theorem State.setRJob_curSplit (j : RJob) : (s.setRJob j).curSplit = s.curSplit := rfl
@[simp] theorem State.setRJob_groups (j : RJob) : (s.setRJob j).groups = s.groups := rfl
@[simp] theorem State.setRJob_teams (j : RJob) : (s.setRJob j).teams = s.teams := rfl
@[simp] theorem State.setRJob_columns (j : RJob) : (s.setRJob j).columns = s.columns := rfl
@[simp] theorem State.setRJob_mem (j : RJob) : (s.setRJob j).mem = s.mem := rfl
@[simp] theorem State.setRJob_flash (j : RJob) : (s.setRJob j).flash = s.flash := rfl
@[simp] theorem State.setRJob_sram (j : RJob) : (s.setRJob j).sram = s.sram := rfl
@[simp] theorem State.setRJob_fill (j : RJob) : (s.setRJob j).fill = s.fill := rfl
@[simp] theorem State.setRJob_pend (j : RJob) : (s.setRJob j).pend = s.pend := rfl
@[simp] theorem State.setRJob_queries (j : RJob) : (s.setRJob j).queries = s.queries := rfl
@[simp] theorem State.setRJob_dirs (j : RJob) : (s.setRJob j).dirs = s.dirs := rfl
@[simp] theorem State.setRJob_jobs (j : RJob) : (s.setRJob j).jobs = s.jobs := rfl
@[simp] theorem State.setRJob_launches (j : RJob) : (s.setRJob j).launches = s.launches := rfl
@[simp] theorem State.setRJob_items (j : RJob) : (s.setRJob j).items = s.items := rfl
@[simp] theorem State.setRJob_joinWaits (j : RJob) : (s.setRJob j).joinWaits = s.joinWaits := rfl
@[simp] theorem State.setRJob_dones (j : RJob) : (s.setRJob j).dones = s.dones := rfl
@[simp] theorem State.setRJob_tenants (j : RJob) : (s.setRJob j).tenants = s.tenants := rfl
@[simp] theorem State.setRJob_regions (j : RJob) : (s.setRJob j).regions = s.regions := rfl
@[simp] theorem State.setRJob_installs (j : RJob) : (s.setRJob j).installs = s.installs := rfl
@[simp] theorem State.setRJob_wear (j : RJob) : (s.setRJob j).wear = s.wear := rfl
@[simp] theorem State.setRJob_spares (j : RJob) : (s.setRJob j).spares = s.spares := rfl
@[simp] theorem State.setRJob_staged (j : RJob) : (s.setRJob j).staged = s.staged := rfl
@[simp] theorem State.setRJob_filling (j : RJob) : (s.setRJob j).filling = s.filling := rfl
@[simp] theorem State.setRJob_tlb (j : RJob) : (s.setRJob j).tlb = s.tlb := rfl
@[simp] theorem State.setRJob_reports (j : RJob) : (s.setRJob j).reports = s.reports := rfl
@[simp] theorem State.setRJob_edits (j : RJob) : (s.setRJob j).edits = s.edits := rfl
@[simp] theorem State.setRJob_placed (j : RJob) : (s.setRJob j).placed = s.placed := rfl
@[simp] theorem State.setRJob_pinned (j : RJob) : (s.setRJob j).pinned = s.pinned := rfl
@[simp] theorem State.setRJob_migrations (j : RJob) : (s.setRJob j).migrations = s.migrations := rfl
@[simp] theorem State.setRJob_posts (j : RJob) : (s.setRJob j).posts = s.posts := rfl
@[simp] theorem State.setRJob_hostq (j : RJob) : (s.setRJob j).hostq = s.hostq := rfl
@[simp] theorem State.setRJob_links (j : RJob) : (s.setRJob j).links = s.links := rfl
@[simp] theorem State.setRJob_remote (j : RJob) : (s.setRJob j).remote = s.remote := rfl
@[simp] theorem State.setRJob_debts (j : RJob) : (s.setRJob j).debts = s.debts := rfl
@[simp] theorem State.setRJob_arrivals (j : RJob) : (s.setRJob j).arrivals = s.arrivals := rfl
@[simp] theorem State.setRJob_away (j : RJob) : (s.setRJob j).away = s.away := rfl
@[simp] theorem State.setRJob_peerWaits (j : RJob) : (s.setRJob j).peerWaits = s.peerWaits := rfl
@[simp] theorem State.setRJob_lines (j : RJob) : (s.setRJob j).lines = s.lines := rfl
@[simp] theorem State.setRJob_reads (j : RJob) : (s.setRJob j).reads = s.reads := rfl
@[simp] theorem State.setRJob_flashReads (j : RJob) : (s.setRJob j).flashReads = s.flashReads := rfl
@[simp] theorem State.setRJob_throttled (j : RJob) : (s.setRJob j).throttled = s.throttled := rfl
@[simp] theorem State.setRJob_pairs (j : RJob) : (s.setRJob j).pairs = s.pairs := rfl
@[simp] theorem State.setRJob_routes (j : RJob) : (s.setRJob j).routes = s.routes := rfl
@[simp] theorem State.setRJob_ports (j : RJob) : (s.setRJob j).ports = s.ports := rfl
@[simp] theorem State.setRJob_ctlsem (j : RJob) : (s.setRJob j).ctlsem = s.ctlsem := rfl
@[simp] theorem State.setRJob_gctl (j : RJob) : (s.setRJob j).gctl = s.gctl := rfl
@[simp] theorem State.setRJob_boot (j : RJob) : (s.setRJob j).boot = s.boot := rfl
@[simp] theorem State.setRJob_biv (j : RJob) : (s.setRJob j).biv = s.biv := rfl
@[simp] theorem State.setRJob_set (j : RJob) : (s.setRJob j).set = s.set := rfl
@[simp] theorem State.setRJob_told (j : RJob) : (s.setRJob j).told = s.told := rfl
@[simp] theorem State.setRJob_inputs (j : RJob) : (s.setRJob j).inputs = s.inputs := rfl
@[simp] theorem State.setRJob_tick (j : RJob) : (s.setRJob j).tick = s.tick := rfl
@[simp] theorem State.setRJob_clock (j : RJob) : (s.setRJob j).clock = s.clock := rfl
@[simp] theorem State.setRJob_issued (j : RJob) : (s.setRJob j).issued = s.issued := rfl
@[simp] theorem State.setRJob_nextId (j : RJob) : (s.setRJob j).nextId = s.nextId := rfl
@[simp] theorem State.setRJob_freeCtr (j : RJob) : (s.setRJob j).freeCtr = s.freeCtr := rfl

@[simp] theorem State.setPend_cur (p : Pend) : (s.setPend p).cur = s.cur := rfl
@[simp] theorem State.setPend_curSplit (p : Pend) : (s.setPend p).curSplit = s.curSplit := rfl
@[simp] theorem State.setPend_groups (p : Pend) : (s.setPend p).groups = s.groups := rfl
@[simp] theorem State.setPend_teams (p : Pend) : (s.setPend p).teams = s.teams := rfl
@[simp] theorem State.setPend_columns (p : Pend) : (s.setPend p).columns = s.columns := rfl
@[simp] theorem State.setPend_mem (p : Pend) : (s.setPend p).mem = s.mem := rfl
@[simp] theorem State.setPend_flash (p : Pend) : (s.setPend p).flash = s.flash := rfl
@[simp] theorem State.setPend_sram (p : Pend) : (s.setPend p).sram = s.sram := rfl
@[simp] theorem State.setPend_fill (p : Pend) : (s.setPend p).fill = s.fill := rfl
@[simp] theorem State.setPend_queries (p : Pend) : (s.setPend p).queries = s.queries := rfl
@[simp] theorem State.setPend_dirs (p : Pend) : (s.setPend p).dirs = s.dirs := rfl
@[simp] theorem State.setPend_jobs (p : Pend) : (s.setPend p).jobs = s.jobs := rfl
@[simp] theorem State.setPend_launches (p : Pend) : (s.setPend p).launches = s.launches := rfl
@[simp] theorem State.setPend_items (p : Pend) : (s.setPend p).items = s.items := rfl
@[simp] theorem State.setPend_joinWaits (p : Pend) : (s.setPend p).joinWaits = s.joinWaits := rfl
@[simp] theorem State.setPend_dones (p : Pend) : (s.setPend p).dones = s.dones := rfl
@[simp] theorem State.setPend_tenants (p : Pend) : (s.setPend p).tenants = s.tenants := rfl
@[simp] theorem State.setPend_rjobs (p : Pend) : (s.setPend p).rjobs = s.rjobs := rfl
@[simp] theorem State.setPend_regions (p : Pend) : (s.setPend p).regions = s.regions := rfl
@[simp] theorem State.setPend_installs (p : Pend) : (s.setPend p).installs = s.installs := rfl
@[simp] theorem State.setPend_wear (p : Pend) : (s.setPend p).wear = s.wear := rfl
@[simp] theorem State.setPend_spares (p : Pend) : (s.setPend p).spares = s.spares := rfl
@[simp] theorem State.setPend_staged (p : Pend) : (s.setPend p).staged = s.staged := rfl
@[simp] theorem State.setPend_filling (p : Pend) : (s.setPend p).filling = s.filling := rfl
@[simp] theorem State.setPend_tlb (p : Pend) : (s.setPend p).tlb = s.tlb := rfl
@[simp] theorem State.setPend_reports (p : Pend) : (s.setPend p).reports = s.reports := rfl
@[simp] theorem State.setPend_edits (p : Pend) : (s.setPend p).edits = s.edits := rfl
@[simp] theorem State.setPend_placed (p : Pend) : (s.setPend p).placed = s.placed := rfl
@[simp] theorem State.setPend_pinned (p : Pend) : (s.setPend p).pinned = s.pinned := rfl
@[simp] theorem State.setPend_migrations (p : Pend) : (s.setPend p).migrations = s.migrations := rfl
@[simp] theorem State.setPend_posts (p : Pend) : (s.setPend p).posts = s.posts := rfl
@[simp] theorem State.setPend_hostq (p : Pend) : (s.setPend p).hostq = s.hostq := rfl
@[simp] theorem State.setPend_links (p : Pend) : (s.setPend p).links = s.links := rfl
@[simp] theorem State.setPend_remote (p : Pend) : (s.setPend p).remote = s.remote := rfl
@[simp] theorem State.setPend_debts (p : Pend) : (s.setPend p).debts = s.debts := rfl
@[simp] theorem State.setPend_arrivals (p : Pend) : (s.setPend p).arrivals = s.arrivals := rfl
@[simp] theorem State.setPend_away (p : Pend) : (s.setPend p).away = s.away := rfl
@[simp] theorem State.setPend_peerWaits (p : Pend) : (s.setPend p).peerWaits = s.peerWaits := rfl
@[simp] theorem State.setPend_lines (p : Pend) : (s.setPend p).lines = s.lines := rfl
@[simp] theorem State.setPend_reads (p : Pend) : (s.setPend p).reads = s.reads := rfl
@[simp] theorem State.setPend_flashReads (p : Pend) : (s.setPend p).flashReads = s.flashReads := rfl
@[simp] theorem State.setPend_throttled (p : Pend) : (s.setPend p).throttled = s.throttled := rfl
@[simp] theorem State.setPend_pairs (p : Pend) : (s.setPend p).pairs = s.pairs := rfl
@[simp] theorem State.setPend_routes (p : Pend) : (s.setPend p).routes = s.routes := rfl
@[simp] theorem State.setPend_ports (p : Pend) : (s.setPend p).ports = s.ports := rfl
@[simp] theorem State.setPend_ctlsem (p : Pend) : (s.setPend p).ctlsem = s.ctlsem := rfl
@[simp] theorem State.setPend_gctl (p : Pend) : (s.setPend p).gctl = s.gctl := rfl
@[simp] theorem State.setPend_boot (p : Pend) : (s.setPend p).boot = s.boot := rfl
@[simp] theorem State.setPend_biv (p : Pend) : (s.setPend p).biv = s.biv := rfl
@[simp] theorem State.setPend_set (p : Pend) : (s.setPend p).set = s.set := rfl
@[simp] theorem State.setPend_told (p : Pend) : (s.setPend p).told = s.told := rfl
@[simp] theorem State.setPend_inputs (p : Pend) : (s.setPend p).inputs = s.inputs := rfl
@[simp] theorem State.setPend_tick (p : Pend) : (s.setPend p).tick = s.tick := rfl
@[simp] theorem State.setPend_clock (p : Pend) : (s.setPend p).clock = s.clock := rfl
@[simp] theorem State.setPend_issued (p : Pend) : (s.setPend p).issued = s.issued := rfl
@[simp] theorem State.setPend_nextId (p : Pend) : (s.setPend p).nextId = s.nextId := rfl
@[simp] theorem State.setPend_freeCtr (p : Pend) : (s.setPend p).freeCtr = s.freeCtr := rfl

@[simp] theorem State.dropPend_cur (i : Nat) : (s.dropPend i).cur = s.cur := rfl
@[simp] theorem State.dropPend_curSplit (i : Nat) : (s.dropPend i).curSplit = s.curSplit := rfl
@[simp] theorem State.dropPend_groups (i : Nat) : (s.dropPend i).groups = s.groups := rfl
@[simp] theorem State.dropPend_teams (i : Nat) : (s.dropPend i).teams = s.teams := rfl
@[simp] theorem State.dropPend_columns (i : Nat) : (s.dropPend i).columns = s.columns := rfl
@[simp] theorem State.dropPend_mem (i : Nat) : (s.dropPend i).mem = s.mem := rfl
@[simp] theorem State.dropPend_flash (i : Nat) : (s.dropPend i).flash = s.flash := rfl
@[simp] theorem State.dropPend_sram (i : Nat) : (s.dropPend i).sram = s.sram := rfl
@[simp] theorem State.dropPend_fill (i : Nat) : (s.dropPend i).fill = s.fill := rfl
@[simp] theorem State.dropPend_queries (i : Nat) : (s.dropPend i).queries = s.queries := rfl
@[simp] theorem State.dropPend_dirs (i : Nat) : (s.dropPend i).dirs = s.dirs := rfl
@[simp] theorem State.dropPend_jobs (i : Nat) : (s.dropPend i).jobs = s.jobs := rfl
@[simp] theorem State.dropPend_launches (i : Nat) : (s.dropPend i).launches = s.launches := rfl
@[simp] theorem State.dropPend_items (i : Nat) : (s.dropPend i).items = s.items := rfl
@[simp] theorem State.dropPend_joinWaits (i : Nat) : (s.dropPend i).joinWaits = s.joinWaits := rfl
@[simp] theorem State.dropPend_dones (i : Nat) : (s.dropPend i).dones = s.dones := rfl
@[simp] theorem State.dropPend_tenants (i : Nat) : (s.dropPend i).tenants = s.tenants := rfl
@[simp] theorem State.dropPend_rjobs (i : Nat) : (s.dropPend i).rjobs = s.rjobs := rfl
@[simp] theorem State.dropPend_regions (i : Nat) : (s.dropPend i).regions = s.regions := rfl
@[simp] theorem State.dropPend_installs (i : Nat) : (s.dropPend i).installs = s.installs := rfl
@[simp] theorem State.dropPend_wear (i : Nat) : (s.dropPend i).wear = s.wear := rfl
@[simp] theorem State.dropPend_spares (i : Nat) : (s.dropPend i).spares = s.spares := rfl
@[simp] theorem State.dropPend_staged (i : Nat) : (s.dropPend i).staged = s.staged := rfl
@[simp] theorem State.dropPend_filling (i : Nat) : (s.dropPend i).filling = s.filling := rfl
@[simp] theorem State.dropPend_tlb (i : Nat) : (s.dropPend i).tlb = s.tlb := rfl
@[simp] theorem State.dropPend_reports (i : Nat) : (s.dropPend i).reports = s.reports := rfl
@[simp] theorem State.dropPend_edits (i : Nat) : (s.dropPend i).edits = s.edits := rfl
@[simp] theorem State.dropPend_placed (i : Nat) : (s.dropPend i).placed = s.placed := rfl
@[simp] theorem State.dropPend_pinned (i : Nat) : (s.dropPend i).pinned = s.pinned := rfl
@[simp] theorem State.dropPend_migrations (i : Nat) : (s.dropPend i).migrations = s.migrations := rfl
@[simp] theorem State.dropPend_posts (i : Nat) : (s.dropPend i).posts = s.posts := rfl
@[simp] theorem State.dropPend_hostq (i : Nat) : (s.dropPend i).hostq = s.hostq := rfl
@[simp] theorem State.dropPend_links (i : Nat) : (s.dropPend i).links = s.links := rfl
@[simp] theorem State.dropPend_remote (i : Nat) : (s.dropPend i).remote = s.remote := rfl
@[simp] theorem State.dropPend_debts (i : Nat) : (s.dropPend i).debts = s.debts := rfl
@[simp] theorem State.dropPend_arrivals (i : Nat) : (s.dropPend i).arrivals = s.arrivals := rfl
@[simp] theorem State.dropPend_away (i : Nat) : (s.dropPend i).away = s.away := rfl
@[simp] theorem State.dropPend_peerWaits (i : Nat) : (s.dropPend i).peerWaits = s.peerWaits := rfl
@[simp] theorem State.dropPend_lines (i : Nat) : (s.dropPend i).lines = s.lines := rfl
@[simp] theorem State.dropPend_reads (i : Nat) : (s.dropPend i).reads = s.reads := rfl
@[simp] theorem State.dropPend_flashReads (i : Nat) : (s.dropPend i).flashReads = s.flashReads := rfl
@[simp] theorem State.dropPend_throttled (i : Nat) : (s.dropPend i).throttled = s.throttled := rfl
@[simp] theorem State.dropPend_pairs (i : Nat) : (s.dropPend i).pairs = s.pairs := rfl
@[simp] theorem State.dropPend_routes (i : Nat) : (s.dropPend i).routes = s.routes := rfl
@[simp] theorem State.dropPend_ports (i : Nat) : (s.dropPend i).ports = s.ports := rfl
@[simp] theorem State.dropPend_ctlsem (i : Nat) : (s.dropPend i).ctlsem = s.ctlsem := rfl
@[simp] theorem State.dropPend_gctl (i : Nat) : (s.dropPend i).gctl = s.gctl := rfl
@[simp] theorem State.dropPend_boot (i : Nat) : (s.dropPend i).boot = s.boot := rfl
@[simp] theorem State.dropPend_biv (i : Nat) : (s.dropPend i).biv = s.biv := rfl
@[simp] theorem State.dropPend_set (i : Nat) : (s.dropPend i).set = s.set := rfl
@[simp] theorem State.dropPend_told (i : Nat) : (s.dropPend i).told = s.told := rfl
@[simp] theorem State.dropPend_inputs (i : Nat) : (s.dropPend i).inputs = s.inputs := rfl
@[simp] theorem State.dropPend_tick (i : Nat) : (s.dropPend i).tick = s.tick := rfl
@[simp] theorem State.dropPend_clock (i : Nat) : (s.dropPend i).clock = s.clock := rfl
@[simp] theorem State.dropPend_issued (i : Nat) : (s.dropPend i).issued = s.issued := rfl
@[simp] theorem State.dropPend_nextId (i : Nat) : (s.dropPend i).nextId = s.nextId := rfl
@[simp] theorem State.dropPend_freeCtr (i : Nat) : (s.dropPend i).freeCtr = s.freeCtr := rfl

end Sys2Proof.Machine
end

