-- ==== Sys2Proof/Laws/Ops.lean ====
section
/-!
SUPPORT. What the shared operations do, said once: registers read back what was written, a group's write
leaves the other groups alone, an instruction that passes its issue checks has its own effect.
-/
namespace Sys2Proof.Machine

variable (s : State)

/-! ## The executing group -/

@[simp] theorem State.grpAt_setGrpAt (i : Nat) (g : Group) (h : i < s.groups.length) :
    (s.setGrpAt i g).grpAt i = g := by simp [State.grpAt, State.setGrpAt, h]

theorem State.grpAt_setGrpAt_ne {i j : Nat} (g : Group) (h : j ≠ i) : (s.setGrpAt i g).grpAt j = s.grpAt j := by
  simp [State.grpAt, State.setGrpAt, List.getD, Ne.symm h]

@[simp] theorem State.grp_setGrp (g : Group) (h : s.cur < s.groups.length) : (s.setGrp g).grp = g :=
  State.grpAt_setGrpAt s s.cur g h

@[simp] theorem State.groups_length_setGrpAt (i : Nat) (g : Group) :
    (s.setGrpAt i g).groups.length = s.groups.length := by simp [State.setGrpAt]

@[simp] theorem State.groups_length_setGrp (g : Group) : (s.setGrp g).groups.length = s.groups.length :=
  State.groups_length_setGrpAt s s.cur g

@[simp] theorem State.groups_length_setSplit (x : Split) : (s.setSplit x).groups.length = s.groups.length :=
  State.groups_length_setGrp s _

@[simp] theorem Group.sp_setSp (g : Group) (k : Nat) (x : Split) : (g.setSp k x).sp k = x := by
  unfold Group.sp Group.setSp; split <;> rfl

@[simp] theorem Group.sp_setSp_other (g : Group) (k : Nat) (x : Split) : (g.setSp k x).sp (1 - k) = g.sp (1 - k) := by
  unfold Group.sp Group.setSp
  by_cases h : k = 0
  · subst h; rfl
  · by_cases h1 : 1 - k = 0
    · simp [h, h1]
    · omega

theorem State.grp_setSplit (x : Split) (h : s.cur < s.groups.length) :
    (s.setSplit x).grp = s.grp.setSp s.curSplit x := State.grp_setGrp s _ h

@[simp] theorem State.split_setSplit (x : Split) (h : s.cur < s.groups.length) : (s.setSplit x).split = x := by
  simp [State.split, State.grp_setSplit s x h]

@[simp] theorem State.partner_setSplit (x : Split) (h : s.cur < s.groups.length) :
    (s.setSplit x).partner = s.partner := by
  simp [State.partner, State.grp_setSplit s x h]

/-- Two updates of the executing group are the last one. -/
@[simp] theorem State.setGrp_setGrp (g g' : Group) : (s.setGrp g).setGrp g' = s.setGrp g' := by
  simp [State.setGrp, State.setGrpAt]

/-! ## Registers -/

theorem Group.rdS_wrS (g : Group) (r k : Nat) (v : Word) : (g.wrS r v).rdS k = if k = r then v else g.rdS k :=
  Map.get_set _ _ _ _ _

theorem Group.rdV_wrV (g : Group) (r l k m : Nat) (v : Lane) (hl : l < 128) (hm : m < 128) :
    (g.wrV r l v).rdV k m = if k = r ∧ m = l then v else g.rdV k m := by
  unfold Group.rdV Group.wrV
  rw [Map.get_set]
  by_cases h : k = r ∧ m = l
  · rw [if_pos (by omega), if_pos h]
  · rw [if_neg (by omega), if_neg h]

@[simp] theorem Group.rdV_wrS (g : Group) (r k l : Nat) (v : Word) : (g.wrS r v).rdV k l = g.rdV k l := rfl
@[simp] theorem Group.rdS_wrV (g : Group) (r l k : Nat) (v : Lane) : (g.wrV r l v).rdS k = g.rdS k := rfl
@[simp] theorem Group.rdS_setSp (g : Group) (i k : Nat) (x : Split) : (g.setSp i x).rdS k = g.rdS k := by
  unfold Group.setSp; split <;> rfl
@[simp] theorem Group.rdV_setSp (g : Group) (i k l : Nat) (x : Split) : (g.setSp i x).rdV k l = g.rdV k l := by
  unfold Group.setSp; split <;> rfl
@[simp] theorem Group.masks_setSp (g : Group) (i : Nat) (x : Split) : (g.setSp i x).masks = g.masks := by
  unfold Group.setSp; split <;> rfl

theorem Group.rdV_wrV64 (g : Group) (r l k m : Nat) (v : Word) (hl : l < 128) (hm : m < 128) :
    (g.wrV64 r l v).rdV k m =
      if m = l ∧ k = r then v.setWidth 32 else if m = l ∧ k = r + 1 then v.extractLsb' 32 32 else g.rdV k m := by
  unfold Group.wrV64
  rw [Group.rdV_wrV _ _ _ _ _ _ hl hm, Group.rdV_wrV _ _ _ _ _ _ hl hm]
  by_cases h : m = l <;> by_cases h1 : k = r <;> by_cases h2 : k = r + 1 <;> simp_all

/-- A lane write changes its register or pair in its lane. -/
theorem Group.rdV_wrLane (g : Group) (wide : Bool) (r l v k m : Nat) (hl : l < 128) (hm : m < 128) :
    (g.wrLane wide r l v).rdV k m =
      if m = l then
        if k = r then .ofNat 32 v else if wide ∧ k = r + 1 then .ofNat 32 (v / 2 ^ 32) else g.rdV k m
      else g.rdV k m := by
  unfold Group.wrLane
  have h1 : (BitVec.ofNat 64 v).setWidth 32 = BitVec.ofNat 32 v := by
    apply BitVec.eq_of_toNat_eq; simp
  have h2 : (BitVec.ofNat 64 v).extractLsb' 32 32 = BitVec.ofNat 32 (v / 2 ^ 32) := by
    apply BitVec.eq_of_toNat_eq
    simp [Nat.shiftRight_eq_div_pow]
    omega
  cases wide
  · rw [if_neg (by simp), Group.rdV_wrV _ _ _ _ _ _ hl hm]
    by_cases h : m = l <;> by_cases h' : k = r <;> simp_all
  · rw [if_pos rfl, Group.rdV_wrV64 _ _ _ _ _ _ hl hm, h1, h2]
    by_cases h : m = l <;> by_cases h' : k = r <;> simp_all

/-- The lanes written hold the values written, every other lane and register what it held. -/
theorem Group.rdV_wrLanes (g : Group) (wide : Bool) (r k m : Nat) (ls : List Nat) (v : Nat → Nat)
    (hls : ∀ l ∈ ls, l < 128) (hm : m < 128) :
    (g.wrLanes wide r (ls.map fun l => (l, v l))).rdV k m =
      if m ∈ ls then
        if k = r then .ofNat 32 (v m) else if wide ∧ k = r + 1 then .ofNat 32 (v m / 2 ^ 32) else g.rdV k m
      else g.rdV k m := by
  unfold Group.wrLanes
  induction ls generalizing g with
  | nil => simp
  | cons l ls ih =>
    have hl : l < 128 := hls l (List.mem_cons_self ..)
    simp only [List.map_cons, List.foldl_cons]
    rw [ih _ (fun x hx => hls x (List.mem_cons_of_mem _ hx)), Group.rdV_wrLane _ _ _ _ _ _ _ hl hm]
    by_cases h : m ∈ ls <;> by_cases h' : m = l <;> by_cases h1 : k = r <;> simp_all

theorem Group.wrLane_others (g : Group) (wide : Bool) (r l v : Nat) :
    { g.wrLane wide r l v with vregs := g.vregs } = g := by
  unfold Group.wrLane Group.wrV64 Group.wrV; cases wide <;> rfl

/-- Writing lanes touches the vector registers alone. -/
theorem Group.wrLanes_others (g : Group) (wide : Bool) (r : Nat) (vs : List (Nat × Nat)) (m : Map Lane) :
    { g.wrLanes wide r vs with vregs := m } = { g with vregs := m } := by
  unfold Group.wrLanes
  induction vs generalizing g with
  | nil => rfl
  | cons p vs ih =>
    simp only [List.foldl_cons]
    rw [ih]
    have h := Group.wrLane_others g wide r p.1 p.2
    generalize g.wrLane wide r p.1 p.2 = x at h
    cases x; cases g; simp_all

theorem lanesOf_lt (m : Mask) (w l : Nat) (h : l ∈ lanesOf m w) : l < 128 := by
  unfold lanesOf at h
  have h := (List.mem_filter.mp h).2
  exact BitVec.lt_of_getLsbD h

/-! ## Issue -/

/-- An instruction that passes its checks at issue has its own effect, a region-closing one on the state with
the region closed. -/
theorem State.issue_ok (i : Instr) (f : Fields) (k : State → State) (hc : s.countFault i f = none)
    (hd : (readsDone f.a || readsDone f.b || readsDone f.c) = true →
      (if i.closes then s.closeRegion else s).doneFault = none) :
    s.issue i f k = .next (k (if i.closes then s.closeRegion else s)) := by
  unfold State.issue
  rw [hc]
  cases h : readsDone f.a || readsDone f.b || readsDone f.c
  · simp
  · simp [hd h]

/-- Whatever happens at issue, the step goes on. -/
theorem State.issue_next (i : Instr) (f : Fields) (k : State → State) : ∃ t, s.issue i f k = .next t := by
  unfold State.issue
  split
  · exact ⟨_, rfl⟩
  · dsimp only
    split <;> exact ⟨_, rfl⟩

/-! ## Elements of a lane -/

theorem packed_aux (w : Nat) (f : Nat → Nat) (n : Nat) : packed w n f < 2 ^ (w * n) ∧
    ∀ k, k < n → elem w (packed w n f) k = f k % 2 ^ w := by
  unfold packed
  induction n with
  | zero => simp
  | succ n ih =>
    rw [List.range_succ, List.foldl_append]
    simp only [List.foldl_cons, List.foldl_nil]
    generalize (List.range n).foldl (fun acc k => acc + f k % 2 ^ w * 2 ^ (w * k)) 0 = a at ih
    obtain ⟨hlt, he⟩ := ih
    have hp : 0 < 2 ^ (w * n) := Nat.two_pow_pos _
    constructor
    · have h1 : f n % 2 ^ w + 1 ≤ 2 ^ w := Nat.mod_lt _ (Nat.two_pow_pos w)
      calc a + f n % 2 ^ w * 2 ^ (w * n) < 2 ^ (w * n) + f n % 2 ^ w * 2 ^ (w * n) := by omega
        _ = (f n % 2 ^ w + 1) * 2 ^ (w * n) := by rw [Nat.add_mul, Nat.one_mul, Nat.add_comm]
        _ ≤ 2 ^ w * 2 ^ (w * n) := Nat.mul_le_mul_right _ h1
        _ = 2 ^ (w * (n + 1)) := by rw [← Nat.pow_add, Nat.mul_succ, Nat.add_comm]
    · intro k hk
      unfold elem
      rcases Nat.lt_or_eq_of_le (Nat.le_of_lt_succ hk) with hk | rfl
      · have h := he k hk
        unfold elem at h
        have hs : w * n = w * k + w * (n - k) := by rw [← Nat.mul_add]; congr 1; omega
        have hm : 2 ^ w ∣ 2 ^ (w * (n - k)) := Nat.pow_dvd_pow 2 (Nat.le_mul_of_pos_right w (by omega))
        rw [hs, Nat.pow_add, show f n % 2 ^ w * (2 ^ (w * k) * 2 ^ (w * (n - k))) = 2 ^ (w * k) * (2 ^ (w * (n - k)) * (f n % 2 ^ w)) by
          rw [Nat.mul_left_comm, Nat.mul_comm (f n % 2 ^ w)],
          Nat.add_mul_div_left _ _ (Nat.two_pow_pos _)]
        obtain ⟨c, hc⟩ := hm
        rw [hc, Nat.mul_assoc, Nat.add_mul_mod_self_left]
        exact h
      · rw [Nat.mul_comm (f k % 2 ^ w), Nat.add_mul_div_left _ _ hp, Nat.div_eq_of_lt hlt, Nat.zero_add, Nat.mod_mod]

/-- Each element of a lane put together is the element put in, cut to its width. -/
theorem elem_packed (w n k : Nat) (f : Nat → Nat) (h : k < n) : elem w (packed w n f) k = f k % 2 ^ w :=
  (packed_aux w f n).2 k h

theorem packed_lt (w n : Nat) (f : Nat → Nat) : packed w n f < 2 ^ (w * n) := (packed_aux w f n).1

end Sys2Proof.Machine
end

