-- ==== Sys2Proof/Laws/Memory.lean ====
section
/-!
SUPPORT. The byte memories: every write keeps the canonical form, a byte written reads back, every other byte
reads as before, and fill-pending lines read as zeros until they are written (R101).
-/
namespace Sys2Proof.Machine

variable (s : State)

/-! ## Fill-pending lines -/

/-- Whether a list of runs of lines has the line. -/
def hasLine (fs : List (FillSpace × Nat × Nat)) (sp : FillSpace) (line : Nat) : Bool :=
  fs.any fun x => x.1 == sp && x.2.1 ≤ line && line < x.2.1 + x.2.2

theorem State.isPending_eq (sp : FillSpace) (line : Nat) : s.isPending sp line = hasLine s.fill sp line := rfl

theorem hasLine_cons (x : FillSpace × Nat × Nat) (fs : List (FillSpace × Nat × Nat)) (sp : FillSpace) (line : Nat) :
    hasLine (x :: fs) sp line = true ↔ (x.1 = sp ∧ x.2.1 ≤ line ∧ line < x.2.1 + x.2.2) ∨ hasLine fs sp line = true := by
  simp [hasLine, and_assoc]

theorem hasLine_append (xs ys : List (FillSpace × Nat × Nat)) (sp : FillSpace) (line : Nat) :
    hasLine (xs ++ ys) sp line = (hasLine xs sp line || hasLine ys sp line) := by simp [hasLine]

/-- Lines taken out are out, every other line is as it was. -/
theorem hasLine_dropLines (sp q : FillSpace) (line k n : Nat) (fs : List (FillSpace × Nat × Nat)) :
    hasLine (dropLines sp line k fs) q n = true ↔ hasLine fs q n = true ∧ ¬(q = sp ∧ line ≤ n ∧ n < line + k) := by
  induction fs with
  | nil => simp [dropLines, hasLine]
  | cons x fs ih =>
    obtain ⟨p, b, c⟩ := x
    rw [dropLines, hasLine_cons]
    split
    · next h =>
      obtain ⟨rfl, h1, h2⟩ := h
      rw [hasLine_append, hasLine_append, Bool.or_eq_true, Bool.or_eq_true, ih]
      have e1 : hasLine (if b < line then [(p, b, line - b)] else []) q n = true ↔ p = q ∧ b ≤ n ∧ n < line := by
        split
        · rw [hasLine_cons]
          simp only [hasLine, List.any_nil, Bool.false_eq_true, or_false]
          constructor <;> rintro ⟨a, b, c⟩ <;> exact ⟨a, b, by omega⟩
        · simp only [hasLine, List.any_nil, Bool.false_eq_true, false_iff]
          omega
      have e2 : hasLine (if line + k < b + c then [(p, line + k, b + c - line - k)] else []) q n = true ↔
          p = q ∧ line + k ≤ n ∧ n < b + c := by
        split
        · rw [hasLine_cons]
          simp only [hasLine, List.any_nil, Bool.false_eq_true, or_false]
          constructor <;> rintro ⟨a, b, c⟩ <;> exact ⟨a, b, by omega⟩
        · simp only [hasLine, List.any_nil, Bool.false_eq_true, false_iff]
          omega
      rw [e1, e2]
      by_cases hq : p = q
      · subst hq
        by_cases hf : hasLine fs p n = true <;> simp [hf] <;> omega
      · simp [hq, Ne.symm hq]
    · next h =>
      rw [hasLine_cons, ih]
      by_cases hq : p = q
      · subst hq
        by_cases hs : p = sp
        · subst hs
          by_cases hf : hasLine fs p n = true <;> simp [hf] <;> simp at h <;> omega
        · simp [hs]
      · simp [hq]

/-! ## The canonical form -/

theorem State.wrB_memOk (l : Loc) (b : Byte) (h : s.MemOk) : (s.wrB l b).MemOk := by
  obtain ⟨h1, h2, h3⟩ := h
  unfold State.wrB
  split
  · split
    · exact ⟨Memory.wr_wf _ _ _ (Memory.wrN_wf _ _ _ _ h1), h2, h3⟩
    · exact ⟨Memory.wr_wf _ _ _ h1, h2, h3⟩
  · exact ⟨h1, h2, h3⟩
  · dsimp only
    split
    · exact ⟨h1, h2, Memory.wr_wf _ _ _ (Memory.wrN_wf _ _ _ _ h3)⟩
    · exact ⟨h1, h2, Memory.wr_wf _ _ _ h3⟩
  · unfold State.wrWin
    dsimp only
    split
    · split <;> exact ⟨h1, h2, h3⟩
    · split <;> exact ⟨h1, h2, h3⟩
    · exact ⟨h1, h2, h3⟩
    · exact ⟨h1, h2, h3⟩
  · exact ⟨h1, h2, h3⟩
  · exact ⟨h1, h2, h3⟩

theorem State.wrN_memOk (l : Loc) (n v : Nat) (h : s.MemOk) : (s.wrN l n v).MemOk := by
  induction n generalizing s l v with
  | zero => exact h
  | succ n ih => exact ih _ _ _ (State.wrB_memOk s l _ h)

/-- A write by an agent of a job keeps it too: the log is no memory. -/
theorem State.jobWrite_memOk (ten : Nat) (job : Word) (l : Loc) (n v : Nat) (h : s.MemOk) : (s.jobWrite ten job l n v).MemOk := by
  unfold State.jobWrite
  split
  · split
    · exact State.wrN_memOk _ _ _ _ h
    · exact State.wrN_memOk _ _ _ _ h
  · exact State.wrN_memOk _ _ _ _ h

/-! ## Reading back -/

theorem Memory.rd_zeroLine (m : Memory) (line a : Nat) : Memory.rd (zeroLine m line) a = if a / 64 = line then 0 else Memory.rd m a := by
  unfold zeroLine
  split
  · next h =>
    have key : ∀ (n : Nat) (m : Memory) (b : Nat), b ≤ a → a < b + n → Memory.rd (Memory.wrN m b n 0) a = 0 := by
      intro n
      induction n with
      | zero => intro m b h1 h2; omega
      | succ n ih =>
        intro m b h1 h2
        rw [Memory.wrN]
        by_cases e : a = b
        · subst e
          rw [Memory.rd_wrN_frame _ _ _ _ _ (by omega), Memory.rd_wr]
          simp
        · exact ih _ _ (by omega) (by omega)
    exact key 64 m (64 * line) (by omega) (by omega)
  · next h => exact Memory.rd_wrN_frame _ _ _ _ _ (by omega)

/-- A byte of DRAM written reads back, and every other place of DRAM reads as before. -/
theorem State.rdB_wrB_mem (ix dur jx jur : Bool) (a c : Nat) (b : Byte) :
    (s.wrB ⟨.mem ix dur, a⟩ b).rdB ⟨.mem jx jur, c⟩ = if c = a then b else s.rdB ⟨.mem jx jur, c⟩ := by
  have step : ∀ line, hasLine (dropLine .dram (a / 64) s.fill) .dram line = (hasLine s.fill .dram line && line != a / 64) := by
    intro line
    rw [Bool.eq_iff_iff, dropLine, hasLine_dropLines]
    simp
    omega
  simp only [State.wrB]
  by_cases hp : s.isPending .dram (a / 64) = true
  · rw [if_pos hp]
    rw [State.isPending_eq] at hp
    simp only [State.rdB, State.isPending_eq, step]
    by_cases hl : c / 64 = a / 64
    · by_cases h2 : c = a <;> simp [hl, h2, hp, Memory.rd_wr, Memory.rd_zeroLine]
    · have h2 : c ≠ a := by rintro rfl; exact hl rfl
      by_cases hz : hasLine s.fill .dram (c / 64) = true <;> simp [hz, hl, h2, Memory.rd_wr, Memory.rd_zeroLine]
  · rw [if_neg hp]
    rw [State.isPending_eq] at hp
    simp only [State.rdB, State.isPending_eq]
    by_cases h2 : c = a
    · subst h2; simp [hp, Memory.rd_wr]
    · by_cases hz : hasLine s.fill .dram (c / 64) = true <;> simp [hz, h2, Memory.rd_wr]

/-- What a byte written in DRAM leaves alone: every place of another space. -/
theorem State.rdB_wrB_mem_other (ix dur : Bool) (a : Nat) (b : Byte) (l : Loc) (h : ∀ jx jur, l.sp ≠ .mem jx jur) :
    (s.wrB ⟨.mem ix dur, a⟩ b).rdB l = s.rdB l := by
  obtain ⟨sp, c⟩ := l
  have hfill : ∀ line, hasLine (dropLine .dram (a / 64) s.fill) .sram line = hasLine s.fill .sram line := by
    intro line
    rw [Bool.eq_iff_iff, dropLine, hasLine_dropLines]
    simp
  cases sp with
  | mem jx jur => exact absurd rfl (h jx jur)
  | sram r =>
    simp only [State.wrB]
    split
    · simp only [State.rdB, State.isPending_eq, hfill]
      split <;> rename_i hz
      · exact (if_pos hz).symm
      · exact (if_neg hz).symm
    · rfl
  | win => simp only [State.wrB]; split <;> rfl
  | flash => simp only [State.wrB]; split <;> rfl
  | remote p => rfl
  | ctl => rfl

end Sys2Proof.Machine
end

