-- ==== Sys2Proof/Laws/PerInstr.lean ====
section
/-!
SUPPORT. One lemma per instruction: its opcode, or the pair opcode of its first half, is the one that leads the
decoder back to it (R40, R47). An event has neither.
-/
namespace Sys2Proof.Laws.Encodes

/-- The opcode of a full form fits its field and is the constructor's own; a pair word is put together again from its halves, and the
code of its first half is that half's operation's. -/
def Statement (i : Instr) : Prop :=
  (∀ opc f, i.full? = some (opc, f) → opc < 2 ^ 10 ∧ Instr.ofOpc opc f = some i) ∧
    ∀ h0 h1, i.pair? = some (h0, h1) → Instr.ofHalves h0 h1 = i ∧ PairOp.ofCode h0.op.code = some h0.op

/-- A full form. -/
theorem of_full {i : Instr} {opc : Nat} {f : Fields} (h : i.full? = some (opc, f)) (hp : i.pair? = none) (ho : opc < 2 ^ 10)
    (hi : Instr.ofOpc opc f = some i) : Statement i := by
  refine ⟨fun o g hg => ?_, fun a b hb => by simp [hp] at hb⟩
  rw [h] at hg
  cases hg
  exact ⟨ho, hi⟩

/-- A pair word. -/
theorem of_pair {i : Instr} {x y : Half} (h : i.full? = none) (hp : i.pair? = some (x, y)) (hi : Instr.ofHalves x y = i)
    (hc : PairOp.ofCode x.op.code = some x.op) : Statement i := by
  refine ⟨fun o g hg => by simp [h] at hg, fun a b hb => ?_⟩
  rw [hp] at hb
  cases hb
  exact ⟨hi, hc⟩

/-- An event. -/
theorem of_event {i : Instr} (h : i.full? = none) (hp : i.pair? = none) : Statement i :=
  ⟨fun _ _ hg => by simp [h] at hg, fun _ _ hb => by simp [hp] at hb⟩

theorem nop (f : Fields) : Statement (.nop f) := of_full rfl rfl (by decide) rfl
theorem smov (f : Fields) : Statement (.smov f) := of_full rfl rfl (by decide) rfl
theorem sadd (f : Fields) : Statement (.sadd f) := of_full rfl rfl (by decide) rfl
theorem ssub (f : Fields) : Statement (.ssub f) := of_full rfl rfl (by decide) rfl
theorem smul (f : Fields) : Statement (.smul f) := of_full rfl rfl (by decide) rfl
theorem smulh (f : Fields) : Statement (.smulh f) := of_full rfl rfl (by decide) rfl
theorem sdiv (f : Fields) : Statement (.sdiv f) := of_full rfl rfl (by decide) rfl
theorem srem (f : Fields) : Statement (.srem f) := of_full rfl rfl (by decide) rfl
theorem sand (f : Fields) : Statement (.sand f) := of_full rfl rfl (by decide) rfl
theorem sor (f : Fields) : Statement (.sor f) := of_full rfl rfl (by decide) rfl
theorem sxor (f : Fields) : Statement (.sxor f) := of_full rfl rfl (by decide) rfl
theorem sandn (f : Fields) : Statement (.sandn f) := of_full rfl rfl (by decide) rfl
theorem sshl (f : Fields) : Statement (.sshl f) := of_full rfl rfl (by decide) rfl
theorem sshr (f : Fields) : Statement (.sshr f) := of_full rfl rfl (by decide) rfl
theorem ssar (f : Fields) : Statement (.ssar f) := of_full rfl rfl (by decide) rfl
theorem smin (f : Fields) : Statement (.smin f) := of_full rfl rfl (by decide) rfl
theorem smax (f : Fields) : Statement (.smax f) := of_full rfl rfl (by decide) rfl
theorem scmp (f : Fields) : Statement (.scmp f) := of_full rfl rfl (by decide) rfl
theorem ssel (f : Fields) : Statement (.ssel f) := of_full rfl rfl (by decide) rfl
theorem spopc (f : Fields) : Statement (.spopc f) := of_full rfl rfl (by decide) rfl
theorem sclz (f : Fields) : Statement (.sclz f) := of_full rfl rfl (by decide) rfl
theorem sbfe (f : Fields) : Statement (.sbfe f) := of_full rfl rfl (by decide) rfl
theorem sbfi (f : Fields) : Statement (.sbfi f) := of_full rfl rfl (by decide) rfl
theorem slea (f : Fields) : Statement (.slea f) := of_full rfl rfl (by decide) rfl
theorem srdl (f : Fields) : Statement (.srdl f) := of_full rfl rfl (by decide) rfl
theorem swrl (f : Fields) : Statement (.swrl f) := of_full rfl rfl (by decide) rfl
theorem sgets (f : Fields) : Statement (.sgets f) := of_full rfl rfl (by decide) rfl
theorem vmov (f : Fields) : Statement (.vmov f) := of_full rfl rfl (by decide) rfl
theorem vadd (f : Fields) : Statement (.vadd f) := of_full rfl rfl (by decide) rfl
theorem vsub (f : Fields) : Statement (.vsub f) := of_full rfl rfl (by decide) rfl
theorem vmul (f : Fields) : Statement (.vmul f) := of_full rfl rfl (by decide) rfl
theorem vmulh (f : Fields) : Statement (.vmulh f) := of_full rfl rfl (by decide) rfl
theorem vmad (f : Fields) : Statement (.vmad f) := of_full rfl rfl (by decide) rfl
theorem vmin (f : Fields) : Statement (.vmin f) := of_full rfl rfl (by decide) rfl
theorem vmax (f : Fields) : Statement (.vmax f) := of_full rfl rfl (by decide) rfl
theorem vabs (f : Fields) : Statement (.vabs f) := of_full rfl rfl (by decide) rfl
theorem vand (f : Fields) : Statement (.vand f) := of_full rfl rfl (by decide) rfl
theorem vor (f : Fields) : Statement (.vor f) := of_full rfl rfl (by decide) rfl
theorem vxor (f : Fields) : Statement (.vxor f) := of_full rfl rfl (by decide) rfl
theorem vandn (f : Fields) : Statement (.vandn f) := of_full rfl rfl (by decide) rfl
theorem vshl (f : Fields) : Statement (.vshl f) := of_full rfl rfl (by decide) rfl
theorem vshr (f : Fields) : Statement (.vshr f) := of_full rfl rfl (by decide) rfl
theorem vsar (f : Fields) : Statement (.vsar f) := of_full rfl rfl (by decide) rfl
theorem vpopc (f : Fields) : Statement (.vpopc f) := of_full rfl rfl (by decide) rfl
theorem vclz (f : Fields) : Statement (.vclz f) := of_full rfl rfl (by decide) rfl
theorem vbrev (f : Fields) : Statement (.vbrev f) := of_full rfl rfl (by decide) rfl
theorem vbfe (f : Fields) : Statement (.vbfe f) := of_full rfl rfl (by decide) rfl
theorem vbfi (f : Fields) : Statement (.vbfi f) := of_full rfl rfl (by decide) rfl
theorem vsel (f : Fields) : Statement (.vsel f) := of_full rfl rfl (by decide) rfl
theorem vcmp (f : Fields) : Statement (.vcmp f) := of_full rfl rfl (by decide) rfl
theorem vlid (f : Fields) : Statement (.vlid f) := of_full rfl rfl (by decide) rfl
theorem vshfl (f : Fields) : Statement (.vshfl f) := of_full rfl rfl (by decide) rfl
theorem vbcast (f : Fields) : Statement (.vbcast f) := of_full rfl rfl (by decide) rfl
theorem vred (f : Fields) : Statement (.vred f) := of_full rfl rfl (by decide) rfl
theorem vscan (f : Fields) : Statement (.vscan f) := of_full rfl rfl (by decide) rfl
theorem vcomp (f : Fields) : Statement (.vcomp f) := of_full rfl rfl (by decide) rfl
theorem vdiv (f : Fields) : Statement (.vdiv f) := of_full rfl rfl (by decide) rfl
theorem vrem (f : Fields) : Statement (.vrem f) := of_full rfl rfl (by decide) rfl
theorem mmov (f : Fields) : Statement (.mmov f) := of_full rfl rfl (by decide) rfl
theorem mand (f : Fields) : Statement (.mand f) := of_full rfl rfl (by decide) rfl
theorem mor (f : Fields) : Statement (.mor f) := of_full rfl rfl (by decide) rfl
theorem mxor (f : Fields) : Statement (.mxor f) := of_full rfl rfl (by decide) rfl
theorem mandn (f : Fields) : Statement (.mandn f) := of_full rfl rfl (by decide) rfl
theorem mnot (f : Fields) : Statement (.mnot f) := of_full rfl rfl (by decide) rfl
theorem ballot (f : Fields) : Statement (.ballot f) := of_full rfl rfl (by decide) rfl
theorem mpopc (f : Fields) : Statement (.mpopc f) := of_full rfl rfl (by decide) rfl
theorem mrank (f : Fields) : Statement (.mrank f) := of_full rfl rfl (by decide) rfl
theorem msets (f : Fields) : Statement (.msets f) := of_full rfl rfl (by decide) rfl
theorem mfirst (f : Fields) : Statement (.mfirst f) := of_full rfl rfl (by decide) rfl
theorem fadd (f : Fields) : Statement (.fadd f) := of_full rfl rfl (by decide) rfl
theorem fsub (f : Fields) : Statement (.fsub f) := of_full rfl rfl (by decide) rfl
theorem fmul (f : Fields) : Statement (.fmul f) := of_full rfl rfl (by decide) rfl
theorem ffma (f : Fields) : Statement (.ffma f) := of_full rfl rfl (by decide) rfl
theorem fmin (f : Fields) : Statement (.fmin f) := of_full rfl rfl (by decide) rfl
theorem fmax (f : Fields) : Statement (.fmax f) := of_full rfl rfl (by decide) rfl
theorem fcmp (f : Fields) : Statement (.fcmp f) := of_full rfl rfl (by decide) rfl
theorem fclass (f : Fields) : Statement (.fclass f) := of_full rfl rfl (by decide) rfl
theorem frnd (f : Fields) : Statement (.frnd f) := of_full rfl rfl (by decide) rfl
theorem frcp (f : Fields) : Statement (.frcp f) := of_full rfl rfl (by decide) rfl
theorem frsq (f : Fields) : Statement (.frsq f) := of_full rfl rfl (by decide) rfl
theorem fsqrt (f : Fields) : Statement (.fsqrt f) := of_full rfl rfl (by decide) rfl
theorem fdiv (f : Fields) : Statement (.fdiv f) := of_full rfl rfl (by decide) rfl
theorem fexp2 (f : Fields) : Statement (.fexp2 f) := of_full rfl rfl (by decide) rfl
theorem flog2 (f : Fields) : Statement (.flog2 f) := of_full rfl rfl (by decide) rfl
theorem fsin (f : Fields) : Statement (.fsin f) := of_full rfl rfl (by decide) rfl
theorem fcos (f : Fields) : Statement (.fcos f) := of_full rfl rfl (by decide) rfl
theorem ftanh (f : Fields) : Statement (.ftanh f) := of_full rfl rfl (by decide) rfl
theorem fdot2 (f : Fields) : Statement (.fdot2 f) := of_full rfl rfl (by decide) rfl
theorem fscale (f : Fields) : Statement (.fscale f) := of_full rfl rfl (by decide) rfl
theorem cvt (f : Fields) : Statement (.cvt f) := of_full rfl rfl (by decide) rfl
theorem pack (f : Fields) : Statement (.pack f) := of_full rfl rfl (by decide) rfl
theorem unpack (f : Fields) : Statement (.unpack f) := of_full rfl rfl (by decide) rfl
theorem bscale (f : Fields) : Statement (.bscale f) := of_full rfl rfl (by decide) rfl
theorem ld (f : Fields) : Statement (.ld f) := of_full rfl rfl (by decide) rfl
theorem st (f : Fields) : Statement (.st f) := of_full rfl rfl (by decide) rfl
theorem lds (f : Fields) : Statement (.lds f) := of_full rfl rfl (by decide) rfl
theorem sts (f : Fields) : Statement (.sts f) := of_full rfl rfl (by decide) rfl
theorem atom (f : Fields) : Statement (.atom f) := of_full rfl rfl (by decide) rfl
theorem atoms (f : Fields) : Statement (.atoms f) := of_full rfl rfl (by decide) rfl
theorem stcomp (f : Fields) : Statement (.stcomp f) := of_full rfl rfl (by decide) rfl
theorem ldexp (f : Fields) : Statement (.ldexp f) := of_full rfl rfl (by decide) rfl
theorem pref (f : Fields) : Statement (.pref f) := of_full rfl rfl (by decide) rfl
theorem fence (f : Fields) : Statement (.fence f) := of_full rfl rfl (by decide) rfl
theorem cpl (f : Fields) : Statement (.cpl f) := of_full rfl rfl (by decide) rfl
theorem cpgather (f : Fields) : Statement (.cpgather f) := of_full rfl rfl (by decide) rfl
theorem cpscatter (f : Fields) : Statement (.cpscatter f) := of_full rfl rfl (by decide) rfl
theorem cptile (f : Fields) : Statement (.cptile f) := of_full rfl rfl (by decide) rfl
theorem cpfill (f : Fields) : Statement (.cpfill f) := of_full rfl rfl (by decide) rfl
theorem aclose (f : Fields) : Statement (.aclose f) := of_full rfl rfl (by decide) rfl
theorem await (f : Fields) : Statement (.await f) := of_full rfl rfl (by decide) rfl
theorem atest (f : Fields) : Statement (.atest f) := of_full rfl rfl (by decide) rfl
theorem cwaitge (f : Fields) : Statement (.cwaitge f) := of_full rfl rfl (by decide) rfl
theorem gset (f : Fields) : Statement (.gset f) := of_full rfl rfl (by decide) rfl
theorem bncount (f : Fields) : Statement (.bncount f) := of_full rfl rfl (by decide) rfl
theorem bnpatch (f : Fields) : Statement (.bnpatch f) := of_full rfl rfl (by decide) rfl
theorem bnrel (f : Fields) : Statement (.bnrel f) := of_full rfl rfl (by decide) rfl
theorem bnreset (f : Fields) : Statement (.bnreset f) := of_full rfl rfl (by decide) rfl
theorem oclaim (f : Fields) : Statement (.oclaim f) := of_full rfl rfl (by decide) rfl
theorem orel (f : Fields) : Statement (.orel f) := of_full rfl rfl (by decide) rfl
theorem oload (f : Fields) : Statement (.oload f) := of_full rfl rfl (by decide) rfl
theorem aclaim (f : Fields) : Statement (.aclaim f) := of_full rfl rfl (by decide) rfl
theorem arel (f : Fields) : Statement (.arel f) := of_full rfl rfl (by decide) rfl
theorem azero (f : Fields) : Statement (.azero f) := of_full rfl rfl (by decide) rfl
theorem mma (f : Fields) : Statement (.mma f) := of_full rfl rfl (by decide) rfl
theorem adrain (f : Fields) : Statement (.adrain f) := of_full rfl rfl (by decide) rfl
theorem astore (f : Fields) : Statement (.astore f) := of_full rfl rfl (by decide) rfl
theorem mstat (f : Fields) : Statement (.mstat f) := of_full rfl rfl (by decide) rfl
theorem aband (f : Fields) : Statement (.aband f) := of_full rfl rfl (by decide) rfl
theorem winstall (f : Fields) : Statement (.winstall f) := of_full rfl rfl (by decide) rfl
theorem wstat (f : Fields) : Statement (.wstat f) := of_full rfl rfl (by decide) rfl
theorem pgmove (f : Fields) : Statement (.pgmove f) := of_full rfl rfl (by decide) rfl
theorem sealStr (f : Fields) : Statement (.sealStr f) := of_full rfl rfl (by decide) rfl
theorem unsealStr (f : Fields) : Statement (.unsealStr f) := of_full rfl rfl (by decide) rfl
theorem rank1 (f : Fields) : Statement (.rank1 f) := of_full rfl rfl (by decide) rfl
theorem rank0 (f : Fields) : Statement (.rank0 f) := of_full rfl rfl (by decide) rfl
theorem sel1 (f : Fields) : Statement (.sel1 f) := of_full rfl rfl (by decide) rfl
theorem sel0 (f : Fields) : Statement (.sel0 f) := of_full rfl rfl (by decide) rfl
theorem fclose (f : Fields) : Statement (.fclose f) := of_full rfl rfl (by decide) rfl
theorem fopen (f : Fields) : Statement (.fopen f) := of_full rfl rfl (by decide) rfl
theorem encl (f : Fields) : Statement (.encl f) := of_full rfl rfl (by decide) rfl
theorem exmin (f : Fields) : Statement (.exmin f) := of_full rfl rfl (by decide) rfl
theorem tkmatch (f : Fields) : Statement (.tkmatch f) := of_full rfl rfl (by decide) rfl
theorem utfcut (f : Fields) : Statement (.utfcut f) := of_full rfl rfl (by decide) rfl
theorem ixstat (f : Fields) : Statement (.ixstat f) := of_full rfl rfl (by decide) rfl
theorem bra (f : Fields) : Statement (.bra f) := of_full rfl rfl (by decide) rfl
theorem brc (f : Fields) : Statement (.brc f) := of_full rfl rfl (by decide) rfl
theorem brm (f : Fields) : Statement (.brm f) := of_full rfl rfl (by decide) rfl
theorem bspl (f : Fields) : Statement (.bspl f) := of_full rfl rfl (by decide) rfl
theorem join (f : Fields) : Statement (.join f) := of_full rfl rfl (by decide) rfl
theorem call (f : Fields) : Statement (.call f) := of_full rfl rfl (by decide) rfl
theorem ret (f : Fields) : Statement (.ret f) := of_full rfl rfl (by decide) rfl
theorem jmpi (f : Fields) : Statement (.jmpi f) := of_full rfl rfl (by decide) rfl
theorem exit (f : Fields) : Statement (.exit f) := of_full rfl rfl (by decide) rfl
theorem bar (f : Fields) : Statement (.bar f) := of_full rfl rfl (by decide) rfl
theorem bara (f : Fields) : Statement (.bara f) := of_full rfl rfl (by decide) rfl
theorem barw (f : Fields) : Statement (.barw f) := of_full rfl rfl (by decide) rfl
theorem barinit (f : Fields) : Statement (.barinit f) := of_full rfl rfl (by decide) rfl
theorem barinv (f : Fields) : Statement (.barinv f) := of_full rfl rfl (by decide) rfl
theorem barexp (f : Fields) : Statement (.barexp f) := of_full rfl rfl (by decide) rfl
theorem yld (f : Fields) : Statement (.yld f) := of_full rfl rfl (by decide) rfl
theorem idem (f : Fields) : Statement (.idem f) := of_full rfl rfl (by decide) rfl
theorem tspawn (f : Fields) : Statement (.tspawn f) := of_full rfl rfl (by decide) rfl
theorem tjoin (f : Fields) : Statement (.tjoin f) := of_full rfl rfl (by decide) rfl
theorem nap (f : Fields) : Statement (.nap f) := of_full rfl rfl (by decide) rfl
theorem lspawn (f : Fields) : Statement (.lspawn f) := of_full rfl rfl (by decide) rfl
theorem trap (f : Fields) : Statement (.trap f) := of_full rfl rfl (by decide) rfl
theorem bkpt (f : Fields) : Statement (.bkpt f) := of_full rfl rfl (by decide) rfl
theorem ssets (f : Fields) : Statement (.ssets f) := of_full rfl rfl (by decide) rfl
theorem ckpt (f : Fields) : Statement (.ckpt f) := of_full rfl rfl (by decide) rfl
theorem rpread (f : Fields) : Statement (.rpread f) := of_full rfl rfl (by decide) rfl
theorem lcancel (f : Fields) : Statement (.lcancel f) := of_full rfl rfl (by decide) rfl
theorem lcount (f : Fields) : Statement (.lcount f) := of_full rfl rfl (by decide) rfl
theorem pairNop (h1 : Half) : Statement (.pairNop h1) := of_pair rfl rfl rfl rfl
theorem pairSmov (d : BitVec 8) (x : Src) (h1 : Half) : Statement (.pairSmov d x h1) := of_pair rfl rfl rfl rfl
theorem pairSadd (d : BitVec 8) (x : Src) (h1 : Half) : Statement (.pairSadd d x h1) := of_pair rfl rfl rfl rfl
theorem pairSsub (d : BitVec 8) (x : Src) (h1 : Half) : Statement (.pairSsub d x h1) := of_pair rfl rfl rfl rfl
theorem pairSand (d : BitVec 8) (x : Src) (h1 : Half) : Statement (.pairSand d x h1) := of_pair rfl rfl rfl rfl
theorem pairSor (d : BitVec 8) (x : Src) (h1 : Half) : Statement (.pairSor d x h1) := of_pair rfl rfl rfl rfl
theorem pairSxor (d : BitVec 8) (x : Src) (h1 : Half) : Statement (.pairSxor d x h1) := of_pair rfl rfl rfl rfl
theorem pairSshl (d : BitVec 8) (x : Src) (h1 : Half) : Statement (.pairSshl d x h1) := of_pair rfl rfl rfl rfl
theorem pairSshr (d : BitVec 8) (x : Src) (h1 : Half) : Statement (.pairSshr d x h1) := of_pair rfl rfl rfl rfl
theorem pairSsar (d : BitVec 8) (x : Src) (h1 : Half) : Statement (.pairSsar d x h1) := of_pair rfl rfl rfl rfl
theorem pairSmin (d : BitVec 8) (x : Src) (h1 : Half) : Statement (.pairSmin d x h1) := of_pair rfl rfl rfl rfl
theorem pairSmax (d : BitVec 8) (x : Src) (h1 : Half) : Statement (.pairSmax d x h1) := of_pair rfl rfl rfl rfl
theorem pairVmov (d : BitVec 8) (x : Src) (h1 : Half) : Statement (.pairVmov d x h1) := of_pair rfl rfl rfl rfl
theorem pairVaddI32 (d : BitVec 8) (x : Src) (h1 : Half) : Statement (.pairVaddI32 d x h1) := of_pair rfl rfl rfl rfl
theorem pairVsubI32 (d : BitVec 8) (x : Src) (h1 : Half) : Statement (.pairVsubI32 d x h1) := of_pair rfl rfl rfl rfl
theorem pairVmulI32 (d : BitVec 8) (x : Src) (h1 : Half) : Statement (.pairVmulI32 d x h1) := of_pair rfl rfl rfl rfl
theorem pairVand (d : BitVec 8) (x : Src) (h1 : Half) : Statement (.pairVand d x h1) := of_pair rfl rfl rfl rfl
theorem pairVor (d : BitVec 8) (x : Src) (h1 : Half) : Statement (.pairVor d x h1) := of_pair rfl rfl rfl rfl
theorem pairVxor (d : BitVec 8) (x : Src) (h1 : Half) : Statement (.pairVxor d x h1) := of_pair rfl rfl rfl rfl
theorem pairVshl (d : BitVec 8) (x : Src) (h1 : Half) : Statement (.pairVshl d x h1) := of_pair rfl rfl rfl rfl
theorem pairVshr (d : BitVec 8) (x : Src) (h1 : Half) : Statement (.pairVshr d x h1) := of_pair rfl rfl rfl rfl
theorem pairVsar (d : BitVec 8) (x : Src) (h1 : Half) : Statement (.pairVsar d x h1) := of_pair rfl rfl rfl rfl
theorem pairVminI32 (d : BitVec 8) (x : Src) (h1 : Half) : Statement (.pairVminI32 d x h1) := of_pair rfl rfl rfl rfl
theorem pairVminN32 (d : BitVec 8) (x : Src) (h1 : Half) : Statement (.pairVminN32 d x h1) := of_pair rfl rfl rfl rfl
theorem pairVmaxI32 (d : BitVec 8) (x : Src) (h1 : Half) : Statement (.pairVmaxI32 d x h1) := of_pair rfl rfl rfl rfl
theorem pairVmaxN32 (d : BitVec 8) (x : Src) (h1 : Half) : Statement (.pairVmaxN32 d x h1) := of_pair rfl rfl rfl rfl
theorem pairVabsI32 (d : BitVec 8) (x : Src) (h1 : Half) : Statement (.pairVabsI32 d x h1) := of_pair rfl rfl rfl rfl
theorem pairFaddF32 (d : BitVec 8) (x : Src) (h1 : Half) : Statement (.pairFaddF32 d x h1) := of_pair rfl rfl rfl rfl
theorem pairFsubF32 (d : BitVec 8) (x : Src) (h1 : Half) : Statement (.pairFsubF32 d x h1) := of_pair rfl rfl rfl rfl
theorem pairFaddF16x2 (d : BitVec 8) (x : Src) (h1 : Half) : Statement (.pairFaddF16x2 d x h1) := of_pair rfl rfl rfl rfl
theorem pairFmulF32 (d : BitVec 8) (x : Src) (h1 : Half) : Statement (.pairFmulF32 d x h1) := of_pair rfl rfl rfl rfl
theorem pairFminF32 (d : BitVec 8) (x : Src) (h1 : Half) : Statement (.pairFminF32 d x h1) := of_pair rfl rfl rfl rfl
theorem pairFmaxF32 (d : BitVec 8) (x : Src) (h1 : Half) : Statement (.pairFmaxF32 d x h1) := of_pair rfl rfl rfl rfl
theorem pairFaddBf16x2 (d : BitVec 8) (x : Src) (h1 : Half) : Statement (.pairFaddBf16x2 d x h1) := of_pair rfl rfl rfl rfl
theorem pairFmulBf16x2 (d : BitVec 8) (x : Src) (h1 : Half) : Statement (.pairFmulBf16x2 d x h1) := of_pair rfl rfl rfl rfl
theorem pairMand (d : BitVec 8) (x : Src) (h1 : Half) : Statement (.pairMand d x h1) := of_pair rfl rfl rfl rfl
theorem pairMor (d : BitVec 8) (x : Src) (h1 : Half) : Statement (.pairMor d x h1) := of_pair rfl rfl rfl rfl
theorem pairMxor (d : BitVec 8) (x : Src) (h1 : Half) : Statement (.pairMxor d x h1) := of_pair rfl rfl rfl rfl
theorem pairMandn (d : BitVec 8) (x : Src) (h1 : Half) : Statement (.pairMandn d x h1) := of_pair rfl rfl rfl rfl
theorem pairSlea (d : BitVec 8) (x : Src) (h1 : Half) : Statement (.pairSlea d x h1) := of_pair rfl rfl rfl rfl
theorem pairVaddI16x2 (d : BitVec 8) (x : Src) (h1 : Half) : Statement (.pairVaddI16x2 d x h1) := of_pair rfl rfl rfl rfl
theorem pairVaddI8x4 (d : BitVec 8) (x : Src) (h1 : Half) : Statement (.pairVaddI8x4 d x h1) := of_pair rfl rfl rfl rfl
theorem homeWrite (id : Nat) : Statement (.homeWrite id) := of_event rfl rfl
theorem stringWrite (id : Nat) : Statement (.stringWrite id) := of_event rfl rfl
theorem rcvReleaseApply (id : Nat) : Statement (.rcvReleaseApply id) := of_event rfl rfl
theorem loadResultReturn (id : Nat) (err : Bool) : Statement (.loadResultReturn id err) := of_event rfl rfl
theorem queryRead (id k : Nat) : Statement (.queryRead id k) := of_event rfl rfl
theorem queryResultReturn (id : Nat) (err : Bool) : Statement (.queryResultReturn id err) := of_event rfl rfl
theorem directoryBuildEnd (dir : Nat) : Statement (.directoryBuildEnd dir) := of_event rfl rfl
theorem stagingFillComplete (granule : Nat) (err : Bool) : Statement (.stagingFillComplete granule err) := of_event rfl rfl
theorem enginePieceLand (id k : Nat) (bad : List Nat) : Statement (.enginePieceLand id k bad) := of_event rfl rfl
theorem engineJobStart (id : Nat) : Statement (.engineJobStart id) := of_event rfl rfl
theorem mmaQuarterComplete (id : Nat) : Statement (.mmaQuarterComplete id) := of_event rfl rfl
theorem proofProductStart (col sa : Nat) : Statement (.proofProductStart col sa) := of_event rfl rfl
theorem proofProductCheck (col sa : Nat) (ok : Bool) : Statement (.proofProductCheck col sa ok) := of_event rfl rfl
theorem installStart (id : Nat) : Statement (.installStart id) := of_event rfl rfl
theorem installUnitProgrammed (id : Nat) (err : Bool) : Statement (.installUnitProgrammed id err) := of_event rfl rfl
theorem installCommit (id : Nat) : Statement (.installCommit id) := of_event rfl rfl
theorem installEnd (id : Nat) : Statement (.installEnd id) := of_event rfl rfl
theorem napExpiry (g sp : Nat) : Statement (.napExpiry g sp) := of_event rfl rfl
theorem teamSave (team : Nat) : Statement (.teamSave team) := of_event rfl rfl
theorem dispatch (die ten : Nat) : Statement (.dispatch die ten) := of_event rfl rfl
theorem initialRecordWrite (launch : Nat) : Statement (.initialRecordWrite launch) := of_event rfl rfl
theorem parentJoinPush (k : Nat) : Statement (.parentJoinPush k) := of_event rfl rfl
theorem launchAccept (port : Nat) : Statement (.launchAccept port) := of_event rfl rfl
theorem faultRecordPost (k : Nat) : Statement (.faultRecordPost k) := of_event rfl rfl
theorem checkpointCommitWrite (ten job : Nat) : Statement (.checkpointCommitWrite ten job) := of_event rfl rfl
theorem checkpointSeal (ten job : Nat) : Statement (.checkpointSeal ten job) := of_event rfl rfl
theorem rollbackRestore (ten job : Nat) : Statement (.rollbackRestore ten job) := of_event rfl rfl
theorem pageEditComplete (ten va : Nat) : Statement (.pageEditComplete ten va) := of_event rfl rfl
theorem flitReceive (link : Nat) (check : FlitCheck) : Statement (.flitReceive link check) := of_event rfl rfl
theorem resendTimeout (k : Nat) : Statement (.resendTimeout k) := of_event rfl rfl
theorem linkRetrainComplete (link : Nat) : Statement (.linkRetrainComplete link) := of_event rfl rfl
theorem activationAlert (bank : Nat) : Statement (.activationAlert bank) := of_event rfl rfl
theorem pageWalkComplete (col ten va : Nat) : Statement (.pageWalkComplete col ten va) := of_event rfl rfl
theorem notPresentAnswerValid (c : PortTenant) (va : Nat) : Statement (.notPresentAnswerValid c va) := of_event rfl rfl
theorem notPresentAnswerDeliver (c : PortTenant) (va : Nat) : Statement (.notPresentAnswerDeliver c va) := of_event rfl rfl
theorem pageEdit (c : PortTenant) (va level : Nat) (entry : Word) : Statement (.pageEdit c va level entry) := of_event rfl rfl
theorem backgroundFillLine (sp : FillSpace) (line : Nat) : Statement (.backgroundFillLine sp line) := of_event rfl rfl
theorem memoryReassign (sp : FillSpace) (base len : Nat) : Statement (.memoryReassign sp base len) := of_event rfl rfl
theorem tenantSetup (port ten root : Nat) : Statement (.tenantSetup port ten root) := of_event rfl rfl
theorem tenantTeardown (port ten : Nat) : Statement (.tenantTeardown port ten) := of_event rfl rfl
theorem supervisorDesignate (port ten : Nat) : Statement (.supervisorDesignate port ten) := of_event rfl rfl
theorem vaultBandChange (col temp : Nat) : Statement (.vaultBandChange col temp) := of_event rfl rfl
theorem heatIntervalEnd (col : Nat) (powers : List (Nat × Nat)) : Statement (.heatIntervalEnd col powers) := of_event rfl rfl
theorem pageMigrationStart (ten va target : Nat) : Statement (.pageMigrationStart ten va target) := of_event rfl rfl
theorem pageMigrationSwitch (ten va frame : Nat) : Statement (.pageMigrationSwitch ten va frame) := of_event rfl rfl
theorem stagingCacheResize (port size : Nat) : Statement (.stagingCacheResize port size) := of_event rfl rfl
theorem stagingResizeApply : Statement .stagingResizeApply := of_event rfl rfl
theorem installRegionDefine (port n ten stack base units budget : Nat) : Statement (.installRegionDefine port n ten stack base units budget) := of_event rfl rfl
theorem unfence (port col sa : Nat) (ok : Bool) : Statement (.unfence port col sa ok) := of_event rfl rfl
theorem preemptionRequest (team : Nat) (why : Why) : Statement (.preemptionRequest team why) := of_event rfl rfl
theorem itemAging (item : Nat) : Statement (.itemAging item) := of_event rfl rfl
theorem workMigration (die ten dest : Nat) : Statement (.workMigration die ten dest) := of_event rfl rfl
theorem subgo (port : Nat) : Statement (.subgo port) := of_event rfl rfl
theorem groupControlGo : Statement .groupControlGo := of_event rfl rfl
theorem checkpointAreaSet (port ten job base slotSize undo : Nat) : Statement (.checkpointAreaSet port ten job base slotSize undo) := of_event rfl rfl
theorem containmentCommand (c : PortTenant) (job : Nat) : Statement (.containmentCommand c job) := of_event rfl rfl
theorem shadowLatchReplay (col : Nat) : Statement (.shadowLatchReplay col) := of_event rfl rfl
theorem bivouacCommand (port : Nat) : Statement (.bivouacCommand port) := of_event rfl rfl
theorem pwrlow : Statement .pwrlow := of_event rfl rfl
theorem bivouacEntryComplete : Statement .bivouacEntryComplete := of_event rfl rfl
theorem bivouacBudgetExpiry : Statement .bivouacBudgetExpiry := of_event rfl rfl
theorem bivouacWake (failed : BitVec 8) (imageOk : Bool) : Statement (.bivouacWake failed imageOk) := of_event rfl rfl
theorem berWindowEstimate (link w est : Nat) : Statement (.berWindowEstimate link w est) := of_event rfl rfl
theorem wavelengthHandback (link : Nat) (e : WaveEnd) : Statement (.wavelengthHandback link e) := of_event rfl rfl
theorem wavelengthRejoin (link w : Nat) : Statement (.wavelengthRejoin link w) := of_event rfl rfl
theorem remoteTransaction (peer ten addr : Nat) (op : RemoteOp) : Statement (.remoteTransaction peer ten addr op) := of_event rfl rfl
theorem hostBar2Read (port off n : Nat) : Statement (.hostBar2Read port off n) := of_event rfl rfl
theorem hostBar2Write (port off : Nat) (data : List Byte) : Statement (.hostBar2Write port off data) := of_event rfl rfl
theorem ctlsemClaim (port : Nat) : Statement (.ctlsemClaim port) := of_event rfl rfl
theorem ctlsemRelease (port : Nat) : Statement (.ctlsemRelease port) := of_event rfl rfl
theorem portLinkDown (port : Nat) : Statement (.portLinkDown port) := of_event rfl rfl
theorem controlRegisterWrite (port : Nat) (reg : CtlReg) (v : Word) : Statement (.controlRegisterWrite port reg v) := of_event rfl rfl
theorem powerOn : Statement .powerOn := of_event rfl rfl
theorem selfTestComplete (fail : BitVec 29) : Statement (.selfTestComplete fail) := of_event rfl rfl
theorem firmwareWindowWrite (port off : Nat) (v : Byte) : Statement (.firmwareWindowWrite port off v) := of_event rfl rfl
theorem fwgo (port : Nat) (len : Word) : Statement (.fwgo port len) := of_event rfl rfl
theorem firmwareVerifyDone : Statement .firmwareVerifyDone := of_event rfl rfl
theorem attgo (port : Nat) : Statement (.attgo port) := of_event rfl rfl
theorem attestationReportDone : Statement .attestationReportDone := of_event rfl rfl
theorem deviceReset (held : Bool) : Statement (.deviceReset held) := of_event rfl rfl
theorem computeDieReset (die : Nat) : Statement (.computeDieReset die) := of_event rfl rfl
theorem opticalBaseReset : Statement .opticalBaseReset := of_event rfl rfl
theorem activationThrottleEnd (bank : Nat) : Statement (.activationThrottleEnd bank) := of_event rfl rfl
theorem portLinkTrained (port speed : Nat) : Statement (.portLinkTrained port speed) := of_event rfl rfl

end Sys2Proof.Laws.Encodes
end

