-- ==== Sys2Proof/Laws/Shared.lean ====
section
/-!
SUPPORT. What the operations that events share can do, said once: a home's write, a command through a port, a transaction
sent to a peer, a report, a fill asked for.
-/
namespace Sys2Proof.Machine

variable (s : State)

/-! ## Writes at their homes (R114, R310) -/

/-- Keeping directories exact changes directories alone. -/
theorem State.keepDirs_others (ls : List Loc) : { s.keepDirs ls with dirs := s.dirs } = s := by
  unfold State.keepDirs
  dsimp only
  split <;> rfl

/-- And none where no byte written is indexed. -/
theorem State.keepDirs_plain (ls : List Loc) (h : ∀ l ∈ ls, l.indexed = false) : s.keepDirs ls = s := by
  unfold State.keepDirs
  have : ls.filter Loc.indexed = [] := List.filter_eq_nil_iff.2 fun l hl => by simp [h l hl]
  simp [this]

theorem State.keepDirs_memOk (ls : List Loc) (h : s.MemOk) : (s.keepDirs ls).MemOk := by
  unfold State.keepDirs
  dsimp only
  split <;> exact h

/-- A home's write outside indexed pages is the job's write; in any case the memories keep their form. -/
theorem State.homeWrite_plain (ten : Nat) (job : Word) (l : Loc) (n v : Nat) (h : l.indexed = false) :
    s.homeWrite ten job l n v = s.jobWrite ten job l n v := by
  unfold State.homeWrite
  exact State.keepDirs_plain _ _ (by simpa using h)

theorem State.homeWrite_memOk (ten : Nat) (job : Word) (l : Loc) (n v : Nat) (h : s.MemOk) : (s.homeWrite ten job l n v).MemOk :=
  State.keepDirs_memOk _ _ (State.jobWrite_memOk _ _ _ _ _ _ h)

/-! ## Commands through a port (R343, R345, R348) -/

/-- A command through a port that cannot reach the device changes nothing. -/
theorem State.command_off (port : Nat) (k : State → State) (h : s.portOk port = false) : s.command port k = s := by simp [State.command, h]

/-- Lines none of which is picked stay where they are. -/
theorem State.flushLines_none (hit : LineWrite → Bool) (h : ∀ w ∈ s.lines, hit w = false) : s.flushLines hit = s := by
  have count (xs : List (LineWrite × Nat)) (hx : ∀ p ∈ xs, hit p.1 = false) :
      xs.foldl (fun n p => if hit p.1 then p.2 + 1 else n) 0 = 0 := by
    induction xs with
    | nil => rfl
    | cons p r ih =>
      rw [List.foldl_cons, if_neg (by simp [hx p (.head _)])]
      exact ih fun q hq => hx q (.tail _ hq)
  have h0 := count s.lines.zipIdx fun p hp => h p.1 (List.fst_mem_of_mem_zipIdx hp)
  simp only [State.flushLines, h0, List.drop_zero, List.take_zero, List.foldl_nil]

/-- A port with no write still to land has its command taken while the device runs, and dropped and counted before. -/
theorem State.posted_none (port : Nat) (h : ∀ w ∈ s.lines, w.port ≠ some port) : s.posted port = s :=
  s.flushLines_none _ fun w hw => by simpa using h w hw

theorem State.command_ok (port : Nat) (k : State → State) (hp : s.portOk port = true) (hl : ∀ w ∈ s.lines, w.port ≠ some port) :
    s.command port k = if s.boot.brstate = 5 then k s else s.reject port := by
  simp [State.command, hp, State.posted_none _ _ hl]

/-- A control write is the owner's of the semaphore; another's is dropped and counted. -/
theorem State.control_ok (port : Nat) (k : State → State) (hp : s.portOk port = true) (hl : ∀ w ∈ s.lines, w.port ≠ some port) :
    s.control port k = if s.ctlsem = port + 1 then k s else s.reject port := by
  simp [State.control, hp, State.posted_none _ _ hl]

/-! ## Peers, reports, fills (R77, R98, R338) -/

/-- A transaction sent waits behind those sent before it, under a number of its own, and changes nothing else. -/
@[simp] theorem State.sendRemote_remote (x : RemTx) : (s.sendRemote x).remote = s.remote ++ [{ x with resent := !s.reaches x.peer, id := s.nextId }] := rfl
@[simp] theorem State.sendRemote_nextId (x : RemTx) : (s.sendRemote x).nextId = s.nextId + 1 := rfl
theorem State.sendRemote_others (x : RemTx) : { s.sendRemote x with remote := s.remote, nextId := s.nextId } = s := rfl

/-- A report is posted once for its page, and changes nothing else. -/
theorem State.report_others (ten page : Nat) (m : Bool) : { s.report ten page m with reports := s.reports, told := s.told } = s := by
  unfold State.report
  split <;> rfl
theorem State.report_mem (ten page : Nat) (m : Bool) : (ten, page) ∈ (s.report ten page m).reports := by
  unfold State.report
  split
  · simp_all
  · simp

/-- Asking for granules changes the fills under way alone. -/
theorem State.wantFlash_others (ls : List Loc) : ∃ f, s.wantFlash ls = { s with filling := f } := by
  unfold State.wantFlash
  induction ls generalizing s with
  | nil => exact ⟨s.filling, rfl⟩
  | cons l ls ih =>
    rw [List.foldl_cons]
    dsimp only
    split
    · obtain ⟨f, h⟩ := ih { s with filling := s.filling ++ [l.a / 2 ^ 21] }
      exact ⟨f, h⟩
    · exact ih s

end Sys2Proof.Machine
end

