-- ==== Sys2Proof/Tests/Slice0.lean ====
section
/-!
SUPPORT. Tests on fixed values: words written out from the manual's encoding, ill-formed terms, single steps, and for
every statement a state and operands that meet its hypotheses.
-/
namespace Sys2Proof.Tests
set_option Elab.async false
open Machine Claims

/-! ## Words, field by field (R31, R39); the opcodes are those of R40 and R47 -/

/-- A full form: OPC, MSK, DST, kind and value of A, of B and of C, L, MOD. -/
def full (opc msk dst ak a bk b ck c l mod : Nat) : Word :=
  .ofNat 64 (opc * 2 ^ 53 + msk * 2 ^ 49 + dst * 2 ^ 41 + ak * 2 ^ 39 + a * 2 ^ 31 + bk * 2 ^ 29 + b * 2 ^ 21 + ck * 2 ^ 19 + c * 2 ^ 11 +
    l * 2 ^ 10 + mod)

/-- A pair: for H0 and H1 pair opcode, DST, source kind and source. -/
def pairWord (c0 d0 k0 x0 c1 d1 k1 x1 : Nat) : Word :=
  .ofNat 64 (2 ^ 63 + (c0 * 2 ^ 24 + d0 * 2 ^ 16 + k0 * 2 ^ 14 + x0 * 2 ^ 6) * 2 ^ 31 + (c1 * 2 ^ 24 + d1 * 2 ^ 16 + k1 * 2 ^ 14 + x1 * 2 ^ 6))

/-- The literal word of the tests. -/
def longWord : Word := 0x0123456789ABCDEF

/-- Each word decodes to its instruction, which is well formed. -/
def reads (l : List (Word × Instr)) : Bool :=
  l.all fun p => p.2.wf && match decode p.1 longWord with
    | .ok i => i == p.2
    | .error _ => false

/-! ## A small state: one tenant, one launch, one group of 32 lanes on column 0 -/

abbrev base : State := State.reset.withFetchWord 64 0
def after (i : Instr) (s : State) : State :=
  match exec i s with
  | .next t => t
  | _ => s
/-- Lanes 0, 1, … of a vector register, and lanes to read back. -/
def lanes (s : State) (r : Nat) (vs : List Nat) : State :=
  s.setGrp (vs.zipIdx.foldl (fun (g : Group) p => g.wrV r p.2 (.ofNat 32 p.1)) s.grp)
def lanesOut (s : State) (r n : Nat) : List Nat := (List.range n).map fun l => (s.grp.rdV r l).toNat
def setLaunchOf (s : State) (k : Launch → Launch) : State := { s with launches := s.launches.map k }
def setTeams (s : State) (k : Team → Team) : State := { s with teams := s.teams.map k }

/-! ## Words the manual works out -/

theorem test_decode_worked : [
    (0x00C006827F200001, Instr.sdiv ⟨0, 3, .sca 4, .lit (-7), .reg 0, 1⟩),
    (0x13000200E4000030, .vshfl ⟨0, 1, .reg 1, .lit 32, .reg 0, 0x30⟩),
    (0x1340120400000020, .vred ⟨0, 9, .reg 8, .reg 0, .reg 0, 0x20⟩),
    (0x2060040180802884, .ffma ⟨0, 2, .reg 3, .reg 4, .reg 5, 0x84⟩),
    (0x2420280570000445, .pack ⟨0, 20, .reg 10, .litWord longWord, .reg 0, 0x45⟩),
    (0x3000068100200102, .ld ⟨0, 3, .sca 2, .reg 1, .reg 0, 0x102⟩),
    (0x308010850020631A, .atom ⟨0, 8, .sca 10, .reg 1, .reg 12, 0x31A⟩),
    (0x3120000000000300, .fence ⟨0, 0, .reg 0, .reg 0, .reg 0, 0x300⟩),
    (0x4000000200D80001, .cpl ⟨0, 0, .reg 4, .reg 6, .lit 0, 1⟩),
    (0x42C60082A0C83883, .mma ⟨3, 0, .sca 5, .sca 6, .sca 7, 0x83⟩),
    (0x42E0118220600002, .adrain ⟨0, 8, .lit 4, .sca 3, .reg 0, 2⟩),
    (0x4400008120682000, .winstall ⟨0, 0, .sca 2, .sca 3, .sca 4, 0⟩),
    (0x50000A8180000000, .sealStr ⟨0, 5, .sca 3, .reg 0, .reg 0, 0⟩),
    (0x5040088100C00000, .rank1 ⟨0, 4, .sca 2, .reg 6, .reg 0, 0⟩)].all (fun p => reads [p]) = true := by
  decide

theorem test_decode_worked_more : [
    (0x4060008522088818, Instr.cptile ⟨0, 0, .sca 10, .sca 16, .sca 17, 0x18⟩),
    (0x602000827F800000, .brc ⟨0, 0, .sca 4, .lit (-4), .reg 0, 0⟩),
    (0x6060140000000000 + 0x80000000 + 0x61A00000 + 0x187800, .bspl ⟨0, 10, .reg 1, .lit 13, .lit 15, 0⟩),
    (0x6080008500000000, .join ⟨0, 0, .sca 10, .reg 0, .reg 0, 0⟩),
    (0x6120000160E02000, .bar ⟨0, 0, .reg 2, .lit 7, .reg 4, 0⟩),
    (0x61E0008A601C0402, .yld ⟨0, 0, .sca 20, .lit 0, .litWord longWord, 2⟩),
    (0x6200000000000000, .idem ⟨0, 0, .reg 0, .reg 0, .reg 0, 0⟩),
    (0x6220068400000000, .tspawn ⟨0, 3, .sca 8, .reg 0, .reg 0, 0⟩),
    (0x6240088400000000, .tjoin ⟨0, 4, .sca 8, .reg 0, .reg 0, 0⟩),
    (0x62800A8480000000, .lspawn ⟨0, 5, .sca 9, .reg 0, .reg 0, 0⟩),
    (0x7000018380000000, .trap ⟨0, 0, .lit 7, .reg 0, .reg 0, 0⟩),
    (0x7020018080000000, .bkpt ⟨0, 0, .lit 1, .reg 0, .reg 0, 0⟩),
    (0x70400180E0200000, .ssets ⟨0, 0, .lit 1, .lit 1, .reg 0, 0⟩),
    (0x7060080000000000, .ckpt ⟨0, 4, .reg 0, .reg 0, .reg 0, 0⟩),
    (0x70800F8000000000, .rpread ⟨0, 7, .lit 0, .reg 0, .reg 0, 0⟩),
    (0x70A00C8100000000, .lcancel ⟨0, 6, .sca 2, .reg 0, .reg 0, 0⟩),
    (0x70C0088480000001, .lcount ⟨0, 4, .sca 9, .reg 0, .reg 0, 1⟩)].all (fun p => reads [p]) = true := by
  decide

def setTenants (s : State) (k : Tenant → Tenant) : State := { s with tenants := s.tenants.map k }

theorem test_decode_Scalar : reads [
  (full 0x000 0 0 0 0 0 0 0 0 0 0, .nop ⟨0, 0, .reg 0, .reg 0, .reg 0, 0⟩),
  (full 0x001 0 63 3 128 0 0 0 0 1 0, .smov ⟨0, 63, .litWord longWord, .reg 0, .reg 0, 0⟩),
  (full 0x002 0 5 1 9 3 254 0 0 0 2, .sadd ⟨0, 5, .sca 9, .lit (-2), .reg 0, 2⟩),
  (full 0x003 0 5 1 9 3 254 0 0 0 2, .ssub ⟨0, 5, .sca 9, .lit (-2), .reg 0, 2⟩),
  (full 0x004 0 5 1 9 3 254 0 0 0 2, .smul ⟨0, 5, .sca 9, .lit (-2), .reg 0, 2⟩),
  (full 0x005 0 5 1 9 3 254 0 0 0 2, .smulh ⟨0, 5, .sca 9, .lit (-2), .reg 0, 2⟩),
  (full 0x006 0 6 2 200 1 64 0 0 0 3, .sdiv ⟨0, 6, .cst 200, .sca 64, .reg 0, 3⟩),
  (full 0x007 0 6 2 200 1 64 0 0 0 3, .srem ⟨0, 6, .cst 200, .sca 64, .reg 0, 3⟩),
  (full 0x008 0 7 3 128 1 1 0 0 1 0, .sand ⟨0, 7, .litWord longWord, .sca 1, .reg 0, 0⟩),
  (full 0x009 0 7 3 128 1 1 0 0 1 0, .sor ⟨0, 7, .litWord longWord, .sca 1, .reg 0, 0⟩),
  (full 0x00A 0 7 3 128 1 1 0 0 1 0, .sxor ⟨0, 7, .litWord longWord, .sca 1, .reg 0, 0⟩),
  (full 0x00B 0 7 3 128 1 1 0 0 1 0, .sandn ⟨0, 7, .litWord longWord, .sca 1, .reg 0, 0⟩),
  (full 0x00C 0 8 1 85 3 127 0 0 0 1, .sshl ⟨0, 8, .sca 85, .lit 127, .reg 0, 1⟩),
  (full 0x00D 0 8 1 85 3 127 0 0 0 1, .sshr ⟨0, 8, .sca 85, .lit 127, .reg 0, 1⟩),
  (full 0x00E 0 8 1 85 3 127 0 0 0 1, .ssar ⟨0, 8, .sca 85, .lit 127, .reg 0, 1⟩),
  (full 0x00F 0 6 2 200 1 64 0 0 0 3, .smin ⟨0, 6, .cst 200, .sca 64, .reg 0, 3⟩),
  (full 0x010 0 6 2 200 1 64 0 0 0 3, .smax ⟨0, 6, .cst 200, .sca 64, .reg 0, 3⟩),
  (full 0x011 0 9 1 2 3 129 0 0 0 0x16, .scmp ⟨0, 9, .sca 2, .lit (-127), .reg 0, 0x16⟩),
  (full 0x012 0 10 1 3 2 255 3 1 0 0, .ssel ⟨0, 10, .sca 3, .cst 255, .lit 1, 0⟩),
  (full 0x013 0 5 2 7 0 0 0 0 0 1, .spopc ⟨0, 5, .cst 7, .reg 0, .reg 0, 1⟩),
  (full 0x014 0 5 2 7 0 0 0 0 0 1, .sclz ⟨0, 5, .cst 7, .reg 0, .reg 0, 1⟩),
  (full 0x015 0 8 1 85 3 127 0 0 0 1, .sbfe ⟨0, 8, .sca 85, .lit 127, .reg 0, 1⟩),
  (full 0x016 0 8 1 85 3 127 0 0 0 1, .sbfi ⟨0, 8, .sca 85, .lit 127, .reg 0, 1⟩),
  (full 0x017 0 10 1 3 2 255 3 1 0 0, .slea ⟨0, 10, .sca 3, .cst 255, .lit 1, 0⟩),
  (full 0x018 0 11 0 254 1 4 0 0 0 3, .srdl ⟨0, 11, .reg 254, .sca 4, .reg 0, 3⟩),
  (full 0x019 0 252 2 1 1 5 0 0 0 0, .swrl ⟨0, 252, .cst 1, .sca 5, .reg 0, 0⟩),
  (full 0x01A 0 12 3 47 0 0 0 0 0 0, .sgets ⟨0, 12, .lit 47, .reg 0, .reg 0, 0⟩)] = true := by
  decide

theorem test_decode_Vector : reads [
  (full 0x080 15 3 0 5 0 0 0 0 0 0, .vmov ⟨15, 3, .reg 5, .reg 0, .reg 0, 0⟩),
  (full 0x081 0 3 0 3 2 0 0 0 0 8, .vadd ⟨0, 3, .reg 3, .cst 0, .reg 0, 8⟩),
  (full 0x082 0 3 0 3 2 0 0 0 0 8, .vsub ⟨0, 3, .reg 3, .cst 0, .reg 0, 8⟩),
  (full 0x083 0 3 0 3 2 0 0 0 0 8, .vmul ⟨0, 3, .reg 3, .cst 0, .reg 0, 8⟩),
  (full 0x084 1 6 1 7 0 255 0 0 0 1, .vmulh ⟨1, 6, .sca 7, .reg 255, .reg 0, 1⟩),
  (full 0x085 0 4 0 6 3 3 0 8 0 6, .vmad ⟨0, 4, .reg 6, .lit 3, .reg 8, 6⟩),
  (full 0x086 2 7 0 8 2 9 0 0 0 5, .vmin ⟨2, 7, .reg 8, .cst 9, .reg 0, 5⟩),
  (full 0x087 2 7 0 8 2 9 0 0 0 5, .vmax ⟨2, 7, .reg 8, .cst 9, .reg 0, 5⟩),
  (full 0x088 8 7 0 8 0 0 0 0 0 0xC, .vabs ⟨8, 7, .reg 8, .reg 0, .reg 0, 0xC⟩),
  (full 0x089 4 10 0 12 0 14 0 0 0 0, .vand ⟨4, 10, .reg 12, .reg 14, .reg 0, 0⟩),
  (full 0x08A 4 10 0 12 0 14 0 0 0 0, .vor ⟨4, 10, .reg 12, .reg 14, .reg 0, 0⟩),
  (full 0x08B 4 10 0 12 0 14 0 0 0 0, .vxor ⟨4, 10, .reg 12, .reg 14, .reg 0, 0⟩),
  (full 0x08C 4 10 0 12 0 14 0 0 0 0, .vandn ⟨4, 10, .reg 12, .reg 14, .reg 0, 0⟩),
  (full 0x08D 3 10 0 12 1 63 0 0 0 2, .vshl ⟨3, 10, .reg 12, .sca 63, .reg 0, 2⟩),
  (full 0x08E 3 10 0 12 1 63 0 0 0 2, .vshr ⟨3, 10, .reg 12, .sca 63, .reg 0, 2⟩),
  (full 0x08F 3 10 0 12 1 63 0 0 0 2, .vsar ⟨3, 10, .reg 12, .sca 63, .reg 0, 2⟩),
  (full 0x090 15 3 0 5 0 0 0 0 0 0, .vpopc ⟨15, 3, .reg 5, .reg 0, .reg 0, 0⟩),
  (full 0x091 15 3 0 5 0 0 0 0 0 0, .vclz ⟨15, 3, .reg 5, .reg 0, .reg 0, 0⟩),
  (full 0x092 15 3 0 5 0 0 0 0 0 0, .vbrev ⟨15, 3, .reg 5, .reg 0, .reg 0, 0⟩),
  (full 0x093 1 6 1 7 0 255 0 0 0 1, .vbfe ⟨1, 6, .sca 7, .reg 255, .reg 0, 1⟩),
  (full 0x094 4 10 0 12 0 14 0 0 0 0, .vbfi ⟨4, 10, .reg 12, .reg 14, .reg 0, 0⟩),
  (full 0x095 0 11 0 1 2 2 0 15 0 0, .vsel ⟨0, 11, .reg 1, .cst 2, .reg 15, 0⟩),
  (full 0x096 7 15 0 1 0 2 0 0 0 0x51, .vcmp ⟨7, 15, .reg 1, .reg 2, .reg 0, 0x51⟩),
  (full 0x097 0 255 0 0 0 0 0 0 0 0, .vlid ⟨0, 255, .reg 0, .reg 0, .reg 0, 0⟩),
  (full 0x098 0 16 0 18 3 5 0 0 0 0x30, .vshfl ⟨0, 16, .reg 18, .lit 5, .reg 0, 0x30⟩),
  (full 0x099 0 17 0 19 1 0 0 0 0 0, .vbcast ⟨0, 17, .reg 19, .sca 0, .reg 0, 0⟩),
  (full 0x09A 0 18 0 20 0 0 0 0 0 0x10, .vred ⟨0, 18, .reg 20, .reg 0, .reg 0, 0x10⟩),
  (full 0x09B 0 18 0 20 0 0 0 0 0 0x110, .vscan ⟨0, 18, .reg 20, .reg 0, .reg 0, 0x110⟩),
  (full 0x09C 0 21 0 22 0 0 0 0 0 0, .vcomp ⟨0, 21, .reg 22, .reg 0, .reg 0, 0⟩),
  (full 0x09D 1 6 1 7 0 255 0 0 0 1, .vdiv ⟨1, 6, .sca 7, .reg 255, .reg 0, 1⟩),
  (full 0x09E 1 6 1 7 0 255 0 0 0 1, .vrem ⟨1, 6, .sca 7, .reg 255, .reg 0, 1⟩)] = true := by
  decide

theorem test_decode_Mask : reads [
  (full 0x0A0 0 1 0 0 0 0 0 0 0 0, .mmov ⟨0, 1, .reg 0, .reg 0, .reg 0, 0⟩),
  (full 0x0A1 0 2 0 15 0 7 0 0 0 0, .mand ⟨0, 2, .reg 15, .reg 7, .reg 0, 0⟩),
  (full 0x0A2 0 2 0 15 0 7 0 0 0 0, .mor ⟨0, 2, .reg 15, .reg 7, .reg 0, 0⟩),
  (full 0x0A3 0 2 0 15 0 7 0 0 0 0, .mxor ⟨0, 2, .reg 15, .reg 7, .reg 0, 0⟩),
  (full 0x0A4 0 2 0 15 0 7 0 0 0 0, .mandn ⟨0, 2, .reg 15, .reg 7, .reg 0, 0⟩),
  (full 0x0A5 0 1 0 0 0 0 0 0 0 0, .mnot ⟨0, 1, .reg 0, .reg 0, .reg 0, 0⟩),
  (full 0x0A6 5 3 0 9 0 0 0 0 0 0, .ballot ⟨5, 3, .reg 9, .reg 0, .reg 0, 0⟩),
  (full 0x0A7 0 13 0 14 0 0 0 0 0 0, .mpopc ⟨0, 13, .reg 14, .reg 0, .reg 0, 0⟩),
  (full 0x0A8 0 23 0 13 0 0 0 0 0 0, .mrank ⟨0, 23, .reg 13, .reg 0, .reg 0, 0⟩),
  (full 0x0A9 0 4 1 8 2 3 0 0 0 0, .msets ⟨0, 4, .sca 8, .cst 3, .reg 0, 0⟩),
  (full 0x0AA 0 13 0 14 0 0 0 0 0 0, .mfirst ⟨0, 13, .reg 14, .reg 0, .reg 0, 0⟩)] = true := by
  decide

theorem test_decode_Float : reads [
  (full 0x100 0 24 0 25 2 4 0 0 0 0x2DE, .fadd ⟨0, 24, .reg 25, .cst 4, .reg 0, 0x2DE⟩),
  (full 0x101 0 24 0 25 2 4 0 0 0 0x2DE, .fsub ⟨0, 24, .reg 25, .cst 4, .reg 0, 0x2DE⟩),
  (full 0x102 0 24 0 25 2 4 0 0 0 0x2DE, .fmul ⟨0, 24, .reg 25, .cst 4, .reg 0, 0x2DE⟩),
  (full 0x103 0 26 0 27 1 9 0 28 0 0x124, .ffma ⟨0, 26, .reg 27, .sca 9, .reg 28, 0x124⟩),
  (full 0x104 0 30 0 31 0 32 0 0 0 0x142, .fmin ⟨0, 30, .reg 31, .reg 32, .reg 0, 0x142⟩),
  (full 0x105 0 30 0 31 0 32 0 0 0 0x142, .fmax ⟨0, 30, .reg 31, .reg 32, .reg 0, 0x142⟩),
  (full 0x106 0 5 0 33 0 34 0 0 0 0x374, .fcmp ⟨0, 5, .reg 33, .reg 34, .reg 0, 0x374⟩),
  (full 0x107 0 35 0 36 0 0 0 0 0 2, .fclass ⟨0, 35, .reg 36, .reg 0, .reg 0, 2⟩),
  (full 0x108 0 38 0 40 0 0 0 0 0 0xCD, .frnd ⟨0, 38, .reg 40, .reg 0, .reg 0, 0xCD⟩),
  (full 0x109 0 42 0 44 0 0 0 0 0 0x81, .frcp ⟨0, 42, .reg 44, .reg 0, .reg 0, 0x81⟩),
  (full 0x10A 0 42 0 44 0 0 0 0 0 0x81, .frsq ⟨0, 42, .reg 44, .reg 0, .reg 0, 0x81⟩),
  (full 0x10B 0 38 0 40 0 0 0 0 0 0xCD, .fsqrt ⟨0, 38, .reg 40, .reg 0, .reg 0, 0xCD⟩),
  (full 0x10C 0 24 0 25 2 4 0 0 0 0x2DE, .fdiv ⟨0, 24, .reg 25, .cst 4, .reg 0, 0x2DE⟩),
  (full 0x10D 0 43 0 45 0 0 0 0 0 0x43, .fexp2 ⟨0, 43, .reg 45, .reg 0, .reg 0, 0x43⟩),
  (full 0x10E 0 43 0 45 0 0 0 0 0 0x43, .flog2 ⟨0, 43, .reg 45, .reg 0, .reg 0, 0x43⟩),
  (full 0x10F 0 43 0 45 0 0 0 0 0 0x43, .fsin ⟨0, 43, .reg 45, .reg 0, .reg 0, 0x43⟩),
  (full 0x110 0 43 0 45 0 0 0 0 0 0x43, .fcos ⟨0, 43, .reg 45, .reg 0, .reg 0, 0x43⟩),
  (full 0x111 0 43 0 45 0 0 0 0 0 0x43, .ftanh ⟨0, 43, .reg 45, .reg 0, .reg 0, 0x43⟩),
  (full 0x112 0 46 0 47 0 48 0 49 0 2, .fdot2 ⟨0, 46, .reg 47, .reg 48, .reg 49, 2⟩),
  (full 0x113 0 50 0 52 0 53 0 0 0 0x95, .fscale ⟨0, 50, .reg 52, .reg 53, .reg 0, 0x95⟩),
  (full 0x120 0 54 0 56 0 0 0 0 0 0x38C, .cvt ⟨0, 54, .reg 56, .reg 0, .reg 0, 0x38C⟩),
  (full 0x121 0 57 0 58 2 5 0 0 0 0x55, .pack ⟨0, 57, .reg 58, .cst 5, .reg 0, 0x55⟩),
  (full 0x122 0 60 0 70 3 0 0 0 0 7, .unpack ⟨0, 60, .reg 70, .lit 0, .reg 0, 7⟩),
  (full 0x123 0 71 0 72 0 0 0 0 0 0x18, .bscale ⟨0, 71, .reg 72, .reg 0, .reg 0, 0x18⟩)] = true := by
  decide

theorem test_decode_Memory : reads [
  (full 0x180 0 76 1 14 0 77 0 0 0 0x113, .ld ⟨0, 76, .sca 14, .reg 77, .reg 0, 0x113⟩),
  (full 0x181 0 0 1 6 0 1 0 5 0 0x122, .st ⟨0, 0, .sca 6, .reg 1, .reg 5, 0x122⟩),
  (full 0x182 0 15 1 16 3 8 0 0 0 0x119, .lds ⟨0, 15, .sca 16, .lit 8, .reg 0, 0x119⟩),
  (full 0x183 0 0 1 18 3 248 2 7 0 0x163, .sts ⟨0, 0, .sca 18, .lit (-8), .cst 7, 0x163⟩),
  (full 0x184 0 80 1 21 0 81 0 82 0 0x101, .atom ⟨0, 80, .sca 21, .reg 81, .reg 82, 0x101⟩),
  (full 0x185 0 22 1 23 3 16 1 24 0 0x301, .atoms ⟨0, 22, .sca 23, .lit 16, .sca 24, 0x301⟩),
  (full 0x186 0 19 1 20 3 0 0 79 0 0x102, .stcomp ⟨0, 19, .sca 20, .lit 0, .reg 79, 0x102⟩),
  (full 0x187 0 78 1 17 2 6 0 0 0 0x101, .ldexp ⟨0, 78, .sca 17, .cst 6, .reg 0, 0x101⟩),
  (full 0x188 6 0 0 84 3 0 0 0 0 0, .pref ⟨6, 0, .reg 84, .lit 0, .reg 0, 0⟩),
  (full 0x189 0 0 0 0 0 0 0 0 0 0x340, .fence ⟨0, 0, .reg 0, .reg 0, .reg 0, 0x340⟩)] = true := by
  decide

theorem test_decode_Engine : reads [
  (full 0x200 0 0 0 86 1 25 1 26 0 0x162, .cpl ⟨0, 0, .reg 86, .sca 25, .sca 26, 0x162⟩),
  (full 0x201 0 0 1 61 0 88 1 27 0 0x1E0, .cpgather ⟨0, 0, .sca 61, .reg 88, .sca 27, 0x1E0⟩),
  (full 0x202 0 0 1 61 0 88 1 27 0 0x1E0, .cpscatter ⟨0, 0, .sca 61, .reg 88, .sca 27, 0x1E0⟩),
  (full 0x203 0 28 1 58 3 1 1 29 0 0x308, .cptile ⟨0, 28, .sca 58, .lit 1, .sca 29, 0x308⟩),
  (full 0x204 0 30 1 62 3 128 2 8 1 0x200, .cpfill ⟨0, 30, .sca 62, .litWord longWord, .cst 8, 0x200⟩),
  (full 0x205 0 31 0 0 0 0 0 0 0 0, .aclose ⟨0, 31, .reg 0, .reg 0, .reg 0, 0⟩),
  (full 0x206 0 0 3 100 0 0 0 0 0 0, .await ⟨0, 0, .lit 100, .reg 0, .reg 0, 0⟩),
  (full 0x207 0 32 2 9 0 0 0 0 0 0, .atest ⟨0, 32, .cst 9, .reg 0, .reg 0, 0⟩),
  (full 0x208 0 0 1 33 3 128 0 0 1 0x180, .cwaitge ⟨0, 0, .sca 33, .litWord longWord, .reg 0, 0x180⟩),
  (full 0x209 0 7 3 2 0 0 0 0 0 0, .gset ⟨0, 7, .lit 2, .reg 0, .reg 0, 0⟩),
  (full 0x20A 9 89 0 90 0 0 0 0 0 0, .bncount ⟨9, 89, .reg 90, .reg 0, .reg 0, 0⟩),
  (full 0x20B 0 0 1 34 1 35 3 4 0 0, .bnpatch ⟨0, 0, .sca 34, .sca 35, .lit 4, 0⟩),
  (full 0x20C 0 0 3 100 0 0 0 0 0 0, .bnrel ⟨0, 0, .lit 100, .reg 0, .reg 0, 0⟩),
  (full 0x20D 0 0 0 0 0 0 0 0 0 0, .bnreset ⟨0, 0, .reg 0, .reg 0, .reg 0, 0⟩)] = true := by
  decide

theorem test_decode_Matrix : reads [
  (full 0x210 0 36 3 0 1 37 0 0 0 0, .oclaim ⟨0, 36, .lit 0, .sca 37, .reg 0, 0⟩),
  (full 0x211 0 36 3 0 1 37 0 0 0 0, .orel ⟨0, 36, .lit 0, .sca 37, .reg 0, 0⟩),
  (full 0x212 0 0 1 38 1 39 3 128 1 0x1C0, .oload ⟨0, 0, .sca 38, .sca 39, .litWord longWord, 0x1C0⟩),
  (full 0x213 0 36 3 0 1 37 0 0 0 0, .aclaim ⟨0, 36, .lit 0, .sca 37, .reg 0, 0⟩),
  (full 0x214 0 36 3 0 1 37 0 0 0 0, .arel ⟨0, 36, .lit 0, .sca 37, .reg 0, 0⟩),
  (full 0x215 0 0 2 10 3 8 0 0 0 0, .azero ⟨0, 0, .cst 10, .lit 8, .reg 0, 0⟩),
  (full 0x216 10 100 3 1 3 2 3 3 0 0x32, .mma ⟨10, 100, .lit 1, .lit 2, .lit 3, 0x32⟩),
  (full 0x217 11 102 1 40 1 41 0 0 0 1, .adrain ⟨11, 102, .sca 40, .sca 41, .reg 0, 1⟩),
  (full 0x218 0 0 1 42 1 43 3 0 0 0x100, .astore ⟨0, 0, .sca 42, .sca 43, .lit 0, 0x100⟩),
  (full 0x219 0 44 3 6 1 45 0 0 0 0, .mstat ⟨0, 44, .lit 6, .sca 45, .reg 0, 0⟩),
  (full 0x21A 0 0 1 46 1 47 0 0 0 1, .aband ⟨0, 0, .sca 46, .sca 47, .reg 0, 1⟩)] = true := by
  decide

theorem test_decode_Flash : reads [
  (full 0x220 0 0 1 34 1 35 3 4 0 0, .winstall ⟨0, 0, .sca 34, .sca 35, .lit 4, 0⟩),
  (full 0x221 0 48 1 49 3 1 0 0 0 0, .wstat ⟨0, 48, .sca 49, .lit 1, .reg 0, 0⟩),
  (full 0x222 0 50 1 51 2 11 0 0 0 1, .pgmove ⟨0, 50, .sca 51, .cst 11, .reg 0, 1⟩)] = true := by
  decide

theorem test_decode_Query : reads [
  (full 0x280 0 32 2 9 0 0 0 0 0 0, .sealStr ⟨0, 32, .cst 9, .reg 0, .reg 0, 0⟩),
  (full 0x281 0 32 2 9 0 0 0 0 0 0, .unsealStr ⟨0, 32, .cst 9, .reg 0, .reg 0, 0⟩),
  (full 0x282 12 104 1 52 0 106 0 0 0 1, .rank1 ⟨12, 104, .sca 52, .reg 106, .reg 0, 1⟩),
  (full 0x283 12 104 1 52 0 106 0 0 0 1, .rank0 ⟨12, 104, .sca 52, .reg 106, .reg 0, 1⟩),
  (full 0x284 12 104 1 52 0 106 0 0 0 1, .sel1 ⟨12, 104, .sca 52, .reg 106, .reg 0, 1⟩),
  (full 0x285 12 104 1 52 0 106 0 0 0 1, .sel0 ⟨12, 104, .sca 52, .reg 106, .reg 0, 1⟩),
  (full 0x286 12 104 1 52 0 106 0 0 0 1, .fclose ⟨12, 104, .sca 52, .reg 106, .reg 0, 1⟩),
  (full 0x287 12 104 1 52 0 106 0 0 0 1, .fopen ⟨12, 104, .sca 52, .reg 106, .reg 0, 1⟩),
  (full 0x288 12 104 1 52 0 106 0 0 0 1, .encl ⟨12, 104, .sca 52, .reg 106, .reg 0, 1⟩),
  (full 0x289 0 107 1 53 0 108 0 109 0 0, .exmin ⟨0, 107, .sca 53, .reg 108, .reg 109, 0⟩),
  (full 0x28A 0 110 1 54 0 112 0 113 0 0, .tkmatch ⟨0, 110, .sca 54, .reg 112, .reg 113, 0⟩),
  (full 0x28B 0 114 0 116 0 117 0 0 0 0, .utfcut ⟨0, 114, .reg 116, .reg 117, .reg 0, 0⟩),
  (full 0x28C 0 32 2 9 0 0 0 0 0 0, .ixstat ⟨0, 32, .cst 9, .reg 0, .reg 0, 0⟩)] = true := by
  decide

theorem test_decode_Control : reads [
  (full 0x300 0 0 3 128 0 0 0 0 1 0, .bra ⟨0, 0, .litWord longWord, .reg 0, .reg 0, 0⟩),
  (full 0x301 0 0 1 55 3 253 0 0 0 1, .brc ⟨0, 0, .sca 55, .lit (-3), .reg 0, 1⟩),
  (full 0x302 13 0 0 12 3 4 0 0 0 2, .brm ⟨13, 0, .reg 12, .lit 4, .reg 0, 2⟩),
  (full 0x303 0 61 0 11 3 2 3 128 1 0, .bspl ⟨0, 61, .reg 11, .lit 2, .litWord longWord, 0⟩),
  (full 0x304 0 0 1 60 0 0 0 0 0 0, .join ⟨0, 0, .sca 60, .reg 0, .reg 0, 0⟩),
  (full 0x305 0 56 3 255 0 0 0 0 0 0, .call ⟨0, 56, .lit (-1), .reg 0, .reg 0, 0⟩),
  (full 0x306 0 0 1 57 0 0 0 0 0 0, .ret ⟨0, 0, .sca 57, .reg 0, .reg 0, 0⟩),
  (full 0x307 0 58 2 12 0 0 0 0 0 1, .jmpi ⟨0, 58, .cst 12, .reg 0, .reg 0, 1⟩),
  (full 0x308 14 0 0 0 0 0 0 0 0 0, .exit ⟨14, 0, .reg 0, .reg 0, .reg 0, 0⟩),
  (full 0x309 0 0 0 15 1 59 0 10 0 0, .bar ⟨0, 0, .reg 15, .sca 59, .reg 10, 0⟩),
  (full 0x30A 0 0 0 15 1 59 0 10 0 0, .bara ⟨0, 0, .reg 15, .sca 59, .reg 10, 0⟩),
  (full 0x30B 0 0 0 15 1 59 0 10 0 0, .barw ⟨0, 0, .reg 15, .sca 59, .reg 10, 0⟩),
  (full 0x30C 0 0 0 14 0 0 0 0 0 0, .barinit ⟨0, 0, .reg 14, .reg 0, .reg 0, 0⟩),
  (full 0x30D 0 0 0 14 0 0 0 0 0 0, .barinv ⟨0, 0, .reg 14, .reg 0, .reg 0, 0⟩),
  (full 0x30E 0 0 0 13 3 128 0 0 1 0, .barexp ⟨0, 0, .reg 13, .litWord longWord, .reg 0, 0⟩),
  (full 0x30F 0 0 2 13 1 62 3 128 1 3, .yld ⟨0, 0, .cst 13, .sca 62, .litWord longWord, 3⟩),
  (full 0x310 0 0 0 0 0 0 0 0 0 1, .idem ⟨0, 0, .reg 0, .reg 0, .reg 0, 1⟩),
  (full 0x311 0 32 2 9 0 0 0 0 0 0, .tspawn ⟨0, 32, .cst 9, .reg 0, .reg 0, 0⟩),
  (full 0x312 0 32 2 9 0 0 0 0 0 0, .tjoin ⟨0, 32, .cst 9, .reg 0, .reg 0, 0⟩),
  (full 0x313 0 0 3 100 0 0 0 0 0 0, .nap ⟨0, 0, .lit 100, .reg 0, .reg 0, 0⟩),
  (full 0x314 0 32 2 9 0 0 0 0 0 0, .lspawn ⟨0, 32, .cst 9, .reg 0, .reg 0, 0⟩)] = true := by
  decide

theorem test_decode_System : reads [
  (full 0x380 0 0 3 100 0 0 0 0 0 0, .trap ⟨0, 0, .lit 100, .reg 0, .reg 0, 0⟩),
  (full 0x381 0 0 3 127 0 0 0 0 0 0, .bkpt ⟨0, 0, .lit 127, .reg 0, .reg 0, 0⟩),
  (full 0x382 0 0 3 2 1 1 0 0 0 0, .ssets ⟨0, 0, .lit 2, .sca 1, .reg 0, 0⟩),
  (full 0x383 0 31 0 0 0 0 0 0 0 0, .ckpt ⟨0, 31, .reg 0, .reg 0, .reg 0, 0⟩),
  (full 0x384 0 2 3 4 0 0 0 0 0 0, .rpread ⟨0, 2, .lit 4, .reg 0, .reg 0, 0⟩),
  (full 0x385 0 3 3 0 0 0 0 0 0 2, .lcancel ⟨0, 3, .lit 0, .reg 0, .reg 0, 2⟩),
  (full 0x386 0 3 3 0 0 0 0 0 0 2, .lcount ⟨0, 3, .lit 0, .reg 0, .reg 0, 2⟩)] = true := by
  decide

theorem test_decode_pair0 : reads [
  (pairWord 0 0 0 0 0x0D 5 0 3, .pairNop ⟨.vaddI32, 5, .reg 3⟩),
  (pairWord 0x01 63 1 85 0x01 1 2 255, .pairSmov 63 (.sca 85) ⟨.smov, 1, .cst 255⟩),
  (pairWord 0x02 63 1 85 0x02 1 2 255, .pairSadd 63 (.sca 85) ⟨.sadd, 1, .cst 255⟩),
  (pairWord 0x03 63 1 85 0x03 1 2 255, .pairSsub 63 (.sca 85) ⟨.ssub, 1, .cst 255⟩),
  (pairWord 0x04 63 1 85 0x04 1 2 255, .pairSand 63 (.sca 85) ⟨.sand, 1, .cst 255⟩),
  (pairWord 0x05 63 1 85 0x05 1 2 255, .pairSor 63 (.sca 85) ⟨.sor, 1, .cst 255⟩),
  (pairWord 0x06 63 1 85 0x06 1 2 255, .pairSxor 63 (.sca 85) ⟨.sxor, 1, .cst 255⟩),
  (pairWord 0x07 63 1 85 0x07 1 2 255, .pairSshl 63 (.sca 85) ⟨.sshl, 1, .cst 255⟩),
  (pairWord 0x08 63 1 85 0x08 1 2 255, .pairSshr 63 (.sca 85) ⟨.sshr, 1, .cst 255⟩),
  (pairWord 0x09 63 1 85 0x09 1 2 255, .pairSsar 63 (.sca 85) ⟨.ssar, 1, .cst 255⟩),
  (pairWord 0x0A 63 1 85 0x0A 1 2 255, .pairSmin 63 (.sca 85) ⟨.smin, 1, .cst 255⟩),
  (pairWord 0x0B 63 1 85 0x0B 1 2 255, .pairSmax 63 (.sca 85) ⟨.smax, 1, .cst 255⟩),
  (pairWord 0x0C 252 0 7 0x0C 1 3 0xFF, .pairVmov 252 (.reg 7) ⟨.vmov, 1, .lit (-1)⟩),
  (pairWord 0x0D 252 0 7 0x0D 1 3 0xFF, .pairVaddI32 252 (.reg 7) ⟨.vaddI32, 1, .lit (-1)⟩),
  (pairWord 0x0E 252 0 7 0x0E 1 3 0xFF, .pairVsubI32 252 (.reg 7) ⟨.vsubI32, 1, .lit (-1)⟩),
  (pairWord 0x0F 252 0 7 0x0F 1 3 0xFF, .pairVmulI32 252 (.reg 7) ⟨.vmulI32, 1, .lit (-1)⟩),
  (pairWord 0x10 252 0 7 0x10 1 3 0xFF, .pairVand 252 (.reg 7) ⟨.vand, 1, .lit (-1)⟩),
  (pairWord 0x11 252 0 7 0x11 1 3 0xFF, .pairVor 252 (.reg 7) ⟨.vor, 1, .lit (-1)⟩),
  (pairWord 0x12 252 0 7 0x12 1 3 0xFF, .pairVxor 252 (.reg 7) ⟨.vxor, 1, .lit (-1)⟩),
  (pairWord 0x13 252 0 7 0x13 1 3 0xFF, .pairVshl 252 (.reg 7) ⟨.vshl, 1, .lit (-1)⟩),
  (pairWord 0x14 252 0 7 0x14 1 3 0xFF, .pairVshr 252 (.reg 7) ⟨.vshr, 1, .lit (-1)⟩)] = true := by
  decide

theorem test_decode_pair1 : reads [
  (pairWord 0x15 252 0 7 0x15 1 3 0xFF, .pairVsar 252 (.reg 7) ⟨.vsar, 1, .lit (-1)⟩),
  (pairWord 0x16 252 0 7 0x16 1 3 0xFF, .pairVminI32 252 (.reg 7) ⟨.vminI32, 1, .lit (-1)⟩),
  (pairWord 0x17 252 0 7 0x17 1 3 0xFF, .pairVminN32 252 (.reg 7) ⟨.vminN32, 1, .lit (-1)⟩),
  (pairWord 0x18 252 0 7 0x18 1 3 0xFF, .pairVmaxI32 252 (.reg 7) ⟨.vmaxI32, 1, .lit (-1)⟩),
  (pairWord 0x19 252 0 7 0x19 1 3 0xFF, .pairVmaxN32 252 (.reg 7) ⟨.vmaxN32, 1, .lit (-1)⟩),
  (pairWord 0x1A 252 0 7 0x1A 1 3 0xFF, .pairVabsI32 252 (.reg 7) ⟨.vabsI32, 1, .lit (-1)⟩),
  (pairWord 0x1B 252 0 7 0x1B 1 3 0xFF, .pairFaddF32 252 (.reg 7) ⟨.faddF32, 1, .lit (-1)⟩),
  (pairWord 0x1C 252 0 7 0x1C 1 3 0xFF, .pairFsubF32 252 (.reg 7) ⟨.fsubF32, 1, .lit (-1)⟩),
  (pairWord 0x1D 252 0 7 0x1D 1 3 0xFF, .pairFaddF16x2 252 (.reg 7) ⟨.faddF16x2, 1, .lit (-1)⟩),
  (pairWord 0x1E 252 0 7 0x1E 1 3 0xFF, .pairFmulF32 252 (.reg 7) ⟨.fmulF32, 1, .lit (-1)⟩),
  (pairWord 0x1F 252 0 7 0x1F 1 3 0xFF, .pairFminF32 252 (.reg 7) ⟨.fminF32, 1, .lit (-1)⟩),
  (pairWord 0x20 252 0 7 0x20 1 3 0xFF, .pairFmaxF32 252 (.reg 7) ⟨.fmaxF32, 1, .lit (-1)⟩),
  (pairWord 0x21 252 0 7 0x21 1 3 0xFF, .pairFaddBf16x2 252 (.reg 7) ⟨.faddBf16x2, 1, .lit (-1)⟩),
  (pairWord 0x22 252 0 7 0x22 1 3 0xFF, .pairFmulBf16x2 252 (.reg 7) ⟨.fmulBf16x2, 1, .lit (-1)⟩),
  (pairWord 0x23 15 0 0 0x23 2 0 7, .pairMand 15 (.reg 0) ⟨.mand, 2, .reg 7⟩),
  (pairWord 0x24 15 0 0 0x24 2 0 7, .pairMor 15 (.reg 0) ⟨.mor, 2, .reg 7⟩),
  (pairWord 0x25 15 0 0 0x25 2 0 7, .pairMxor 15 (.reg 0) ⟨.mxor, 2, .reg 7⟩),
  (pairWord 0x26 15 0 0 0x26 2 0 7, .pairMandn 15 (.reg 0) ⟨.mandn, 2, .reg 7⟩),
  (pairWord 0x27 63 1 85 0x27 1 2 255, .pairSlea 63 (.sca 85) ⟨.slea, 1, .cst 255⟩),
  (pairWord 0x28 252 0 7 0x28 1 3 0xFF, .pairVaddI16x2 252 (.reg 7) ⟨.vaddI16x2, 1, .lit (-1)⟩),
  (pairWord 0x29 252 0 7 0x29 1 3 0xFF, .pairVaddI8x4 252 (.reg 7) ⟨.vaddI8x4, 1, .lit (-1)⟩)] = true := by
  decide
/-! ## Ill-formed terms -/

theorem test_wf_modifier : (Instr.sadd ⟨0, 1, .sca 1, .sca 2, .reg 0, 4⟩).wf = false := by decide
theorem test_wf_unused : (Instr.smov ⟨0, 1, .sca 1, .sca 2, .reg 0, 0⟩).wf = false := by decide
theorem test_wf_mask_field : (Instr.smov ⟨1, 1, .sca 1, .reg 0, .reg 0, 0⟩).wf = false := by decide
theorem test_wf_no_destination : (Instr.bra ⟨0, 1, .lit 1, .reg 0, .reg 0, 0⟩).wf = false := by decide
theorem test_wf_literal_value : (Instr.smov ⟨0, 1, .lit 0x80, .reg 0, .reg 0, 0⟩).wf = false := by decide
theorem test_wf_two_literal_words : (Instr.sadd ⟨0, 1, .litWord 1, .litWord 2, .reg 0, 0⟩).wf = false := by decide
theorem test_wf_scalar_destination : (Instr.smov ⟨0, 64, .sca 1, .reg 0, .reg 0, 0⟩).wf = false := by decide
theorem test_wf_reserved_special : (Instr.smov ⟨0, 1, .sca 86, .reg 0, .reg 0, 0⟩).wf = false := by decide
theorem test_wf_source_kind : (Instr.smov ⟨0, 1, .reg 2, .reg 0, .reg 0, 0⟩).wf = false := by decide
theorem test_wf_odd_pair : (Instr.vadd ⟨0, 3, .reg 2, .reg 4, .reg 0, 6⟩).wf = false := by decide
theorem test_wf_mask_destination : (Instr.mmov ⟨0, 0, .reg 1, .reg 0, .reg 0, 0⟩).wf = false := by decide
theorem test_wf_guard : (Instr.gset ⟨0, 8, .lit 1, .reg 0, .reg 0, 0⟩).wf = false := by decide
theorem test_wf_pair_bank : (Instr.pairVaddI32 4 (.reg 9) ⟨.vaddI32, 5, .reg 9⟩).wf = false := by decide
theorem test_wf_pair_destination : (Instr.pairSmov 1 (.sca 2) ⟨.sadd, 1, .sca 3⟩).wf = false := by decide
theorem test_wf_pair_constants : (Instr.pairSadd 1 (.cst 3) ⟨.vaddI32, 6, .cst 4⟩).wf = false := by decide
theorem test_wf_pair_literal : (Instr.pairSadd 1 (.lit 0x80) ⟨.vaddI32, 6, .lit 1⟩).wf = false := by decide
theorem test_wf_pair_nop : (Instr.pairSadd 1 (.lit 1) ⟨.nop, 1, .reg 0⟩).wf = false := by decide

/-! ## Single steps; the results are the manual's own, or worked from its rules by hand -/

/-- The word placed for the next step is the one that runs (R27). -/
theorem test_step_runs_word : (match step (State.reset.withFetchWord 64 0x00C006827F200001) with
    | .next t => t.grp.s0.pc == 0x10008 && t.rdS 3 == 0
    | _ => false) = true := by
  decide +kernel

/-- R164: −7 / 2 and its remainder, .i32. -/
theorem test_sdiv : ((after (.sdiv ⟨0, 3, .lit (-7), .lit 2, .reg 0, 1⟩) base).rdS 3).toInt = -3 ∧
    ((after (.srem ⟨0, 3, .lit (-7), .lit 2, .reg 0, 1⟩) base).rdS 3).toInt = -1 := by decide
/-- R164: division by zero. -/
theorem test_sdiv_zero : (after (.sdiv ⟨0, 3, .lit 7, .lit 0, .reg 0, 0⟩) base).rdS 3 = 0 ∧
    (after (.srem ⟨0, 3, .lit 7, .lit 0, .reg 0, 0⟩) base).rdS 3 = 7 := by decide
/-- R165: the field of 0xF0 at 4, 4 bits long. -/
theorem test_sbfe : ((after (.sbfe ⟨0, 3, .litWord 0xF0, .litWord 0x404, .reg 0, 0⟩) base).rdS 3).toInt = -1 ∧
    (after (.sbfe ⟨0, 3, .litWord 0xF0, .litWord 0x404, .reg 0, 3⟩) base).rdS 3 = 15 := by decide
/-- R170: four natural bytes, clamped. -/
theorem test_vsub_sat : ((after (.vsub ⟨0, 3, .litWord 0x05FF1000, .reg 4, .reg 0, 13⟩) (lanes base 4 [0x0A010001])).grp.rdV 3 0) = 0x00FE1000 := by
  decide
/-- R170: a sum past the greatest, clamped. -/
theorem test_vadd_sat : ((after (.vadd ⟨0, 3, .litWord 0x7FFFFFF0, .lit 0x20, .reg 0, 8⟩) base).grp.rdV 3 31) = 0x7FFFFFFF := by decide

/-- R176's group: width 16, its data in v8, the mask of its non-zero lanes in M1. -/
def sixteen : State :=
  let s := lanes (setLaunchOf base fun l => { l with width := 16 }) 8 [3, 0, 5, 0, 2, 0, 0, 7, 1, 0, 0, 4, 0, 0, 6, 0]
  let s := s.setSplit { s.split with m0 := 0xFFFF }
  s.wrM 1 0x4995
theorem test_vcmp : (after (.vcmp ⟨0, 2, .reg 8, .lit 0, .reg 0, 0x10⟩) sixteen).rdM 2 = 0x4995 := by decide
theorem test_vscan : lanesOut (after (.vscan ⟨1, 9, .reg 8, .reg 0, .reg 0, 0x100⟩) sixteen) 9 16 =
    [0, 0, 3, 0, 8, 0, 0, 10, 17, 0, 0, 18, 0, 0, 22, 0] := by decide
theorem test_vred : lanesOut (after (.vred ⟨1, 10, .reg 8, .reg 0, .reg 0, 0⟩) sixteen) 10 5 = [28, 0, 28, 0, 28] := by decide
theorem test_vcomp : lanesOut (after (.vcomp ⟨1, 11, .reg 8, .reg 0, .reg 0, 0⟩) sixteen) 11 9 = [3, 5, 2, 7, 1, 4, 6, 0, 0] := by decide
theorem test_mrank : lanesOut (after (.mrank ⟨1, 12, .reg 1, .reg 0, .reg 0, 0⟩) sixteen) 12 16 =
    [0, 0, 1, 0, 2, 0, 0, 3, 4, 0, 0, 5, 0, 0, 6, 0] := by decide
theorem test_mpopc_mfirst : (after (.mpopc ⟨0, 1, .reg 1, .reg 0, .reg 0, 0⟩) sixteen).rdS 1 = 7 ∧
    (after (.mfirst ⟨0, 2, .reg 1, .reg 0, .reg 0, 0⟩) sixteen).rdS 2 = 0 := by decide

/-- R53: bf16x2 1.0 + 2⁻⁸ lies halfway, and goes to the even 1.0. -/
theorem test_fadd_tie : (after (.fadd ⟨0, 3, .litWord 0x3F803F80, .litWord 0x3B803B80, .reg 0, 2⟩) base).grp.rdV 3 0 = 0x3F803F80 := by decide
/-- R57, R177: FP16 65504 + 65504 overflows to +∞, or with .sat to 65504. -/
theorem test_fadd_overflow : (after (.fadd ⟨0, 3, .litWord 0x7BFF7BFF, .litWord 0x7BFF7BFF, .reg 0, 3⟩) base).grp.rdV 3 0 = 0x7C007C00 ∧
    (after (.fadd ⟨0, 3, .litWord 0x7BFF7BFF, .litWord 0x7BFF7BFF, .reg 0, 0x13⟩) base).grp.rdV 3 0 = 0x7BFF7BFF := by decide
/-- R179: the minimum of −0 and +0 is −0, and a NaN loses. -/
theorem test_fmin : (after (.fmin ⟨0, 3, .lit 0, .litWord 0x80000000, .reg 0, 0⟩) base).grp.rdV 3 0 = 0x80000000 ∧
    (after (.fmin ⟨0, 3, .litWord 0x7FC00000, .lit 1, .reg 0, 0⟩) base).grp.rdV 3 0 = 1 := by decide

/-- R40, R41: a pair exchanges two registers. -/
theorem test_pair_exchange :
    let t := after (.pairSmov 1 (.sca 2) ⟨.smov, 2, .sca 1⟩) ((base.wrS 1 5).wrS 2 6)
    t.rdS 1 = 6 ∧ t.rdS 2 = 5 ∧ t.grp.s0.pc = 0x10008 := by decide
/-- R248: a literal word makes the instruction two words long; the target counts from the next. -/
theorem test_call : let t := after (.call ⟨0, 9, .litWord (-3), .reg 0, .reg 0, 0⟩) base
    t.rdS 9 = 0x10010 ∧ t.grp.s0.pc = 0xFFF8 := by decide
/-- R245: lanes 0 to 15 go on, the others start the partner at E. -/
theorem test_bspl : let t := after (.bspl ⟨0, 10, .reg 1, .lit 13, .lit 15, 0⟩) (base.wrM 1 0xFFFF)
    t.grp.s0.m0 = 0xFFFF ∧ t.grp.s1.m0 = 0xFFFF0000 ∧ t.grp.s1.pc = 0x10008 + 8 * 13 ∧ t.rdS 10 = 0x10008 + 8 * 15 ∧ t.rdS 11 = 0xFFFFFFFF := by
  decide
/-- R287: a trap stops the group at the instruction, with its code. -/
theorem test_trap : let t := after (.trap ⟨0, 0, .lit 7, .reg 0, .reg 0, 0⟩) base
    t.grp.stopped = true ∧ t.grp.s0.pc = 0x10000 ∧ t.posts.map (fun r => (r.flt.code, r.flt.info32)) = [(0x41, 7)] := by decide
/-- R355: a register number at the group's count. -/
theorem test_register_count : (after (.vmov ⟨0, 8, .lit 1, .reg 0, .reg 0, 0⟩) (setLaunchOf base fun x => { x with vregs := 8 })).posts.map
    (fun r => (r.flt.code, r.flt.info32)) = [(0x03, 0)] := by decide
/-- R250: the last lanes end the group and its team. -/
theorem test_exit : let t := after (.exit ⟨0, 0, .reg 0, .reg 0, .reg 0, 0⟩) base
    t.grp.ended = true ∧ (t.teamOf 1).ended = true := by decide +kernel
/-- R130: a counter in the scratchpad, at the group's scope. -/
theorem test_completion_word : parseCw 16 (.ofNat 64 (2 ^ 62 + 2 ^ 58 + 0x40)) = some (.counter 0 0x3000000000000040) := by rfl
/-- R197: a claim past the last slot, and one of a slot another team holds. -/
theorem test_oclaim : (after (.oclaim ⟨0, 1, .litWord 255, .lit 2, .reg 0, 0⟩) base).rdS 1 = 2 ∧
    (after (.oclaim ⟨0, 1, .litWord 254, .lit 2, .reg 0, 0⟩) (base.setCol 0 { base.col 0 with slotHeld := [(255, 7)] })).rdS 1 = 1 := by decide
/-- R92, R187: a store on path 0x2 is 0x14 on a page it finds; on path 6 it is 0x12. -/
theorem test_paths : (after (.sts ⟨0, 0, .litWord 0x2000000000010000, .lit 0, .lit 1, 0x103⟩) base).posts.map (·.flt.code) = [0x14] ∧
    (after (.sts ⟨0, 0, .litWord 0x6000000000010000, .lit 0, .lit 1, 0x103⟩) base).posts.map (·.flt.code) = [0x12] := by decide
/-- R350: FWGO in state 5 sets status 6 and nothing else. -/
theorem test_fwgo : let t := after (.fwgo 0 64) { base with ctlsem := 1 }
    t.boot.fwstat = 6 ∧ t.boot.brstate = 5 := by decide
/-- R69: a band rises past several entry temperatures at once. -/
theorem test_band : ((after (.vaultBandChange 3 960) base).col 3).band = 2 := by decide

/-! ## States and operands that meet the hypotheses of every statement, at the edges of their ranges -/

/-- A full form of kind `c` issues from a state. -/
abbrev Ok (c : Fields → Instr) (f : Fields) (s : State) : Prop := Issues (c f) f s

theorem test_wit_ScalarArithmetic : ∃ i f op s, scaArith i = some (f, op) ∧ Issues i f s :=
  ⟨.sdiv ⟨0, 63, .sca 63, .lit 0, .reg 0, 3⟩, _, _, base, rfl, by decide⟩
theorem test_wit_ScalarBits : (∃ i f op s, scaBits i = some (f, op) ∧ Issues i f s) ∧ Ok .sbfi ⟨0, 63, .lit (-1), .litWord 0x7F3F, .reg 0, 0⟩ base :=
  ⟨⟨.ssar ⟨0, 0, .sca 63, .lit 63, .reg 0, 0⟩, _, _, base, rfl, by decide⟩, by decide⟩
theorem test_wit_ScalarMoves : specialOf base 64 = some 32 ∧ specialOf base 85 = some 1 ∧ (∀ r, Src.sca 63 ≠ .reg r) ∧
    Ok .ssel ⟨0, 63, .sca 0, .cst 255, .lit 0, 0⟩ base ∧ Ok .slea ⟨0, 0, .sca 0, .sca 1, .lit 63, 0⟩ base ∧
    Ok .srdl ⟨0, 0, .reg 254, .lit 32, .reg 0, 0⟩ base ∧ Ok .sgets ⟨0, 0, .lit 47, .reg 0, .reg 0, 0⟩ base ∧
    Ok .swrl ⟨0, 254, .lit 1, .lit (-1), .reg 0, 0⟩ base ∧ 0 < base.width ∧ base.width ≤ 128 := by
  refine ⟨?_, ?_, fun r => nofun, ?_⟩ <;> decide
theorem test_wit_VectorArithmetic : (∃ i f op s, vecArith i = some (f, op) ∧ Issues i f s) ∧ ∃ i f op s, vecBits i = some (f, op) ∧ noSat f ∧ Issues i f s :=
  ⟨⟨.vmul ⟨15, 255, .reg 255, .sca 63, .reg 0, 13⟩, _, _, base, rfl, by decide⟩,
    .vshl ⟨0, 254, .reg 254, .lit 63, .reg 0, 6⟩, _, _, base, rfl, rfl, by decide⟩
theorem test_wit_VectorOthers : vecN 14 = 1 ∧ Ok .vmad ⟨0, 254, .reg 254, .lit (-1), .reg 252, 14⟩ base ∧
    Ok .vbfi ⟨0, 255, .lit 1, .litWord 0x7F3F, .reg 0, 0⟩ base ∧ Ok .vsel ⟨0, 255, .reg 254, .lit 0, .reg 15, 0⟩ base ∧
    Ok .vlid ⟨15, 255, .reg 0, .reg 0, .reg 0, 0⟩ base ∧ Ok .vbcast ⟨0, 255, .reg 255, .lit 32, .reg 0, 0⟩ base := by decide
theorem test_wit_VectorCompare : vecN 0x57 = 1 ∧ Ok .vcmp ⟨0, 15, .reg 254, .reg 252, .reg 0, 0x57⟩ base ∧
    decode (full 0x096 0 15 0 254 0 252 0 0 0 0x57) 0 = .ok (.vcmp ⟨0, 15, .reg 254, .reg 252, .reg 0, 0x57⟩) :=
  ⟨by decide, by decide, rfl⟩
theorem test_wit_Masks : (∃ i f op s, maskLogicOp i = some (f, op) ∧ f.a = .reg 15 ∧ f.b = .reg 0 ∧ 0 < f.dst.toNat ∧ Issues i f s) ∧
    Ok .mpopc ⟨0, 63, .reg 15, .reg 0, .reg 0, 0⟩ base ∧ Ok .mfirst ⟨0, 63, .reg 0, .reg 0, .reg 0, 0⟩ base ∧
    Ok .msets ⟨0, 1, .lit (-1), .lit (-1), .reg 0, 0⟩ base :=
  ⟨⟨.mandn ⟨0, 15, .reg 15, .reg 0, .reg 0, 0⟩, _, _, base, rfl, rfl, rfl, by decide, by decide⟩, by decide⟩
theorem test_wit_LanesCooperate : Ok .vshfl ⟨0, 1, .reg 1, .lit 32, .reg 0, 0x30⟩ base ∧ MembersOk base ⟨0, 1, .reg 1, .lit 32, .reg 0, 0x30⟩ ∧
    Ok .vred ⟨1, 10, .reg 8, .reg 0, .reg 0, 0x58⟩ sixteen ∧ MembersOk sixteen ⟨1, 10, .reg 8, .reg 0, .reg 0, 0x58⟩ ∧ vecN 0x58 = 1 ∧
    Ok .vscan ⟨1, 10, .reg 8, .reg 0, .reg 0, 0x100⟩ sixteen ∧ Ok .vcomp ⟨1, 10, .reg 8, .reg 0, .reg 0, 0⟩ sixteen ∧
    Ok .ballot ⟨1, 15, .reg 8, .reg 0, .reg 0, 0⟩ sixteen ∧ Ok .mrank ⟨1, 10, .reg 15, .reg 0, .reg 0, 0⟩ sixteen ∧
    (let s := sixteen.setSplit { sixteen.split with m0 := 0x7FFF }
     Ok .ballot ⟨2, 15, .reg 8, .reg 0, .reg 0, 0⟩ (s.wrM 2 0x8000) ∧ ¬MembersOk (s.wrM 2 0x8000) ⟨2, 15, .reg 8, .reg 0, .reg 0, 0⟩) := by
  decide
theorem test_wit_FloatElementwise : ∃ i f op s, floatOp i = some (f, op) ∧ Issues i f s :=
  ⟨.fdiv ⟨0, 254, .reg 254, .lit 0, .reg 0, 0x3DD⟩, _, _, base, rfl, by decide⟩
/-- A half, and zero, to integers in each direction; −2.5 and a third. -/
theorem test_wit_FloatIntegral : fF16 ∈ vectorFormats ∧ 0x3800 < 2 ^ fF16.w ∧ isNan fF16 0x3800 = false ∧ isInf fF16 0x3800 = false ∧ isZero fF64 (2 ^ 63) = true ∧
    isNan fF32 0x7F800001 = true ∧ 3 < 4 := by decide
theorem test_wit_FloatRounding : fF64 ∈ vectorFormats ∧ 2 ^ 64 - 1 < 2 ^ fF64.w ∧ fF16 ∈ vectorFormats ∧ 0x7C00 < 2 ^ fF16.w := by decide
theorem test_wit_FloatRoot : fBf16 ∈ vectorFormats ∧ 2 ^ 16 - 1 < 2 ^ fBf16.w := by decide
theorem test_wit_FloatOthers : fF32 ∈ vectorFormats ∧ 0x80000000 < 2 ^ fF32.w ∧ Ok .ffma ⟨0, 254, .reg 254, .lit 0, .reg 252, 0x3FD⟩ base ∧
    floatN 0x375 = 1 ∧ Ok .fcmp ⟨0, 15, .reg 254, .reg 252, .reg 0, 0x375⟩ base ∧ Ok .fclass ⟨0, 255, .reg 254, .reg 0, .reg 0, 1⟩ base ∧
    floatN 0xDD = 1 ∧ Ok .fscale ⟨0, 254, .reg 252, .reg 255, .reg 0, 0xDD⟩ base := by decide
theorem test_wit_ApproximatedSpecials : isNan fF16 0xFC01 = true ∧ isZero fF32 0x80000000 = true ∧ isInf fF64 0xFFF0000000000000 = true ∧
    negOf fBf16 0x8001 = true ∧ isNan fBf16 0x8001 = false ∧ isZero fBf16 0x8001 = false := by decide
/-- 0.75, three quarter turns; 1, and −149; a power of two, and a subnormal one. -/
theorem test_wit_ExactArguments : 4 * size fF32 (magOf fF32 0x3F400000) = (3 : Nat) ∧ isNan fF32 0x3F400000 = false ∧ isInf fF32 0x3F400000 = false ∧
    size fF32 (magOf fF32 0x3F800000) = (1 : Nat) ∧ negOf fF32 0x3F800000 = false ∧ size fF32 (magOf fF32 0xC3150000) = (149 : Nat) ∧ negOf fF32 0xC3150000 = true ∧
    254 * 2 ^ 23 < 2 ^ fF32.w ∧ 2 ^ 22 < 2 ^ fF32.w := by decide +kernel
theorem test_wit_Conversions : Ok .fdot2 ⟨0, 255, .reg 255, .reg 0, .reg 1, 0x3DF⟩ base ∧ 2 ≤ (0x3DF : BitVec 10).toNat % 4 ∧
    Ok .cvt ⟨0, 254, .reg 252, .reg 0, .reg 0, 0x13E⟩ base ∧ Ok .pack ⟨0, 255, .reg 252, .litWord 0, .reg 0, 0x75⟩ base ∧
    Ok .unpack ⟨0, 252, .reg 251, .lit 0, .reg 0, 7⟩ base ∧ Ok .bscale ⟨0, 255, .reg 0, .reg 0, .reg 0, 0x1D⟩ base := by decide

/-! Memory: the scratchpad of the base state is 4,096 bytes at 0 of Rope 0. -/

/-- Path 0x3 address of a pooled offset. -/
abbrev pad (o : Nat) : Word := .ofNat 64 (3 * 2 ^ 60 + o)
abbrev padAt (o : Nat) : Loc := ⟨.sram 0, o⟩

theorem test_wit_MemoryIssue : ∃ x, accessOf base (.sts ⟨0, 0, .litWord (pad 4088), .lit 0, .lit (-1), 0x103⟩) = some x ∧
    Issues (.sts ⟨0, 0, .litWord (pad 4088), .lit 0, .lit (-1), 0x103⟩) x.f base ∧ Places base x (fun _ => padAt 4088) ∧
    ∀ p ∈ x.lanes, ((fun _ => padAt 4088) p.1 : Loc).sp ≠ .ctl := by
  refine ⟨_, rfl, by decide, ?_, ?_⟩ <;> intro p hp <;> obtain rfl := List.mem_singleton.mp hp
  · rfl
  · decide
theorem test_wit_CompressPrefetchFence :
    (let f : Fields := ⟨0, 63, .litWord (pad 4092), .lit 0, .reg 255, 0x102⟩
     let s := base.setSplit { base.split with m0 := 0x80000000 }
     Ok .stcomp f s ∧ MembersOk s f ∧ (s.effLanes 0).length = 1 ∧ s.access s.team (pad 4092) 4 4 .write = .ok (padAt 4092) ∧ (0x102 : BitVec 10).toNat % 8 < 4) ∧
    Ok .pref ⟨15, 0, .reg 254, .lit 0, .reg 0, 0⟩ base ∧ Ok .fence ⟨0, 0, .reg 0, .reg 0, .reg 0, 0x380⟩ base ∧ base.inFlight 0 = false ∧
    (let s := after (.lds ⟨0, 63, .litWord (pad 0), .lit 0, .reg 0, 0x103⟩) base
     Ok .fence ⟨0, 0, .reg 0, .reg 0, .reg 0, 0x380⟩ s ∧ s.inFlight 0 = true) := by
  refine ⟨⟨by decide, by decide, by decide, rfl, by decide⟩, by decide⟩
/-- A FENCE at group scope behind a load, and behind a store; one at system scope. -/
theorem test_wit_Fence :
    (let s := after (.lds ⟨0, 63, .litWord (pad 0), .lit 0, .reg 0, 0x103⟩) base
     Ok .fence ⟨0, 0, .reg 0, .reg 0, .reg 0, 0x80⟩ s ∧ ¬((0x80 : BitVec 10).getLsbD 9 = true ∨ 5 ≤ scopeOf 0x80) ∧ Reading s) ∧
    (let s := after (.sts ⟨0, 0, .litWord (pad 4088), .lit 0, .lit (-1), 0x103⟩) base
     Ok .fence ⟨0, 0, .reg 0, .reg 0, .reg 0, 0x100⟩ s ∧ scopeOf 0x100 = 4 ∧ (0x100 : BitVec 10).getLsbD 9 = false ∧ ¬Reading s ∧ s.inFlight s.cur = true ∧
       Ok .fence ⟨0, 0, .reg 0, .reg 0, .reg 0, 0x140⟩ s ∧ 5 ≤ scopeOf 0x140) := by
  unfold Reading; decide
/-- Edges of what an address's path decides, and a page read, written, absent, malformed. -/
theorem test_wit_AccessFaults :
    (base.access base.team (pad 4089) 8 8 .read = .flt { code := 0x13, addr := pad 4089 }) ∧
    path 0xE000000000000000 = 14 ∧ path 0x6000000000000000 = 6 ∧ below 0x2001000000000000 / 2 ^ 48 ≠ 0 ∧ below (pad (2 ^ 27)) / 2 ^ 27 ≠ 0 ∧
    below 0x4004000000000000 / 2 ^ 48 % 8 = 4 ∧ below 0x5011000000000000 / 2 ^ 48 % 16 ≠ 0 ∧ path 0xF000000000000000 = 15 ∧
    base.set.supervisor ≠ some base.team.ten ∧ below (pad 4089) / 2 ^ 27 = 0 ∧ (pad 4096).toNat % 8 = 0 ∧ 4096 < below (pad 4096) + 8 ∧
    below (pad 4088) + 8 ≤ 0 + 4096 ∧ below 0x5020000000000000 / 2 ^ 52 = 2 ∧ base.pairs = [] ∧
    base.walk 0 0x10FF8 = .leaf (codeEntry 0x14) ∧ codeEntry 0x14 / 2 ^ 55 % 32 = 0 ∧ bitOf (codeEntry 0x14) 10 = false ∧ bitOf (codeEntry 0x14) 5 = false ∧
    (let s := setTeams base fun x => { x with ten := 1 }
     (s.walk 0 0x10000 = .leaf (codeEntry 0x14)) ∧ codeEntry 0x14 / 2 ^ 55 % 32 ≠ 1) ∧
    bitOf (codeEntry 0x14 + 2 ^ 10) 10 = true ∧ base.walk 0 0x11000 = .absent ∧
    ({ base with mem := Memory.wrN base.mem 0x13088 8 (2 ^ 63 + 6 * 2 ^ 60) } : State).walk 0 0x11000 = .malformed := by
  refine ⟨rfl, ?_⟩; decide +kernel

/-! Served accesses: what the base state queues for a store, an atomic and a load. -/

abbrev stored : State := after (.sts ⟨0, 0, .litWord (pad 4088), .lit 0, .lit (-1), 0x103⟩) base
abbrev loaded : State := after (.lds ⟨0, 63, .litWord (pad 4088), .lit 0, .reg 0, 0x103⟩) base
/-- The first pending access. -/
def first (s : State) : Pend := s.pend.headD ⟨0, 0, 0, 0, .store, 0, [], .none, false, false, 0, false⟩
def firstLane (s : State) : PLane := (first s).lanes.headD ⟨0, ⟨.ctl, 0⟩, 0, 0, none, false, false⟩

theorem test_wit_MemoryServed :
    (let p := first stored
     let x := firstLane stored
     stored.pend.find? (fun q => q.id == p.id) = some p ∧ p.acc.writes = true ∧ p.lanes = [] ++ x :: [] ∧ x.res = none ∧ x.sent = false ∧ stored.mayServe p x = true ∧
       x.loc = padAt 4088 ∧ p.n = 8 ∧ x.data < 2 ^ (8 * p.n)) ∧ InMemory (padAt (2 ^ 27 - 8)) 8 ∧
    (let p := first loaded
     loaded.pend.find? (fun q => q.id == p.id) = some p ∧ p.acc ≠ .store ∧ p.grp < loaded.groups.length ∧ p.n ∈ [1, 2, 4, 8, 16] ∧
       (∀ x ∈ p.lanes, x.res = none) ∧ p.acc.writes = false ∧ (∀ x ∈ p.lanes, x.sent = false ∧ far x.loc = false ∧ loaded.mayServe p x = true) ∧
       (∀ x ∈ p.lanes, x.loc = padAt 4088) ∧ p.dst = .sca 63) := by
  refine ⟨by decide, .inr ⟨0, rfl, by decide⟩, by decide⟩

/-- The store of the base state, at another place. -/
def storeAt (l : Loc) (n : Nat) : State :=
  { stored with pend := stored.pend.map fun p => { p with n, lanes := p.lanes.map fun x => { x with loc := l } } }
def servedAt (l : Loc) (n : Nat) : Bool :=
  let s := storeAt l n
  let p := first s
  s.pend.find? (fun q => q.id == p.id) == some p && p.acc == .store && p.lanes == [firstLane s] && (firstLane s).res == none &&
    !(firstLane s).sent && s.mayServe p (firstLane s)
theorem served_of (l : Loc) (n : Nat) (h : servedAt l n = true) : Served (storeAt l n) (first (storeAt l n)) [] (firstLane (storeAt l n)) [] ∧
    (first (storeAt l n)).acc = .store := by
  simp only [servedAt, Bool.and_eq_true, beq_iff_eq, Bool.not_eq_true'] at h
  obtain ⟨⟨⟨⟨⟨h1, h2⟩, h3⟩, h4⟩, h5⟩, h6⟩ := h
  exact ⟨⟨h1, by rw [h2]; rfl, h3, nofun, h4, h5, h6⟩, h2⟩
/-- The last register, scalar, slot and tile of a column's windows; a register of the group-control block, whole and in part. -/
def lastWords : List (Nat × Nat) := [(255 * 2 ^ 35 + 508, 4), (2 ^ 48 + 63 * 2 ^ 35, 8), (2 * 2 ^ 48 + 2 ^ 18 - 8, 8), (3 * 2 ^ 48 + 2 ^ 19 - 8, 8)]
theorem test_wit_WindowsServed : (∀ x ∈ lastWords, servedAt ⟨.win, x.1⟩ x.2 = true ∧ winLayout x.1 = true ∧ x.1 % winUnit x.1 + x.2 ≤ winUnit x.1) ∧
    lastWords.map (fun x => winArea x.1) = [0, 1, 2, 3] ∧ (base.residentAt? 0 0).isSome = true ∧
    servedAt ⟨.ctl, 0x10000⟩ 8 = true ∧ (blockWith base.gctl 0x10000 0).isSome = true ∧ servedAt ⟨.ctl, 0x1002C⟩ 4 = true ∧ 0x1002C % 8 + 4 ≤ 8 ∧
    (blockWith base.gctl (0x1002C / 8 * 8) 0xFFFFFFFF00000000).isSome = true ∧
    ∀ k, k < 8 → byteOf (0xFFFFFFFF00000000 : Word) k = if 0x1002C % 8 ≤ k ∧ k < 0x1002C % 8 + 4 then byteAt (2 ^ 64 - 1) (k - 4)
      else byteAt (base.ctlRead none (0x1002C / 8 * 8)) k := by decide

/-! Engine: base registers S0 = 0x3000000000000000 upward. -/

/-- S0 a destination, S1 a size or row length and stride, S2 a packed base. -/
def rows (n stride : Nat) : State := ((base.wrS 0 (pad 0)).wrS 1 (.ofNat 64 (n * 2 ^ 40 + stride))).wrS 2 (pad 2048)
def oneLane (s : State) : State := s.setSplit { s.split with m0 := 1 }
theorem enters_plain {i : Instr} {f : Fields} {s : State} (h : Issues i f s) (hd : s.split.denied = none) (hc : s.scalarSrc f.c = 0) :
    Enters i f s .none [] := ⟨h, hd, .nothing, by rw [hc]; rfl, rfl⟩

/-- The base state with a group whose split carries a Deliver answer. -/
def denied (g : Group) : State := (base.setGrp g).setSplit { (base.setGrp g).split with denied := some ⟨0x10, 0, 0, 0, 0⟩ }
theorem test_wit_EngineCommands_cpl :
    (let f : Fields := ⟨0, 0, .litWord (pad 4080), .litWord (pad 4080), .lit 0, 2⟩
     Enters (.cpl f) f base .none [] ∧ guardFalse base f = false ∧ base.effLanes 0 ≠ [] ∧
       base.access base.team (pad 4080) 16 16 .engRead = .ok (padAt 4080) ∧ base.access base.team (pad 4080) 16 16 .engWrite = .ok (padAt 4080)) ∧
    (let s := base.setGrp { base.grp with guards := [(7, .false)] }
     let f : Fields := ⟨0, 0, .litWord (pad 0), .litWord (pad 0), .lit 0, 0x1E2⟩
     Issues (.cpl f) f s ∧ guardFalse s f = true ∧ s.effLanes 0 ≠ [] ∧ parseCw s.launch.barriers (s.scalarSrc f.c) = some .nothing) ∧
    (let s := denied { base.grp with guards := [(7, .open)] }
     let f : Fields := ⟨0, 0, .litWord (pad 0), .litWord (pad 0), .lit 0, 0x1E2⟩
     Issues (.cpl f) f s ∧ guardFalse s f = false ∧ s.effLanes 0 ≠ [] ∧ s.split.denied = some ⟨0x10, 0, 0, 0, 0⟩ ∧ guardOpen s f = true) ∧
    (let s := denied base.grp
     let f : Fields := ⟨0, 0, .litWord (pad 0), .litWord (pad 0), .lit 0, 0x1E2⟩
     Issues (.cpl f) f s ∧ guardFalse s f = false ∧ guardOpen s f = false) :=
  ⟨⟨enters_plain (by decide) rfl rfl, by decide, by decide, rfl, rfl⟩, ⟨by decide, by decide, by decide, rfl⟩, by decide, by decide⟩
theorem test_wit_EngineCommands_rows :
    let f : Fields := ⟨0, 0, .sca 0, .reg 255, .lit 0, 0⟩
    let s := oneLane (rows 1 (2 ^ 40 - 1))
    Enters (.cpgather f) f s .none [] ∧ Enters (.cpscatter f) f s .none [] ∧ guardFalse s f = false ∧ rowLen s f = 1 ∧ s.effLanes 0 ≠ [] ∧ rowLanes s f = [0] ∧
      s.span s.team (indexedAt s f 0) 1 1 .engRead = .ok [padAt 0] ∧ s.span s.team (packedAt s f 0) 1 1 .engWrite = .ok [padAt 2048] ∧
      s.span s.team (packedAt s f 0) 1 1 .engRead = .ok [padAt 2048] ∧ s.span s.team (indexedAt s f 0) 1 1 .engWrite = .ok [padAt 0] ∧
      (let s := (rows 4096 (2 ^ 40 - 1)).setSplit { base.split with m0 := 2 ^ 31 }
       rowLen s f = 4096 ∧ rowLanes s f = [31]) ∧
      let s := setLaunchOf ((rows 4096 0).setSplit { base.split with m0 := 2 ^ 32 }) fun l => { l with width := 64 }
      Enters (.cpgather f) f s .none [] ∧ Enters (.cpscatter f) f s .none [] ∧ s.effLanes 0 ≠ [] ∧ rowLanes s f = [] :=
  ⟨enters_plain (by decide) rfl rfl, enters_plain (by decide) rfl rfl, by decide, by decide, by decide, by decide, rfl, rfl, rfl, rfl, by decide,
    enters_plain (by decide) rfl rfl, enters_plain (by decide) rfl rfl, by decide, by decide⟩
theorem test_wit_EngineCommands_fill :
    (let f : Fields := ⟨0, 0, .sca 0, .lit (-1), .lit 0, 0⟩
     let s := rows 0 1
     Enters (.cpfill f) f s .none [] ∧ guardFalse s f = false ∧ (s.rdS 1).toNat = 1 ∧ s.span s.team (s.rdS 0).toNat 1 1 .engWrite = .ok [padAt 0]) ∧
    (let f : Fields := ⟨0, 63, .sca 0, .lit (-1), .lit 0, 0x200⟩
     let s := rows 0 1
     Enters (.cpfill f) f s .none [] ∧ (s.tenantOf? s.team.ten).isSome = true ∧ s.freeHeld s.grp.team = 1 ∧ (s.liveTags s.team.ten).length < 2 ^ 26 ∧
       s.span s.team (s.rdS 0).toNat 1 1 .engWrite = .ok [padAt 0]) :=
  ⟨⟨enters_plain (by decide) rfl rfl, by decide, by decide, rfl⟩, enters_plain (by decide) rfl rfl, by decide, by decide, by decide, rfl⟩
/-- The team holds a tensor record of zeros as entry 255, tag 1; the extents of the block are zero. -/
def tiled : State := (setTeams base fun x => { x with handles := [⟨255, 1, .tensor (List.replicate 64 0)⟩] }).wrS 0 (.ofNat 64 (511 * 2 ^ 32 + 511))
theorem tiled_fits (m : BitVec 10) : TileFits tiled ⟨0, 63, .sca 0, .lit 0, .lit 0, m⟩ (List.replicate 64 0) (List.replicate 64 0) (fun _ => []) fun _ => [] :=
  ⟨by decide +revert, by decide +revert, by decide, fun n h => by
    have : keptOf tiled ⟨0, 63, .sca 0, .lit 0, .lit 0, m⟩ (List.replicate 64 0) = [] := by
      unfold keptOf; rw [show boxSize tiled ⟨0, 63, .sca 0, .lit 0, .lit 0, m⟩ = 0 by decide +revert]; rfl
    rw [this] at h; cases h⟩
/-- A record of one byte at the scratchpad's start, and a box of that element and its neighbours along two dimensions. -/
def byteRecord : List Byte := [0, 0, 0, 0, 0, 0, 0, 0x30, 10] ++ List.replicate 7 0 ++ [1, 0, 0, 0, 1, 0, 0, 0, 1, 0, 0, 0, 1, 0, 0, 0] ++ List.replicate 32 0
def boxed : State := ((setTeams base fun x => { x with handles := [⟨255, 1, .tensor byteRecord⟩] }).wrS 0 (.ofNat 64 (511 * 2 ^ 32 + 511))).wrS 3 0x0001000100010002
theorem boxed_fits : TileFits boxed ⟨0, 63, .sca 0, .lit 0, .lit 0, 0⟩ byteRecord byteRecord (fun _ => [padAt 0]) fun _ => [padAt 0] := by
  refine ⟨by decide, by decide, by decide, fun n h => ?_⟩
  have : keptOf boxed ⟨0, 63, .sca 0, .lit 0, .lit 0, 0⟩ byteRecord = [0] := by decide
  rw [this] at h; obtain rfl := List.mem_singleton.mp h
  exact ⟨rfl, fun _ => rfl⟩
theorem test_wit_EngineCommands_tile :
    (let f : Fields := ⟨0, 63, .sca 0, .lit 0, .lit 0, 0⟩
     Enters (.cptile f) f tiled .none [] ∧ guardFalse tiled f = false ∧ f.mod.getLsbD 9 = false ∧ TileFits tiled f (List.replicate 64 0) (List.replicate 64 0) (fun _ => []) (fun _ => []) ∧
       Enters (.cptile f) f boxed .none [] ∧ TileFits boxed f byteRecord byteRecord (fun _ => [padAt 0]) fun _ => [padAt 0]) ∧
    (let f : Fields := ⟨0, 63, .sca 0, .lit 0, .lit 0, 0x200⟩
     Enters (.cptile f) f tiled .none [] ∧ f.mod.getLsbD 9 = true ∧ TileFits tiled f (List.replicate 64 0) (List.replicate 64 0) (fun _ => []) (fun _ => []) ∧
       (tiled.tenantOf? tiled.team.ten).isSome = true ∧ (tiled.liveTags tiled.team.ten).length < 2 ^ 26 ∧ tiled.freeHeld tiled.grp.team = 1) :=
  ⟨⟨enters_plain (by decide) rfl rfl, by decide, by decide, tiled_fits _, enters_plain (by decide) rfl rfl, boxed_fits⟩,
    enters_plain (by decide) rfl rfl, by decide, tiled_fits _, by decide, by decide, by decide⟩
/-- Guard slot 7 is false. -/
def shut (s : State) : State := s.setGrp { s.grp with guards := [(7, .false)] }
theorem test_wit_EngineCommands_shut :
    (let f : Fields := ⟨0, 0, .sca 0, .reg 255, .lit 0, 0x1E0⟩
     let s := shut (oneLane (rows 4096 1))
     Ok .cpgather f s ∧ Ok .cpscatter f s ∧ guardFalse s f = true ∧ s.effLanes 0 ≠ [] ∧ 1 ≤ rowLen s f ∧ rowLen s f ≤ 4096 ∧
       parseCw s.launch.barriers (s.scalarSrc f.c) = some .nothing) ∧
    (let f : Fields := ⟨0, 0, .sca 0, .lit (-1), .lit 0, 0x1E0⟩
     let s := shut (rows 1 0)
     Ok .cpfill f s ∧ guardFalse s f = true ∧ f.mod.getLsbD 9 = false ∧ (s.rdS 1).toNat ≤ 2 ^ 40 ∧ parseCw s.launch.barriers (s.scalarSrc f.c) = some .nothing) ∧
    (let f : Fields := ⟨0, 0, .sca 0, .lit 0, .lit 0, 0x1E0⟩
     let s := shut tiled
     Ok .cptile f s ∧ guardFalse s f = true ∧ f.mod.getLsbD 9 = false ∧ s.tensor? ((s.rdS 0).toNat % 2 ^ 32) = some (List.replicate 64 0) ∧
       s.tensor? ((s.rdS 0).toNat / 2 ^ 32) = some (List.replicate 64 0) ∧ recAt (List.replicate 64 0) 10 1 % 2 = 0) := by
  refine ⟨⟨?_, ?_, ?_, ?_, ?_, ?_, rfl⟩, ⟨?_, ?_, ?_, ?_, rfl⟩, ?_⟩ <;> decide

/-- Every case of a completion word, at its edges. -/
theorem test_wit_CompletionWords :
    (1 : Word).toNat / 2 ^ 62 = 0 ∧ (0xC000000000000000 : Word).toNat / 2 ^ 62 = 3 ∧ (0x0001000000000000 : Word).toNat / 2 ^ 48 % 2 ^ 10 ≠ 0 ∧
    (let n := (0x7000FFFFFFFFFFFF : Word).toNat; n / 2 ^ 62 = 1 ∧ n / 2 ^ 48 % 2 ^ 10 = 0 ∧ n / 2 ^ 59 % 8 = 6 ∧ n / 2 ^ 58 % 2 = 0) ∧
    (let n := (0x4400000007FFFFFF : Word).toNat; n / 2 ^ 62 = 1 ∧ n / 2 ^ 48 % 2 ^ 10 = 0 ∧ n / 2 ^ 58 % 2 = 1 ∧ n % 2 ^ 48 = 2 ^ 27 - 1) ∧
    (let n := (0x7800000000000000 : Word).toNat; n / 2 ^ 62 = 1 ∧ n / 2 ^ 59 % 8 = 7) ∧
    (let n := (0x4400000008000000 : Word).toNat; n / 2 ^ 62 = 1 ∧ n / 2 ^ 58 % 2 = 1 ∧ n % 2 ^ 48 = 2 ^ 27) ∧
    (let n := (0x800000000000000F : Word).toNat; n / 2 ^ 62 = 2 ∧ n / 2 ^ 48 % 2 ^ 14 = 0 ∧ n % 2 ^ 48 = 15) ∧
    (let n := (0x8400000000000010 : Word).toNat; n / 2 ^ 62 = 2 ∧ n / 2 ^ 48 % 2 ^ 14 ≠ 0 ∧ n % 2 ^ 48 = 16) := by decide

/-- The base state with one job of the group: a copy in batch 1. -/
def job1 : Job := { id := 9, grp := 0, team := 1, batch := 1, kind := .copy, guard := none, failed := none, st := .queued, recipe := .copy [] 0, els := [], cw := .none, foot := [] }
def working (j : Job) : State := { base with jobs := [j] }
/-- Batch 1 is closed with its job at work. -/
def closed1 : State := (working job1).setGrp { base.grp with batchOpen := 2 }

/-- An address at peer 255, and the base state with its tenant paired with tenant 31 there. -/
abbrev peerWord : Word := 0x5FF0FFFFFFFFFFF8
def paired : State := { base with pairs := [(base.team.ten, 255, 31)], routes := [255] }

theorem test_wit_Batches : Ok .aclose ⟨0, 63, .reg 0, .reg 0, .reg 0, 0⟩ base ∧
    (let f : Fields := ⟨0, 0, .lit 0, .reg 0, .reg 0, 0⟩
     Ok .await f base ∧ base.reached base.cur 0 = true ∧ base.coveredFault 0 = none) ∧
    (let f : Fields := ⟨0, 0, .lit 1, .reg 0, .reg 0, 0⟩
     Ok .await f closed1 ∧ closed1.reached 0 1 = false ∧ closed1.grp.pend30 = [] ∧ closed1.team.requests = []) ∧
    (Ok .atest ⟨0, 63, .lit 1, .reg 0, .reg 0, 0⟩ closed1 ∧ closed1.coveredFault 1 = none) ∧
    (Ok .cwaitge ⟨0, 0, .litWord (pad 4088), .lit 0, .reg 0, 0x100⟩ base ∧ path (pad 4088) = 3 ∧
      base.access base.team (pad 4088) 8 8 .read = .ok (padAt 4088) ∧ base.mayPoll 0 0 (pad 4088) (padAt 4088) 4 = true ∧ scopeOf 0x100 = 4 ∧
      (0 : Word).toNat ≤ base.rdN (padAt 4088) 8 ∧ base.rdN (padAt 4088) 8 < (1 : Word).toNat ∧ stored.mayPoll 0 0 (pad 4088) (padAt 4088) 4 = false) ∧
    (Ok .cwaitge ⟨0, 0, .litWord peerWord, .lit 0, .reg 0, 0x100⟩ paired ∧ path peerWord = 5 ∧ below peerWord / 2 ^ 48 % 16 = 0 ∧ peerWord.toNat % 8 = 0 ∧
      paired.pairs.find? (fun x => x.1 == paired.team.ten && x.2.1 == below peerWord / 2 ^ 52) = some (paired.team.ten, 255, 31) ∧
      255 = below peerWord / 2 ^ 52 ∧ 255 ≠ paired.set.devId ∧ 255 ∈ paired.routes ∧
      paired.mayPoll paired.cur paired.curSplit peerWord ⟨.remote 255, peerWord.toNat % 2 ^ 48⟩ 4 = true ∧ paired.polling paired.cur paired.curSplit = false ∧
      paired.grp.pend30 = [] ∧ paired.team.requests = []) ∧
    (Ok .cwaitge ⟨0, 0, .litWord 0xF000000000000000, .lit 0, .reg 0, 0x100⟩ base ∧ path 0xF000000000000000 = 15) ∧
    ((∀ b ∈ closed1.openWork 0, 1 ≤ b ∧ b ≤ (closed1.grpAt 0).batchOpen) ∧ closed1.openWork 0 = [1] ∧ 1 ≤ (closed1.grpAt 0).batchOpen) := by
  refine ⟨by decide, by decide, by decide, by decide, ⟨by decide, by decide, rfl, by decide, by decide⟩, by decide, by decide, by decide⟩
/-- A check passes with this place. -/
def passes (c : Chk Loc) (l : Loc) : Bool := match c with
  | .ok p => p == l
  | _ => false
theorem passes_of {c : Chk Loc} {l : Loc} (h : passes c l = true) : c = .ok l := by
  cases c <;> first | exact congrArg _ (eq_of_beq h) | cases h
/-- A check fails, or waits. -/
def failed {α : Type} : Chk α → Bool
  | .flt _ => true
  | _ => false
theorem fails_of {α : Type} {c : Chk α} (h : failed c = true) : ∃ f, c = .flt f := by
  cases c <;> first | exact ⟨_, rfl⟩ | cases h
def waiting_ {α : Type} : Chk α → Bool
  | .wait .. => true
  | _ => false
theorem waits_of {α : Type} {c : Chk α} (h : waiting_ c = true) : ∃ t p m f, c = .wait t p m f := by
  cases c <;> first | exact ⟨_, _, _, _, rfl⟩ | cases h
def waitsAt {α : Type} (ten page : Nat) : Chk α → Bool
  | .wait t p .. => t == ten && p == page
  | _ => false
theorem waits_at {α : Type} {c : Chk α} {ten page : Nat} (h : waitsAt ten page c = true) : ∃ m f, c = .wait ten page m f := by
  cases c <;> first | (simp only [waitsAt, Bool.and_eq_true, beq_iff_eq] at h; obtain ⟨rfl, rfl⟩ := h; exact ⟨_, _, rfl⟩) | cases h
/-- A counter in flash, whose granule is not staged, and is. -/
def inFlash : State := { base with mem := Memory.wrN base.mem 0x13080 8 (codeEntry 0x400 + 2 ^ 5) }
theorem test_wit_Batches_flash : Ok .cwaitge ⟨0, 0, .litWord 0x10FF8, .lit 0, .reg 0, 0x100⟩ inFlash ∧ path 0x10FF8 = 0 ∧
    inFlash.access inFlash.team 0x10FF8 8 8 .read = .ok ⟨.flash, 0x400FF8⟩ ∧ far ⟨.flash, 0x400FF8⟩ = false ∧ 2 ∉ inFlash.staged ∧
    ({ inFlash with staged := [2] } : State).access inFlash.team 0x10FF8 8 8 .read = .ok ⟨.flash, 0x400FF8⟩ :=
  ⟨by decide, by decide, passes_of (by decide +kernel), by decide, by decide, passes_of (by decide +kernel)⟩

/-- A command held as entry 63, tag 5, and one patched; one waiting on guard slot 7, and one that failed there. -/
def heldJob : Job := { job1 with st := .held 63 5 false }
def patchedJob : Job := { job1 with st := .held 63 5 true, recipe := .fill (pad 0) 1 0 0 }
def guardedJob : Job := { job1 with guard := some 7 }
def failedJob : Job := { guardedJob with failed := some ⟨0x10, 0, 0, 0, 0⟩ }
def withGuards (s : State) : State := s.setGrp { s.grp with guards := [(7, .open)] }
abbrev relFields : Fields := ⟨0, 0, .litWord (.ofNat 64 (63 + 64 * 5)), .reg 0, .reg 0, 0⟩
theorem test_wit_Guards :
    Ok .gset ⟨0, 7, .lit 0, .reg 0, .reg 0, 0⟩ (withGuards (working guardedJob)) ∧ Ok .gset ⟨0, 7, .lit 1, .reg 0, .reg 0, 0⟩ (withGuards (working guardedJob)) ∧
    guardedJob.failed = none ∧ guardedJob.stale = false ∧
    (Ok .gset ⟨0, 7, .lit 1, .reg 0, .reg 0, 0⟩ (withGuards (working failedJob)) ∧ failedJob.stale = false ∧
      ([failedJob].filter fun j => j.grp == 0 && j.guard == some 7 && j.st == .queued).filterMap (·.failed) = [⟨0x10, 0, 0, 0, 0⟩]) ∧
    Ok .gset ⟨0, 7, .lit 2, .reg 0, .reg 0, 0⟩ base ∧ base.jobs = [] ∧
    (Ok .gset ⟨0, 7, .lit 2, .reg 0, .reg 0, 0⟩ (withGuards (working guardedJob)) ∧ guardedJob.grp = base.cur ∧ guardedJob.guard = some 7) ∧
    (Ok .gset ⟨0, 7, .lit 3, .reg 0, .reg 0, 0⟩ base ∧ 2 < (base.scalarSrc (.lit 3)).toNat) := by decide
def deniedRel : State := { denied base.grp with jobs := [patchedJob] }
theorem test_wit_Bins :
    Ok .bncount ⟨0, 255, .reg 255, .reg 0, .reg 0, 0⟩ base ∧
    (let f : Fields := ⟨0, 0, .litWord (.ofNat 64 (63 + 64 * 5)), .litWord 255, .lit (-1), 0⟩
     Ok .bnpatch f (working heldJob) ∧ heldJob.st = .held 63 5 false ∧ ((working heldJob).scalarSrc f.b).toNat ≤ 255 ∧ (working heldJob).heldJob? ((working heldJob).scalarSrc f.a) = some heldJob) ∧
    (Ok .bnrel relFields (working heldJob) ∧ heldJob.failed = none ∧ heldJob.guard = none ∧ heldJob.stale = false ∧
      Ok .bnrel relFields base ∧ base.heldJob? (base.scalarSrc relFields.a) = none) ∧
    (Ok .bnrel relFields (working patchedJob) ∧ patchedJob.st = .held 63 5 true ∧ (working patchedJob).heldJob? ((working patchedJob).scalarSrc relFields.a) = some patchedJob ∧
      patchedJob.guard = none ∧ (working patchedJob).split.denied = none) ∧
    (let s := deniedRel
     Ok .bnrel relFields s ∧ s.heldJob? (s.scalarSrc relFields.a) = some patchedJob ∧ s.split.denied = some ⟨0x10, 0, 0, 0, 0⟩) ∧
    Ok .bnreset ⟨0, 0, .reg 0, .reg 0, .reg 0, 0⟩ base := by
  refine ⟨?_, ?_, ?_, ?_, ?_, ?_⟩ <;> decide
/-- Found anew, the patched command's address passes; one past the scratchpad's end does not. -/
theorem test_wit_Bins_replan : (∃ x, (working patchedJob).closeRegion.replan { patchedJob with failed := none } = .ok x) ∧
    ∃ e, (working patchedJob).closeRegion.replan { patchedJob with recipe := .fill (pad 4096) 1 0 0 } = .flt e := ⟨⟨_, rfl⟩, _, rfl⟩

/-- A byte copied within the scratchpad; a byte from flash; an element of 6 bits over two bytes; a drained number; rows of a slot. -/
def copyJob (src dst : Loc) : Job := { job1 with recipe := .copy [⟨0, 0, 0, 1, 1⟩] 0, els := [⟨[dst], 0, 8, .at [src] 0 8⟩] }
def byteJob : Job := copyJob (padAt 0) (padAt 4095)
def flashJob : Job := copyJob ⟨.flash, 2 ^ 21⟩ (padAt 4095)
def tileJob : Job :=
  { job1 with kind := .tile ⟨5, 7, 0x3F800000, false⟩, recipe := .tile 0 [] [] [] 0 0, els := [⟨[padAt 63, padAt 64], 5, 6, .at [padAt 7] 0 8⟩] }
def drainJob : Job :=
  { job1 with kind := .astore 0 0 1, recipe := .fill 0 0 0 0, els := [⟨[padAt 4094, padAt 4095], 0, 16, .acc 0 4092 4 2 false⟩] }
def loadJob : Job := { job1 with kind := .oload 0 255 1, recipe := .fill 0 0 0 0, els := [⟨[⟨.win, 2 * 2 ^ 48 + 2 ^ 18 - 1⟩], 0, 8, .at [padAt 0] 0 8⟩] }
theorem copyJob_local (a b : Loc) (ha : far a = false) (hc : a.sp ≠ .ctl) : LocalJob (copyJob a b) := by
  refine ⟨fun e he => ?_, fun ms cw h => by cases h; rfl⟩
  obtain rfl := List.mem_singleton.mp he
  refine ⟨fun l h => ?_, .inl ⟨rfl, by simp only⟩, by simp only; omega, by simp only; omega, by simp only [List.length_singleton]; omega, by simp only [List.length_singleton]; omega⟩
  obtain ⟨ls, c, w, h, hl⟩ := h
  cases h; obtain rfl := List.mem_singleton.mp hl; exact ⟨ha, hc⟩
theorem local_of (j : Job) (e : El) (h : j.els = [e]) (hr : ∀ ms cw, j.recipe ≠ .copy ms cw)
    (hs : ∀ ls b w, e.src = .at ls b w → ∀ l ∈ ls, far l = false ∧ l.sp ≠ .ctl) (hd : ∀ l ∈ e.dst, far l = false)
    (hb : 0 < e.w ∧ e.bit < 8 ∧ e.bit + e.w ≤ 8 * e.dst.length ∧ 8 * e.dst.length < e.bit + e.w + 8) : LocalJob j := by
  refine ⟨fun x hx => ?_, fun ms cw h => (hr ms cw h).elim⟩
  rw [h] at hx; obtain rfl := List.mem_singleton.mp hx
  exact ⟨fun l ⟨ls, b, w, h, hl⟩ => hs ls b w h l hl, .inr hd, hb⟩
theorem test_wit_EngineRuns_start : (∀ j ∈ [byteJob, flashJob, tileJob, drainJob, loadJob], (working j).jobs.find? (fun x => x.id == j.id) = some j ∧
      (working j).jobReady j = true ∧ j.stale = false ∧ (working j).remote = [] ∧ j.els ≠ []) ∧
    LocalJob byteJob ∧ LocalJob flashJob ∧ LocalJob tileJob ∧ LocalJob drainJob ∧ LocalJob loadJob ∧ (1 ∉ (working flashJob).staged ∧ flashJob.bad = []) := by
  refine ⟨by decide, copyJob_local _ _ (by decide) (by decide), copyJob_local _ _ (by decide) (by decide), local_of _ _ rfl nofun ?_ (by decide) (by decide),
    local_of _ _ rfl nofun nofun (by decide) (by decide), local_of _ _ rfl nofun ?_ (by decide) (by decide), by decide, rfl⟩ <;>
  · intro ls b w h l hl; cases h; obtain rfl := List.mem_singleton.mp hl; decide

def byteWr (l : Loc) : BitWr := ⟨[l], 0, 8, 255, [(2 ^ 11, 1)], 0⟩
def pieceTo (l : Loc) : Piece := ⟨[byteWr l], 1, false⟩
def bytePiece : Piece := pieceTo (padAt 4095)
def peerPiece : Piece := ⟨[⟨[⟨.remote 255, 2 ^ 48 - 1⟩], 0, 8, 255, [], 0⟩], 1, false⟩
def landJob (p : Piece) (cw : Cw) : Job := { job1 with cw, st := .landing [p] }
/-- The base state, its team's barrier 0 as given. -/
def withPending (j : Job) (c : BarCond) (n : Nat) : State :=
  setTeams (working j) fun x => x.setBar 0 { cond := c, gset := 1, lmask := 1, arrived := [(0, 1)], arrPend := 0, pending := .ofNat 64 n, abandon := [], phase := 0, tickets := [], covers := [] }
theorem pieceTo_local (s : State) (l : Loc) (h : Byteable s l) : LocalPiece s (pieceTo l) := by
  refine ⟨fun b hb => ?_, List.pairwise_singleton ..⟩
  obtain rfl := List.mem_singleton.mp hb
  exact ⟨by simp only [byteWr]; omega, by simp only [byteWr, List.length_singleton]; omega, fun x hx => List.mem_singleton.mp hx ▸ h, List.pairwise_singleton ..⟩
theorem test_wit_EngineRuns_land :
    ((working (landJob bytePiece .none)).jobs.find? (fun x => x.id == 9) = some (landJob bytePiece .none) ∧
      (landJob bytePiece .none).st = .landing [bytePiece] ∧ (landJob bytePiece .none).grp < base.groups.length ∧ (base.teamOf 1).ended = false) ∧
    LocalPiece base bytePiece ∧ LocalPiece base (pieceTo ⟨.win, 2 * 2 ^ 48 + 2 ^ 18 - 1⟩) ∧ LocalPiece base (pieceTo ⟨.win, 2 ^ 48 + 63 * 2 ^ 35 + 7⟩) ∧
    InMemory (padAt 4088) 8 ∧ (∀ b ∈ (pieceTo (padAt 0)).wr, ∀ m ∈ b.locs, m.overlaps 1 (padAt 4088) 8 = false) ∧
    spoiled (landJob bytePiece .none) bytePiece [] (byteWr (padAt 4095)) = false ∧ spoiled (landJob bytePiece .none) bytePiece [0] (byteWr (padAt 4095)) = true ∧
    (let s := withPending (landJob bytePiece (.barrier 0)) .active 1
     let x := (s.teamOf 1).bar 0
     (∃ y ∈ s.teams, y.uid = 1) ∧ x.cond ≠ .invalid ∧ ({ x with pending := x.pending - .ofNat 64 1 } : Barrier).done = true) ∧
    (let x := ((withPending (landJob bytePiece (.barrier 0)) .active 2).teamOf 1).bar 0
     x.cond ≠ .invalid ∧ ({ x with pending := x.pending - .ofNat 64 1 } : Barrier).done = false) ∧
    (((withPending (landJob bytePiece (.barrier 0)) .invalid 1).teamOf 1).bar 0).cond = .invalid := by
  refine ⟨by decide, pieceTo_local _ _ (.inl (.inr ⟨0, rfl, by decide⟩)), pieceTo_local _ _ (.inr ⟨rfl, by decide, by decide, by decide, by decide⟩),
    pieceTo_local _ _ (.inr ⟨rfl, by decide, by decide, by decide, by decide⟩), .inr ⟨0, rfl, by decide⟩, by decide, by decide, by decide, by decide, by decide, by decide⟩
theorem test_wit_EngineRuns_away :
    (let j := landJob bytePiece (.counter 4 (padAt 0))
     j.cw = .counter 4 (padAt 0) ∧ InMemory (padAt 0) 8 ∧ (4 : Nat) < 5 ∧ bytePiece.counted = false ∧ bytePiece.count ≠ 0) ∧
    ((working (landJob peerPiece .none)).jobs.find? (fun x => x.id == 9) = some (landJob peerPiece .none) ∧ peerPiece.wr ≠ [] ∧
      peerPiece.wr.any (spoiled (landJob peerPiece .none) peerPiece []) = false ∧ (2 ^ 48 - 1) / 128 = 2 ^ 41 - 1) :=
  ⟨⟨rfl, .inr ⟨0, rfl, by decide⟩, by decide, rfl, by decide⟩, by decide⟩
/-! Matrix: the team holds slots 0 and 255 and bank 63, whose rows 0 to 15 the group owns; team 7 slot 254 and bank 62. -/

def owned : List (Nat × Nat) := (List.range 16).map fun r => (16 * 63 + r, 1)
def holding : State := base.setCol 0 { base.col 0 with slotHeld := [(0, 2), (254, 8), (255, 2)], bankHeld := [(62, 8), (63, 2)], rowOwner := owned }
theorem test_wit_MatrixClaims :
    (∃ i f top sl, claimOf i = some (f, top, sl) ∧ Issues i f holding ∧ ¬rangeOk f holding top) ∧
    (∃ i f top sl, claimOf i = some (f, top, sl) ∧ Issues i f holding ∧ rangeOk f holding top ∧
      ∃ n, rangeIn f holding n ∧ holder (holding.col 0) sl n ≠ 0 ∧ holder (holding.col 0) sl n ≠ mine holding) ∧
    (∃ i f top sl, claimOf i = some (f, top, sl) ∧ Issues i f holding ∧ rangeOk f holding top ∧
      (∀ n, rangeIn f holding n → holder (holding.col 0) sl n = 0 ∨ holder (holding.col 0) sl n = mine holding) ∧ ¬Busy holding sl (freeOf f holding sl)) := by
  refine ⟨⟨.oclaim ⟨0, 1, .litWord 255, .lit 2, .reg 0, 0⟩, _, _, _, rfl, by decide, by unfold rangeOk; decide⟩,
    ⟨.aclaim ⟨0, 1, .lit 62, .lit 2, .reg 0, 0⟩, _, _, _, rfl, by decide, by unfold rangeOk; decide, 62, by unfold rangeIn; decide, by decide⟩,
    ⟨.oclaim ⟨0, 1, .litWord 255, .lit 1, .reg 0, 0⟩, _, _, _, rfl, by decide, by unfold rangeOk; decide, fun n hn => ?_, by unfold Busy; decide⟩⟩
  obtain rfl : n = 255 := by
    have h1 : 255 ≤ n := hn.1
    have h2 : n < 255 + 1 := hn.2
    omega
  decide
theorem test_wit_MatrixClaims_release :
    (∃ i f top sl, releaseOf i = some (f, top, sl) ∧ Issues i f holding ∧ ¬rangeOk f holding top) ∧
    (∃ i f top sl, releaseOf i = some (f, top, sl) ∧ Issues i f holding ∧ rangeOk f holding top ∧
      ∃ n, rangeIn f holding n ∧ holder (holding.col 0) sl n ≠ mine holding) ∧
    (∃ i f top sl, releaseOf i = some (f, top, sl) ∧ Issues i f holding ∧ rangeOk f holding top ∧
      ∀ n, rangeIn f holding n → holder (holding.col 0) sl n = mine holding) := by
  refine ⟨⟨.arel ⟨0, 1, .lit 63, .lit 0, .reg 0, 0⟩, _, _, _, rfl, by decide, by unfold rangeOk; decide⟩,
    ⟨.orel ⟨0, 1, .lit 0, .lit 2, .reg 0, 0⟩, _, _, _, rfl, by decide, by unfold rangeOk; decide, 1, by unfold rangeIn; decide, by decide⟩,
    ⟨.arel ⟨0, 1, .lit 63, .lit 1, .reg 0, 0⟩, _, _, _, rfl, by decide, by unfold rangeOk; decide, fun n hn => ?_⟩⟩
  obtain rfl : n = 63 := by
    have h1 : 63 ≤ n := hn.1
    have h2 : n < 63 + 1 := hn.2
    omega
  decide

def fencedAll : State := base.setCol 0 { base.col 0 with fenced := 15 }
theorem test_wit_MatrixQueues_azero :
    (let f : Fields := ⟨0, 0, .litWord 511, .lit 1, .reg 0, 0⟩
     Ok .azero f holding ∧ (holding.col (colOf holding)).fenced ≠ 15#4 ∧ (holding.scalarSrc f.a).toNat + (holding.scalarSrc f.b).toNat ≤ 512 ∧
       holder (holding.col 0) false (511 / 8) = mine holding) ∧
    (let f : Fields := ⟨0, 0, .litWord 503, .lit 2, .reg 0, 0⟩
     Ok .azero f holding ∧ (503 : Nat) ≤ 503 ∧ holder (holding.col 0) false (503 / 8) ≠ mine holding ∧ ∀ u, 503 ≤ u → ¬u < 503) ∧
    (let f : Fields := ⟨0, 0, .litWord 511, .lit 2, .reg 0, 0⟩
     Ok .azero f holding ∧ (holding.scalarSrc f.a).toNat ≤ 511 ∧ 512 < (holding.scalarSrc f.a).toNat + (holding.scalarSrc f.b).toNat) ∧
    (Ok .oload ⟨0, 0, .litWord 0xFF, .lit 0, .reg 0, 0⟩ base ∧ Ok .oload ⟨0, 0, .litWord 0x1FF, .lit 0, .reg 0, 0⟩ base) ∧
    Ok .mma ⟨0, 255, .lit 0, .lit 0, .lit 0, 31⟩ base := by
  refine ⟨by decide, ⟨by decide, by decide, by decide, fun u => by omega⟩, by decide, by decide, by decide⟩
theorem test_wit_MatrixFaults_values :
    OloadOk ⟨0, 0, .litWord 0xFF, .lit 0, .reg 0, 0⟩ base ∧ ¬OloadOk ⟨0, 0, .litWord 0x1FF, .lit 0, .reg 0, 0⟩ base ∧
    ¬OloadOk ⟨0, 0, .litWord 0x1000, .lit 0, .reg 0, 0⟩ base ∧ (∃ j ∈ mmaScaleRegs 31, base.team.vregs ≤ 255 + j) := by
  refine ⟨by simp only [OloadOk]; decide, by simp only [OloadOk]; decide, by simp only [OloadOk]; decide, by decide⟩
/-- Every sub-array is fenced: each matrix instruction with good values. -/
theorem test_wit_MatrixFaults_fenced :
    (fencedAll.col (colOf fencedAll)).fenced = 15#4 ∧ fencedAll.width ∈ [16, 32, 64, 128] ∧
    (let f : Fields := ⟨0, 0, .litWord 0xFF, .lit 0, .reg 0, 0⟩; Ok .oload f fencedAll ∧ ValuesPass fencedAll (.oload f)) ∧
    (let f : Fields := ⟨0, 0, .litWord 511, .lit 1, .reg 0, 0⟩; Ok .azero f fencedAll ∧ ValuesPass fencedAll (.azero f)) ∧
    (let f : Fields := ⟨0, 0, .litWord 0xFFFF, .lit 0, .lit (-1), 3⟩; Ok .mma f fencedAll ∧ ValuesPass fencedAll (.mma f)) ∧
    (let f : Fields := ⟨0, 254, .litWord 510, .litWord (15 + 1 * 256), .reg 0, 1⟩; Ok .adrain f fencedAll ∧ ValuesPass fencedAll (.adrain f)) ∧
    (let f : Fields := ⟨0, 0, .litWord (pad 0), .litWord (511 + 15 * 2 ^ 16 + 1 * 2 ^ 24), .lit 0, 0⟩; Ok .astore f fencedAll ∧ ValuesPass fencedAll (.astore f)) := by
  refine ⟨by decide, by decide, ⟨by decide, ?_⟩, ⟨by decide, ?_⟩, ⟨by decide, [], ⟨.nil, fun q => ⟨nofun, fun h => absurd h.2.1 (by simp)⟩⟩, ?_⟩,
    ⟨by decide, ?_, by decide⟩, by decide, ?_⟩
  · simp only [ValuesPass, OloadOk]; decide
  · simp only [ValuesPass, AzeroOk]; decide
  · simp only [MmaOk]; decide
  · simp only [AdrainOk]; decide
  · simp only [ValuesPass, AstoreOk]; decide
/-- Quarter 0 of slot 255 by slot 0 into tile 511, lanes 0 to 7 live: quarter 1 is asked for and partly live, or no other is. -/
theorem test_wit_MatrixQueues_mma (m : Mask) (hm : m = 0x1FF ∨ m = 0xFF) :
    let f : Fields := ⟨3, 0, .litWord 255, .lit 0, .litWord 511, 3⟩
    let s := holding.setSplit { holding.split with m0 := m }
    Ok .mma f s ∧ (s.col (colOf s)).fenced ≠ 15#4 ∧ s.width ∈ [16, 32, 64, 128] ∧ Issued f s [0] ∧ MmaOk f s [0] ∧
      ((m.getLsbD 8 = true) ↔ ∃ q, q < 4 ∧ f.msk.getLsbD q = true ∧ (∃ l, inQuarter s.width q l ∧ (s.rdM 0).getLsbD l = true) ∧
        ∃ l, inQuarter s.width q l ∧ (s.rdM 0).getLsbD l = false) ∧
      ∀ q ∈ [0], holder (s.col (colOf s)) true (mmaASlot f s q) = mine s ∧ holder (s.col (colOf s)) true (s.scalarSrc f.b).toNat = mine s ∧
        holder (s.col (colOf s)) false (mmaTile f s q / 8) = mine s := by
  have w : (holding.setSplit { holding.split with m0 := m }).width = 32 := by rcases hm with rfl | rfl <;> decide
  have m0 : ∀ l, ((holding.setSplit { holding.split with m0 := m }).rdM 0).getLsbD l = m.getLsbD l := fun l => rfl
  have low : ∀ l, l < 8 → m.getLsbD l = true := by rcases hm with rfl | rfl <;> decide
  have nine : m.getLsbD 9 = false := by rcases hm with rfl | rfl <;> decide
  have high : ∀ l, l < 32 → 8 ≤ l → m.getLsbD l = true → l = 8 := by rcases hm with rfl | rfl <;> decide
  refine ⟨by rcases hm with rfl | rfl <;> decide, by rcases hm with rfl | rfl <;> decide, by rcases hm with rfl | rfl <;> decide,
    ⟨List.pairwise_singleton .., fun q => ⟨fun h => ?_, fun h => ?_⟩⟩, ?_, ⟨fun h => ⟨1, by decide, rfl, ⟨8, ?_, h⟩, 9, ?_, nine⟩, fun h => ?_⟩, ?_⟩
  · obtain rfl := List.mem_singleton.mp h
    refine ⟨by decide, rfl, fun l hl => ?_⟩
    rw [w, inQuarter] at hl
    rw [m0]; exact low l (by omega)
  · obtain ⟨h4, hq, hw⟩ := h
    rcases (by omega : q = 0 ∨ q = 1 ∨ q = 2 ∨ q = 3) with rfl | rfl | rfl | rfl
    · decide
    · have := hw 9 (by rw [w, inQuarter]; omega)
      rw [m0, nine] at this; cases this
    · exact absurd hq (by decide)
    · exact absurd hq (by decide)
  · rcases hm with rfl | rfl <;> simp only [MmaOk] <;> decide
  · rw [w, inQuarter]; omega
  · rw [w, inQuarter]; omega
  · obtain ⟨q, h4, hq, ⟨l, hl, hon⟩, k, hk, hoff⟩ := h
    rw [w, inQuarter] at hl hk
    rw [m0] at hon hoff
    rcases (by omega : q = 0 ∨ q = 1 ∨ q = 2 ∨ q = 3) with rfl | rfl | rfl | rfl
    · rw [low k (by omega)] at hoff; cases hoff
    · have := high l (by omega) (by omega) hon
      rw [← this]; exact hon
    · exact absurd hq (by decide)
    · exact absurd hq (by decide)
  · intro q hq
    obtain rfl := List.mem_singleton.mp hq
    rcases hm with rfl | rfl <;> exact ⟨rfl, rfl, rfl⟩
theorem test_wit_MatrixQueues_aband :
    (let f : Fields := ⟨0, 0, .lit 63, .litWord 0xFFFF, .reg 0, 1⟩
     Ok .aband f holding ∧ (holding.scalarSrc f.a).toNat = 63 ∧ (holding.scalarSrc f.b).toNat = 2 ^ 16 - 1 ∧ holder (holding.col (colOf holding)) false 63 = mine holding ∧
       ∀ r, r < 16 → (holding.col (colOf holding)).ownerOf 63 r = holding.cur + 1) ∧
    (let f : Fields := ⟨0, 0, .lit 62, .lit 0, .reg 0, 0⟩
     Ok .aband f holding ∧ holder (holding.col (colOf holding)) false 62 ≠ mine holding) ∧
    (let f : Fields := ⟨0, 0, .litWord 253, .lit 0, .reg 0, 0⟩
     Ok .oload f holding ∧ OloadOk f holding ∧ (holding.scalarSrc f.a).toNat = 253 ∧ holder (holding.col (colOf holding)) true 253 ≠ mine holding ∧ ∀ u, 253 ≤ u → ¬u < 253) :=
  ⟨by decide, by decide, by decide, by simp only [OloadOk]; decide, by decide, by decide, fun u => by omega⟩

/-- A check that passes. -/
def good {α : Type} : Chk α → Bool
  | .ok _ => true
  | _ => false
/-- A slot loaded from and a tile stored to the scratchpad. -/
theorem test_wit_MatrixTransfers :
    (let f : Fields := ⟨0, 0, .litWord (255 + 64 * 2 ^ 24), .litWord (pad 3072), .lit 0, 0⟩
     Enters (.oload f) f holding .none [] ∧ guardFalse holding f = false ∧ OloadOk f holding ∧ (holding.scalarSrc f.a).toNat % 256 = 255 ∧
       (holding.scalarSrc f.a).toNat / 256 % 16 + 1 = 1 ∧ holder (holding.col (colOf holding)) true 255 = mine holding ∧
       ∀ r, r < 16 → good (holding.span holding.team ((pad 3072).toNat + r * 64) 64 1 .engRead) = true) ∧
    (let f : Fields := ⟨0, 0, .litWord (pad 4032), .litWord (511 + 15 * 2 ^ 16 + 1 * 2 ^ 24), .lit 0, 0⟩
     Enters (.astore f) f holding .none [] ∧ guardFalse holding f = false ∧ AstoreOk f holding ∧ (0 : Nat) % 4 = 0 ∧
       ∀ e, e < 16 * 1 → (pad 4032).toNat + e / 16 * 64 + e % 16 * 4 < 2 ^ 64 ∧
         holding.access holding.team (.ofNat 64 ((pad 4032).toNat + e / 16 * 64 + e % 16 * 4)) 4 4 .engWrite = .ok (padAt (4032 + e % 16 * 4))) ∧
    holding.drainCheck 0 511 15 1 = .inr false ∧
    (let f : Fields := ⟨0, 254, .litWord 510, .litWord (15 + 1 * 256), .reg 0, 1⟩
     Ok .adrain f holding ∧ holding.width ∈ [16, 32, 64, 128] ∧ AdrainOk f holding ∧ holding.effLanes 0 ≠ [] ∧
       (holding.col (colOf holding)).fenced ≠ 15#4) ∧
    (let f : Fields := ⟨0, 254, .litWord 510, .litWord (15 + 1 * 256), .reg 0, 1⟩
     let s := holding.setSplit { holding.split with m0 := 0 }
     Ok .adrain f s ∧ s.effLanes 0 = [] ∧ 254 + drainRegs f s ≤ s.launch.vregs) ∧
    (let s := shut holding
     let f : Fields := ⟨0, 0, .litWord (255 + 64 * 2 ^ 24), .litWord (pad 3072), .lit 0, 0x1E0⟩
     Ok .oload f s ∧ guardFalse s f = true ∧ OloadOk f s ∧ (s.scalarSrc f.a).toNat % 256 = 255 ∧ holder (s.col (colOf s)) true 255 = mine s) ∧
    (let s := shut holding
     let f : Fields := ⟨0, 0, .litWord (pad 4032), .litWord (511 + 15 * 2 ^ 16 + 1 * 2 ^ 24), .lit 0, 0x1E0⟩
     Ok .astore f s ∧ guardFalse s f = true ∧ AstoreOk f s ∧ s.grp.stopped = false ∧ s.drainCheck 0 511 15 1 = .inr false) ∧
    holding.drainCheck 1 510 15 1 = .inr false ∧ (holding.col (colOf holding)).ops = [] ∧ base.drainCheck 1 510 15 1 = .inr true :=
  ⟨⟨enters_plain (by decide) rfl rfl, by decide, by simp only [OloadOk]; decide, by decide, by decide, by decide, by decide +kernel⟩,
    ⟨enters_plain (by decide) rfl rfl, by decide, by simp only [AstoreOk]; decide, by decide, fun e he =>
      have h : ∀ e, e < 16 → (pad 4032).toNat + e / 16 * 64 + e % 16 * 4 < 2 ^ 64 ∧
        passes (holding.access holding.team (.ofNat 64 ((pad 4032).toNat + e / 16 * 64 + e % 16 * 4)) 4 4 .engWrite) (padAt (4032 + e % 16 * 4)) = true := by
        decide +kernel
      ⟨(h e he).1, passes_of (h e he).2⟩⟩, rfl,
    ⟨by decide, by decide, by simp only [AdrainOk]; decide, by decide, by decide⟩, by decide, ⟨by decide, by decide, by simp only [OloadOk]; decide, by decide, by decide⟩,
    ⟨by decide, by decide, by simp only [AstoreOk]; decide, by decide, rfl⟩, rfl, rfl, rfl⟩

def quarterOp : MxOp := ⟨3, 0, 1, .quarter 3 3 0 false 255 0 511 []⟩
def multiplying : State := holding.setCol 0 { holding.col 0 with ops := [quarterOp], sinceProof := [(3, 4095)], proving := [0] }
/-- Its proof product is due, and runs; and an AZERO of tile 511 waits. -/
def proofDue : State := multiplying.setCol 0 { multiplying.col 0 with sinceProof := [(3, 4096)] }
def proofRuns : State := multiplying.setCol 0 { multiplying.col 0 with proving := [3] }
def zeroOp : MxOp := ⟨4, 0, 1, .zero 511 1⟩
def zeroing : State := holding.setCol 0 { holding.col 0 with ops := [zeroOp] }
theorem test_wit_MatrixWork :
    Ok .mstat ⟨0, 63, .lit 0, .reg 0, .reg 0, 0⟩ holding ∧ Ok .mstat ⟨0, 63, .lit 6, .lit 63, .reg 0, 0⟩ holding ∧
    Ok .mstat ⟨0, 63, .lit 7, .reg 0, .reg 0, 0⟩ holding ∧
    (multiplying.columnOfOp? 3 = some (0, quarterOp) ∧ multiplying.opReady 0 quarterOp = true ∧ (multiplying.col 0).runsOn 3 ∉ (multiplying.col 0).proving ∧
      Map.get 0 (multiplying.col 0).sinceProof ((multiplying.col 0).runsOn 3) < multiplying.set.proofEvery ∧
      (multiplying.teamOf (multiplying.grpAt 0).team).ended = false) ∧
    (zeroing.columnOfOp? 4 = some (0, zeroOp) ∧ zeroing.opReady 0 zeroOp = true ∧ (zeroing.teamOf (zeroing.grpAt 0).team).ended = false) ∧
    (proofDue.columnOfOp? 3 = some (0, quarterOp) ∧ (proofDue.col 0).fenced.getLsbD ((proofDue.col 0).runsOn 3) = false ∧
      proofDue.set.proofEvery ≤ Map.get 0 (proofDue.col 0).sinceProof ((proofDue.col 0).runsOn 3)) ∧
    (proofRuns.columnOfOp? 3 = some (0, quarterOp) ∧ (proofRuns.col 0).runsOn 3 ∈ (proofRuns.col 0).proving) ∧
    ((proofDue.col 0).fenced.getLsbD 3 = false ∧ 3 ∉ (proofDue.col 0).proving ∧
      proofDue.set.proofEvery ≤ Map.get 0 (proofDue.col 0).sinceProof 3) ∧ 3 ∈ (proofRuns.col 0).proving := by
  decide

/-! Control flow: a group asked to stop, one with a deferred error, one in two splits. -/

def asked1 : State := setTeams base fun x => { x with requests := [.command] }
def owing : State := base.setGrp { base.grp with pend30 := [1] }
def forked : State := after (.bspl ⟨0, 10, .reg 1, .lit 13, .lit 15, 0⟩) (base.wrM 1 0xFFFF)

theorem test_wit_Transfers :
    (∃ i f tg l y, transferOf base i = some (f, false, tg, l, y) ∧ Issues i f base) ∧
    (∃ i f tg l y, transferOf base i = some (f, true, tg, l, y) ∧ Issues i f base ∧ (y = true → Unasked base) ∧ PcOk tg) ∧
    (∃ i f tg l y, transferOf base i = some (f, true, tg, l, y) ∧ Issues i f base ∧ (y = true → Unasked base) ∧ ¬PcOk tg) ∧
    (∃ i f t tg l, transferOf asked1 i = some (f, t, tg, l, true) ∧ Issues i f asked1 ∧ asked1.grp.pend30 = [] ∧ asked1.team.requests ≠ []) ∧
    (∃ i f t tg l, transferOf owing i = some (f, t, tg, l, true) ∧ Issues i f owing ∧ owing.grp.pend30 = 1 :: []) :=
  ⟨⟨.brm ⟨15, 0, .reg 15, .lit (-1), .reg 0, 0⟩, _, _, _, _, rfl, by decide⟩,
    ⟨.jmpi ⟨0, 63, .litWord 0x0000FFFFFFFFFFF8, .reg 0, .reg 0, 1⟩, _, _, _, _, rfl, by decide, by decide, by decide⟩,
    ⟨.jmpi ⟨0, 63, .litWord 0x0001000000000000, .reg 0, .reg 0, 1⟩, _, _, _, _, rfl, by decide, by decide, by decide⟩,
    ⟨.ret ⟨0, 0, .sca 63, .reg 0, .reg 0, 0⟩, _, _, _, _, rfl, by decide, by decide, by decide⟩,
    ⟨.ret ⟨0, 0, .sca 63, .reg 0, .reg 0, 0⟩, _, _, _, _, rfl, by decide, by decide⟩⟩

theorem test_wit_Splits_bspl :
    (let f : Fields := ⟨0, 61, .reg 15, .litWord (2 ^ 45), .lit 1, 0⟩; Ok .bspl f base ∧ ¬PcOk (jumpTo (.bspl f) base f.b)) ∧
    (let f : Fields := ⟨0, 61, .reg 15, .lit 1, .litWord (2 ^ 45), 0⟩; Ok .bspl f base ∧ PcOk (jumpTo (.bspl f) base f.b) ∧ ¬PcOk (jumpTo (.bspl f) base f.c)) ∧
    (let f : Fields := ⟨0, 61, .reg 15, .lit 1, .lit (-2), 0⟩
     Ok .bspl f base ∧ PcOk (jumpTo (.bspl f) base f.b) ∧ PcOk (jumpTo (.bspl f) base f.c) ∧ base.split.m0 &&& base.maskSrc f.a = 0) ∧
    (let f : Fields := ⟨0, 61, .reg 0, .lit 1, .lit (-2), 0⟩; Ok .bspl f base ∧ base.split.m0 &&& ~~~base.maskSrc f.a = 0 ∧ base.split.m0 &&& base.maskSrc f.a ≠ 0) ∧
    (let f : Fields := ⟨0, 61, .reg 15, .lit 1, .lit (-2), 0⟩
     let s := base.wrM 15 0x80000000
     Ok .bspl f s ∧ s.split.m0 &&& s.maskSrc f.a ≠ 0 ∧ s.split.m0 &&& ~~~s.maskSrc f.a ≠ 0 ∧ s.partner.live = false) := by decide
theorem test_wit_Splits_join :
    let f : Fields := ⟨0, 0, .sca 10, .reg 0, .reg 0, 0⟩
    (Ok .join f (base.wrS 10 (2 ^ 48)) ∧ (base.wrS 10 (2 ^ 48)).width ≤ 128 ∧ ((base.wrS 10 (2 ^ 48)).rdS 10).toNat / 8 * 8 / 2 ^ 48 ≠ 0) ∧
    (Ok .join f base ∧ base.partner.live = false ∧ (base.rdS 10).toNat / 8 * 8 / 2 ^ 48 = 0) ∧
    (Ok .join f forked ∧ forked.partner.live = true ∧ forked.partner.m0 &&& .ofNat 128 (forked.rdS 11).toNat ≠ 0 ∧ forked.partner.wait = .none ∧ Unasked forked) ∧
    (let s := { after (.join f) forked with curSplit := 1 }
     Ok .join f s ∧ s.partner.live = true ∧ s.partner.m0 &&& .ofNat 128 (s.rdS 11).toNat ≠ 0 ∧ s.partner.wait = .join (0x10008 + 8 * 15)) := by decide

/-- A barrier of the base team's. -/
def barred (x : Barrier) : State := setTeams base fun t => t.setBar 15 x
def bar15 : Fields := ⟨0, 0, .reg 15, .lit 1, .reg 0, 0⟩
/-- Split 0 of `forked` with the whole group's lanes in M2. -/
def half : State := forked.wrM 2 0xFFFFFFFF
def bar15m2 : Fields := ⟨0, 0, .reg 15, .lit 1, .reg 2, 0⟩
theorem test_wit_Barriers_arrive :
    (Ok .bar bar15m2 half ∧ Staffed half ∧ ArrivesOk bar15m2 half ∧ Unasked half ∧ ¬Complete (arrivedBar bar15m2 half) ∧ Ok .bara bar15m2 half) ∧
    (Ok .bar bar15 base ∧ Staffed base ∧ ArrivesOk bar15 base ∧ Unasked base ∧ base.split.live = true ∧ base.split.resume = .none ∧
      Complete (arrivedBar bar15 base) ∧ Ok .bara bar15 base) ∧
    (Ok .bar bar15 stored ∧ Staffed stored ∧ ArrivesOk bar15 stored ∧ Unasked stored ∧ stored.split.live = true ∧ stored.split.resume = .none ∧
      Complete (arrivedBar bar15 stored) ∧ underWay stored 0 stored.nextId = true) ∧
    (Ok .barw bar15 base ∧ PairOk bar15 base ∧ Map.get 0 (barAt base 15).abandon 0 = 0 ∧ (barAt base 15).arrPend.getLsbD 0 = false ∧
      (let s := { stored with teams := (barred { Barrier.empty with covers := [(0, 0, 2 ^ 64), (1, 0, 5)] }).teams }
       Ok .barw bar15 s ∧ Staffed s ∧ PairOk bar15 s ∧ Map.get 0 (barAt s 15).abandon 0 = 0 ∧ (barAt s 15).arrPend.getLsbD 0 = false ∧
         (owed s s.cur (((barAt s 15).covers.filter fun c => c.1 == s.grp.gid).map (·.2))).length = 1)) ∧
    (let s := { half with teams := (after (.bara bar15m2) half).teams }
     Ok .barw bar15m2 s ∧ PairOk bar15m2 s ∧ Map.get 0 (barAt s 15).abandon 0 = 0 ∧ (barAt s 15).arrPend.getLsbD 0 = true ∧
       (barAt s 15).gset = barSet bar15m2 s ∧ (barAt s 15).lmask = barMask bar15m2 s ∧ Unasked s) := by
  unfold ArrivesOk PairOk Complete
  repeat' apply And.intro
  all_goals decide
theorem test_wit_Barriers_others :
    (Ok .barinit ⟨0, 0, .reg 15, .reg 0, .reg 0, 0⟩ base ∧ (barAt base 15).cond ≠ .active) ∧
    (Ok .barinv ⟨0, 0, .reg 15, .reg 0, .reg 0, 0⟩ base ∧ (∀ p ∈ base.splitsOf base.team.uid, (base.spAt p).waitsAt 15 = false) ∧
      (∀ p ∈ base.splitsOf base.team.uid, (base.spAt p).resume = .none) ∧ base.team.uid = base.grp.team) ∧
    (let s := { base with groups := base.groups ++ [{ base.grp with gid := 1, s0 := { base.split with wait := .bar 15 0 0 } }] }
     Ok .barinv ⟨0, 0, .reg 15, .reg 0, .reg 0, 0⟩ s ∧ (1, 0) ∈ s.splitsOf s.team.uid ∧ (1, 0).1 ≠ s.cur ∧ (s.spAt (1, 0)).waitsAt 15 = true) ∧
    (let s := { base with groups := base.groups ++ [{ base.grp with gid := 1, s0 := { base.split with wait := .yielded, resume := .bar 15 0 0 } }] }
     Ok .barinv ⟨0, 0, .reg 15, .reg 0, .reg 0, 0⟩ s ∧ (1, 0) ∈ s.splitsOf s.team.uid ∧ (1, 0).1 ≠ s.cur ∧ (s.spAt (1, 0)).live = true ∧
       (s.spAt (1, 0)).resume = .bar 15 (barAt s 15).phase 0 ∧ ∀ q ∈ s.splitsOf s.team.uid, (s.spAt q).waitsAt 15 = false) ∧
    (let x : Barrier := { Barrier.empty with cond := .active, gset := 1, lmask := 1, arrived := [(0, 1)], pending := 1 }
     let s := barred x
     Ok .barexp ⟨0, 0, .reg 15, .lit (-1), .reg 0, 0⟩ s ∧ Staffed s ∧ (barAt s 15).cond = .active ∧ (barAt s 15).pending + s.scalarSrc (.lit (-1)) = 0 ∧
       (barAt s 15).gset = 1 ∧ Map.get 0 (barAt s 15).arrived 0 = (barAt s 15).lmask) ∧
    (Ok .barexp ⟨0, 0, .reg 15, .lit (-1), .reg 0, 0⟩ base ∧ Staffed base ∧ (barAt base 15).cond ≠ .invalid ∧ (barAt base 15).cond ≠ .active) ∧
    ((0, 1) ∈ base.splitsOf 1 ∨ (0, 0) ∈ base.splitsOf 1) ∧ (∃ x : Split, x.live = true ∧ x.wait = .bar 15 3 8) ∧
    ∃ x : Split, x.live = true ∧ x.wait = .yielded ∧ x.resume = .bar 15 3 8 := by
  refine ⟨by decide, by decide, by decide, by decide, by decide, by decide, by decide, ⟨{ base.split with wait := .bar 15 3 8 }, by decide, rfl⟩,
    { base.split with wait := .yielded, resume := .bar 15 3 8 }, by decide, rfl, rfl⟩
theorem test_wit_Barriers_faults :
    (Ok .barw ⟨0, 0, .reg 15, .litWord (2 ^ 16), .reg 0, 0⟩ base ∧ (base.scalarSrc (.litWord (2 ^ 16))).toNat / 2 ^ 16 ≠ 0) ∧
    (Ok .bar bar15 (barred { Barrier.empty with cond := .invalid }) ∧ (barAt (barred { Barrier.empty with cond := .invalid }) 15).cond = .invalid) ∧
    (Ok .bara ⟨0, 0, .reg 15, .litWord 0xFFFE, .reg 0, 0⟩ base ∧ (barSet ⟨0, 0, .reg 15, .litWord 0xFFFE, .reg 0, 0⟩ base).getLsbD base.grp.gid = false) ∧
    (let s := { half with teams := (after (.bara bar15m2) half).teams }
     Ok .bar bar15m2 s ∧ PairOk bar15m2 s ∧ s.split.m0 &&& Map.get 0 (barAt s 15).arrived 0 ≠ 0) ∧
    (let s := barred { Barrier.empty with cond := .active, gset := 2 }
     Ok .bar bar15 s ∧ PairOk bar15 s ∧ s.split.m0 &&& Map.get 0 (barAt s 15).arrived 0 = 0 ∧ (barAt s 15).cond = .active ∧ (barAt s 15).gset ≠ barSet bar15 s ∧
       Ok .barinit ⟨0, 0, .reg 15, .reg 0, .reg 0, 0⟩ s) ∧
    (let s := barred { Barrier.empty with abandon := [(0, 5)] }
     Ok .barw bar15 s ∧ PairOk bar15 s ∧ Map.get 0 (barAt s 15).abandon 0 ≠ 0) := by
  unfold PairOk
  repeat' apply And.intro
  all_goals decide

theorem test_wit_YieldsAndNaps :
    (let f : Fields := ⟨0, 0, .litWord (4095 + 2 ^ 32), .litWord (4095 + 2 ^ 32), .litWord (4095 + 2 ^ 32), 3⟩
     Ok .yld f base ∧ YldRange base (base.scalarSrc f.a) ∧ base.grp.pend30 = [] ∧ base.team.requests = [] ∧ Ok .yld f asked1 ∧
       YldRange asked1 (asked1.scalarSrc f.a) ∧ asked1.grp.pend30 = [] ∧ asked1.team.requests ≠ []) ∧
    (Ok .nap ⟨0, 0, .lit 0, .reg 0, .reg 0, 0⟩ base ∧ Ok .nap ⟨0, 0, .litWord 65536, .reg 0, .reg 0, 0⟩ base ∧ base.scalarSrc (.litWord 65536) ≠ 0 ∧ Unasked base) ∧
    (Ok .idem ⟨0, 0, .reg 0, .reg 0, .reg 0, 1⟩ base ∧ Ok .idem ⟨0, 0, .reg 0, .reg 0, .reg 0, 0⟩ base ∧ base.partner.live = false ∧
      Ok .idem ⟨0, 0, .reg 0, .reg 0, .reg 0, 0⟩ forked ∧ forked.partner.live = true) ∧
    (let s := base.setSplit { base.split with wait := .nap 1 }
     (s.spAt (0, 0)).wait = .nap 1 ∧ (s.spAt (0, 0)).live = true ∧ s.cycle (s.teamOf (s.grpAt 0).team).col < 1 ∧
       1 ≤ ({ s with clock := 1 } : State).cycle 0) ∧
    (let bad : Word := 2 ^ 27
     let stray : Word := .ofNat 64 (4095 + 2 * 2 ^ 32)
     Ok .yld ⟨0, 0, .litWord bad, .lit 0, .lit 0, 0⟩ base ∧ ¬RangeForm bad ∧ Ok .yld ⟨0, 0, .lit 0, .litWord bad, .lit 0, 0⟩ base ∧ RangeForm 0 ∧
       Ok .yld ⟨0, 0, .litWord stray, .lit 0, .lit 0, 0⟩ base ∧ RangeForm stray ∧ ¬RangeOwn base stray ∧
       Ok .yld ⟨0, 0, .lit 0, .litWord stray, .lit 0, 0⟩ base ∧ RangeOwn base 0) := by
  unfold YldRange RangeForm RangeOwn
  repeat' apply And.intro
  all_goals decide

theorem test_wit_ExitEnds :
    (let f : Fields := ⟨15, 0, .reg 0, .reg 0, .reg 0, 0⟩
     Ok .exit f base ∧ base.eff 15 = 0 ∧ (let s := base.wrM 15 1
     Ok .exit f s ∧ s.eff 15 ≠ 0 ∧ s.split.m0 &&& ~~~s.eff 15 ≠ 0 ∧ s.split.live = true ∧ ∀ b, b < 16 → (s.team.bar b).cond ≠ .active)) ∧
    (let f : Fields := ⟨0, 0, .reg 0, .reg 0, .reg 0, 0⟩
     let s := { after (.join ⟨0, 0, .sca 10, .reg 0, .reg 0, 0⟩) forked with curSplit := 1 }
     Ok .exit f s ∧ s.eff 0 ≠ 0 ∧ s.split.m0 &&& ~~~s.eff 0 = 0 ∧ s.curSplit < 2 ∧ s.partner.live = true ∧ s.partner.wait = .join (0x10008 + 8 * 15) ∧
       (∀ b, b < 16 → (s.team.bar b).cond ≠ .active)) ∧
    (let f : Fields := ⟨0, 0, .reg 0, .reg 0, .reg 0, 0⟩
     Ok .exit f base ∧ base.eff 0 ≠ 0 ∧ base.split.m0 &&& ~~~base.eff 0 = 0 ∧ base.curSplit < 2 ∧ base.partner.live = false ∧
       (∃ x ∈ base.teams, x.uid = base.grp.team) ∧ base.groups.length = 1) := by decide
/-- A group of two, the other waiting at the phase of barrier 15. -/
def paired15 : State :=
  let x : Barrier := { Barrier.empty with cond := .active, gset := 3, lmask := 0xFFFFFFFF }
  { setTeams (barred x) fun t => { t with ngroups := 2 } with
    groups := base.groups ++ [{ base.grp with gid := 1, slot := 1, s0 := { base.split with wait := .bar 15 0 0 } }] }
/-- A lane of the mask goes; the group ends, with no lane of the mask. -/
theorem test_wit_ExitEnds_abandons : Staffed paired15 ∧ paired15.grp.ended = false ∧ (paired15.team.bar 15).cond = .active ∧
    (paired15.team.bar 15).gset.getLsbD paired15.grp.gid = true ∧ (∀ c, c < 16 → c ≠ 15 → (paired15.team.bar c).cond ≠ .active) ∧
    paired15.curSplit < 2 ∧ paired15.split.live = true ∧
    (let s := paired15.wrM 15 0x80000000
     Ok .exit ⟨15, 0, .reg 0, .reg 0, .reg 0, 0⟩ s ∧ s.split.m0 &&& ~~~s.eff 15 ≠ 0 ∧ s.eff 15 &&& (s.team.bar 15).lmask ≠ 0) ∧
    (Ok .exit ⟨0, 0, .reg 0, .reg 0, .reg 0, 0⟩ paired15 ∧ paired15.split.m0 &&& ~~~paired15.eff 0 = 0 ∧ paired15.partner.live = false ∧
      ∃ g ∈ paired15.groupsOf paired15.grp.team, g ≠ paired15.cur ∧ (paired15.grpAt g).ended = false) ∧
    (0 + 1, 0) ∈ paired15.splitsOf paired15.grp.team ∧ (paired15.spAt (1, 0)).waitsAt 15 = true := by decide

/-! Records, descriptors, handles: in the code page, generic 0x10000 to 0x10FFF, frame 0x14. -/

/-- The byte of the code page at an offset set, and its place. -/
def poke (s : State) (o n v : Nat) : State := { s with mem := Memory.wrN s.mem (0x14000 + o) n v }
abbrev ram (o : Nat) : Loc := ⟨.mem false false, 0x14000 + o⟩
/-- The place of a check that passes. -/
def place : Chk Loc → Option Loc
  | .ok l => some l
  | _ => none
def spawn : Fields := ⟨0, 63, .litWord 0x10FE0, .reg 0, .reg 0, 0⟩
theorem notBad {r : TaskRec} {l : Launch} (h : r.flags / 2 ^ 11 = 0 ∧ r.code % 8 = 0 ∧ r.parent % 32 = 0 ∧ r.flags / 4 % 16 + 1 ≤ l.groups ∧
    8 * (r.flags / 64 % 32 + 1) ≤ l.vregs ∧ r.flags % 4 ≤ l.prio) : ¬RecordBad r l := by unfold RecordBad; omega
def queued64 (n : Nat) (c : Bool) : State := setLaunchOf base fun l => { l with rqcap := n, cancelled := c }
theorem test_wit_Spawns_tspawn :
    (Ok .tspawn spawn base ∧ path 0x10FE0 ≤ 1 ∧ place (base.access base.team 0x10FE0 32 32 .read) = some (ram 0xFE0) ∧ Drained base (ram 0xFE0) 32) ∧
    RecordBad (recordAt (poke base 0xFE0 1 1) (ram 0xFE0)) base.launch ∧ ¬RecordBad (recordAt base (ram 0xFE0)) base.launch ∧
    (Ok .tspawn spawn (queued64 128 true) ∧ (queued64 128 true).launch.cancelled = true) ∧
    (Ok .tspawn spawn (queued64 64 false) ∧ (queued64 64 false).launch.cancelled = false ∧ (queued64 64 false).launch.rqcap ≤ queueOf (queued64 64 false) + 64) ∧
    queueOf (queued64 65 false) + 64 < (queued64 65 false).launch.rqcap :=
  ⟨by unfold Drained AllDone Ordered; decide +kernel, .inr (.inl (by decide +kernel)), notBad (by decide +kernel), by decide +kernel, by decide +kernel, by decide +kernel⟩
theorem test_wit_Spawns_tjoin : Ok .tjoin spawn base ∧ (0x10FE0 : Word).toNat % 32 = 0 ∧ (0x10FE0 + 16 : Word) = 0x10FF0 ∧ place (base.access base.team 0x10FF0 4 4 .atomic) = some (ram 0xFF0) ∧
    Drained base (ram 0xFF0) 4 ∧ base.rdN (ram 0xFF0) 4 = 0 ∧ (poke base 0xFF0 4 2).rdN (ram 0xFF0) 4 = 2 ∧ (poke base 0xFF0 4 1).rdN (ram 0xFF0) 4 = 1 ∧ base.launch.cancelled = false ∧
    queueOf base < base.launch.rqcap ∧ (let s := setLaunchOf (poke base 0xFF0 4 1) fun l => { l with rqcap := 0 }
    s.rdN (ram 0xFF0) 4 = 1 ∧ s.launch.rqcap ≤ queueOf s) ∧ (setLaunchOf base fun l => { l with cancelled := true }).launch.cancelled = true := by
  unfold Drained AllDone Ordered; decide +kernel
theorem test_wit_Spawns_paths : Ok .tspawn ⟨0, 63, .litWord 0x5000000000000000, .reg 0, .reg 0, 0⟩ base ∧ path 0x5000000000000000 = 5 ∧
    Ok .lspawn ⟨0, 63, .litWord 0x2000000000000000, .reg 0, .reg 0, 0⟩ base ∧ path 0x2000000000000000 = 2 := by decide
/-- A descriptor at 0x10F80: code and bank at 0x10000, one team of one group, width 16, eight registers, the least queue. -/
def described : State := poke (poke (poke (poke (poke base 0xF80 8 0x10000) 0xF88 8 0x10000) 0xF90 4 1) 0xF98 4 0x10008) 0xFE0 4 128
def desc (s : State) : Nat := s.rdN (ram 0xF80) 64 + s.rdN (ram 0xFC0) 64 * 2 ^ 512
def lspawnF : Fields := ⟨0, 63, .litWord 0x10F80, .reg 0, .reg 0, 0⟩
theorem test_wit_Spawns_lspawn : Ok .lspawn lspawnF described ∧ path 0x10F80 ≤ 1 ∧ (0x10F80 : Word).toNat % 64 = 0 ∧ (0x10F80 + 64 : Word) = 0x10FC0 ∧
    place (described.access described.team 0x10F80 64 64 .read) = some (ram 0xF80) ∧
    place (described.access described.team 0x10FC0 64 64 .read) = some (ram 0xFC0) ∧
    Drained described (ram 0xF80) 64 ∧ Drained described (ram 0xFC0) 64 ∧ (described.tenantOf? described.team.ten).isSome = true ∧
    described.launches.length < 2 ^ 31 := by unfold Drained AllDone Ordered; decide +kernel
/-- The descriptor, one of a higher priority, one that asks for control tokens. -/
def ofPrio (v : Nat) : State := poke described 0xF9D 1 v
theorem ok_of (d : Nat) (h : ([descField d 0 8 % 8, descField d 8 8 % 8, descField d 20 4 % 4096, descField d 24 2 % 8, descField d 29 1 / 16, descField d 31 1,
      descField d 76 4, descField d 100 28, descField d 80 8, descField d 88 8 % 32].all (· == 0) && decide (descField d 0 8 < 2 ^ 48) &&
      decide (descField d 8 8 < 2 ^ 48) && decide (1 ≤ descField d 16 4) && decide (descField d 20 4 ≤ 134217728) && decide (8 ≤ descField d 24 2) &&
      decide (descField d 24 2 ≤ 256) && decide (1 ≤ descField d 26 1) && decide (descField d 26 1 ≤ 16) && decide (descField d 27 1 ≤ 3) &&
      decide (descField d 28 1 ≤ 16) && decide (descField d 30 1 ≤ 3) && decide (descField d 88 8 < 2 ^ 48) && decide (128 ≤ descField d 96 4) &&
      decide (descField d 96 4 ≤ 2 ^ 24) &&
      decide (descField d 24 2 * [1, 1, 2, 4].getD (descField d 27 1) 0 * 128 * descField d 26 1 ≤ 2 ^ 20)) = true) : DescriptorOk d := by
  simp only [List.all_cons, List.all_nil, Bool.and_eq_true, Bool.and_true, beq_iff_eq, decide_eq_true_eq] at h
  refine ⟨⟨by omega, by omega⟩, ⟨by omega, by omega⟩, by omega, ⟨by omega, by omega⟩, ⟨by omega, by omega, by omega⟩, ⟨by omega, by omega⟩,
    by omega, by omega, by omega, by omega, ⟨by omega, by omega, by omega⟩, .inl (by omega), ⟨by omega, by omega, by omega, by omega⟩, h.2⟩
theorem test_wit_Spawns_desc : DescriptorOk (desc described) ∧ DescriptorOk (desc (ofPrio 3)) ∧ DescriptorOk (desc (ofPrio 8)) ∧ ¬DescriptorOk (desc base) ∧
    descField (desc described) 8 8 = 0x10000 :=
  ⟨ok_of _ (by decide +kernel), ok_of _ (by decide +kernel), ok_of _ (by decide +kernel), fun h => absurd h.teams (by decide +kernel), by decide +kernel⟩
theorem page_walk (s : State) (h : s.walk 0 0x10000 = .leaf (codeEntry 0x14)) (a n : Nat) (ha : 0x10000 ≤ a) (hn : a + n ≤ 0x11000) :
    (s.virtRead? 0 a n).isSome = true :=
  virtRead?_isSome s 0 a n (by omega) fun k hk => ⟨_, (walk_page s 0 (by omega)).trans h, by decide⟩
theorem page_ready (s : State) (a n e : Nat) (hw : s.walk 0 a = .leaf e) (hp : a % 4096 + n ≤ 4096) (hr : ∀ k, s.granuleReady (leafLoc e (a + k)) = true) :
    s.virtMiss 0 a n = [] :=
  virtMiss_nil s 0 a n fun k hk x hx => by
    rw [show s.walk 0 (a + k) = .leaf e from (walk_page s 0 (by omega)).trans hw] at hx
    cases hx; exact hr k
theorem test_wit_Spawns_bank : bankMissing described 0 0x10000 = [] ∧ ∃ n, described.virtRead? 0 0x10000 2048 = some n :=
  have h : (described.virtRead? 0 0x10000 2048).isSome = true := page_walk described (by decide +kernel) 0x10000 2048 (by decide) (by decide)
  ⟨page_ready described 0x10000 2048 (codeEntry 0x14) (by decide +kernel) (by decide) fun k => rfl, Option.isSome_iff_exists.mp h⟩
/-- A bank on a page that is not there; and one on a page in flash that the staging cache does not hold. -/
def farBank (e : Nat) : State := poke { described with mem := if e = 0 then described.mem else Memory.wrN described.mem 0x13088 8 e } 0xF88 8 0x11000
def noBank : State := farBank 0
theorem farBank_ok (e : Nat) (h : desc (farBank e) = 0x10000 + 0x11000 * 2 ^ 64 + 2 ^ 128 + 0x10008 * 2 ^ 192 + 128 * 2 ^ 768) :
    DescriptorOk (desc (farBank e)) ∧ descField (desc (farBank e)) 8 8 = 0x11000 := by
  rw [h]; exact ⟨ok_of _ (by decide +kernel), by decide +kernel⟩
theorem test_wit_Spawns_noBank_ok : DescriptorOk (desc (farBank 0)) ∧ descField (desc (farBank 0)) 8 8 = 0x11000 := farBank_ok 0 (by decide +kernel)
theorem test_wit_Spawns_noBank : bankMissing (farBank 0) 0 0x11000 = [] ∧ (farBank 0).virtRead? 0 0x11000 2048 = none :=
  have h : ∀ k, k < 2048 → (farBank 0).walk 0 (0x11000 + k) = .absent := fun k hk => (walk_page _ 0 (by omega)).trans (by decide +kernel : (farBank 0).walk 0 0x11000 = .absent)
  ⟨virtMiss_nil _ _ _ _ fun k hk e he => (nomatch (h k hk).symm.trans he), by
    unfold State.virtRead?; rw [show (farBank 0).walk 0 0x11000 = .absent from h 0 (by decide)]; rfl⟩
theorem test_wit_Spawns_flashBank_ok : DescriptorOk (desc (farBank (codeEntry 0x400 + 2 ^ 5))) ∧ descField (desc (farBank (codeEntry 0x400 + 2 ^ 5))) 8 8 = 0x11000 :=
  farBank_ok _ (by decide +kernel)
theorem test_wit_Spawns_flashBank : bankMissing (farBank (codeEntry 0x400 + 2 ^ 5)) 0 0x11000 ≠ [] :=
  virtMiss_ne_nil _ _ _ _ (codeEntry 0x400 + 2 ^ 5) (by decide) (by decide) (by decide +kernel) (by decide) (by decide)
/-- Higher priority, control tokens, a cancelled graph, 4,096 launches unfinished. -/
theorem test_wit_Spawns_status :
    ¬(base.launch.prio < descField (desc described) 29 1 % 4 ∨ (bitOf (descField (desc described) 29 1) 3 = true ∧ base.launch.ctl = false)) ∧
    base.launch.prio < descField (desc (ofPrio 3)) 29 1 % 4 ∧
    (bitOf (descField (desc (ofPrio 8)) 29 1) 3 = true ∧ base.launch.ctl = false) ∧
    ((1, descField (desc described) 32 8) ∈ [(1, 0)]) ∧
    (base.launches.filter fun x => x.ten == 0 && !x.complete).length < 4096 := by decide +kernel
theorem test_wit_Spawns_level : ∃ ten ∈ base.tenants, ¬levelCancelled ten (desc described) := by
  refine ⟨_, List.mem_singleton_self _, ?_⟩
  unfold levelCancelled; decide +kernel
theorem test_wit_Spawns_many : 4096 ≤ ((List.replicate 4096 base.launch).filter fun x => x.ten == 0 && !x.complete).length := by
  exact Nat.le_of_eq (by rw [List.filter_replicate_of_pos (by decide), List.length_replicate])

def withJob (j : RJob) : State := { base with rjobs := [j] }
/-- A job with an area; one with a checkpoint in progress. -/
def areaJob : RJob := { RJob.start 0 0 with hasArea := true, area := 0x100000, slotSize := 0x1000, undoCap := 1024 }
def ckpt1 : Ckpt := { gen := 1, slot := 0, images := [], items := [], launches := [], known := [], joins := [], entry := false, committed := false, len := 0 }
/-- Peer 255 holds a record of the launch. -/
def sentAway : State := { base with away := [(255, { id := 3, die := 0, ten := 0, launch := 1, prio := 0, pushTime := 0, queuedAt := 0, aged := 0, passes := 0, work := .record 0 0 })] }
theorem test_wit_LevelsAndSettings :
    (Ok .lcount ⟨0, 63, .litWord 5, .reg 0, .reg 0, 0⟩ base ∧ (base.launches.filter fun l => l.ten == base.team.ten && l.level 0 == 5) = []) ∧
    (Ok .lcount ⟨0, 63, .lit 0, .reg 0, .reg 0, 0⟩ base ∧ (base.launches.filter fun l => l.ten == base.team.ten && l.level 0 == base.launch.level 0).length = 1) ∧
    (Ok .lcount ⟨0, 63, .lit 0, .reg 0, .reg 0, 3⟩ base ∧ (base.launches.filter fun l => l.ten == base.team.ten && l.level 3 == 0) ≠ []) ∧
    (Ok .lcancel ⟨0, 63, .lit 5, .reg 0, .reg 0, 0⟩ base ∧ (base.tenantOf? base.team.ten).isSome = true ∧ (∀ l ∈ base.launches, l.id < 2 ^ 32) ∧
      (∀ l ∈ base.launches, (l.ten == base.team.ten && l.level 0 == 5) = false)) ∧
    (Ok .lcancel ⟨0, 63, .lit 1, .reg 0, .reg 0, 0⟩ (queued64 128 true) ∧ ((queued64 128 true).launchOf 0 1).cancelled = true) ∧
    (Ok .lcancel ⟨0, 63, .lit 0, .reg 0, .reg 0, 0⟩ base ∧ (base.launchOf 0 1).cancelled = false ∧ base.away = [] ∧
      (∀ l ∈ base.launches, l.ten = 0 ∧ l.level 0 = base.launch.level 0 ∧ base.launchOf l.ten l.id = l) ∧ ∀ x ∈ base.teams, ∀ y ∈ base.teams, y.uid = x.uid → y = x) ∧
    (Ok .lcancel ⟨0, 63, .lit 0, .reg 0, .reg 0, 0⟩ sentAway ∧ ∃ p ∈ sentAway.away, ∃ l ∈ sentAway.launches, l.ten = sentAway.team.ten ∧
      l.level 0 = sentAway.launch.level 0 ∧ l.cancelled = false ∧ sentAway.launchOf l.ten l.id = l ∧ p.2.ten = l.ten ∧ p.2.launch = l.id) := by
  repeat' apply And.intro
  all_goals decide
theorem test_wit_LevelsAndSettings_system :
    (Ok .trap ⟨0, 0, .litWord 0xFFFF, .reg 0, .reg 0, 0⟩ base ∧ Ok .trap ⟨0, 0, .litWord 0x10000, .reg 0, .reg 0, 0⟩ base) ∧
    (Ok .bkpt ⟨0, 0, .lit (.ofNat 8 127), .reg 0, .reg 0, 0⟩ base ∧ base.launch.bkpt = false ∧ (setLaunchOf base fun l => { l with bkpt := true }).launch.bkpt = true) ∧
    (Ok .ssets ⟨0, 0, .lit (.ofNat 8 0), .lit 0, .reg 0, 0⟩ base ∧ base.set.supervisor ≠ some base.team.ten ∧
      (let s : State := { base with set := { base.set with supervisor := some 0 } }
       Ok .ssets ⟨0, 0, .lit (.ofNat 8 0), .litWord 0xFFFFFFFFFFC0, .reg 0, 0⟩ s ∧ Ok .ssets ⟨0, 0, .lit (.ofNat 8 127), .lit 1, .reg 0, 0⟩ s ∧
         s.set.supervisor = some s.team.ten)) ∧
    (Ok .ckpt ⟨0, 63, .reg 0, .reg 0, .reg 0, 0⟩ base ∧ base.rjob? base.team.ten base.launch.job = none) ∧
    (let s := withJob { areaJob with progress := some ckpt1 }
     Ok .ckpt ⟨0, 63, .reg 0, .reg 0, .reg 0, 0⟩ s ∧ s.rjob? s.team.ten s.launch.job = some { areaJob with progress := some ckpt1 }) ∧
    (Ok .ckpt ⟨0, 63, .reg 0, .reg 0, .reg 0, 0⟩ (withJob areaJob) ∧ (withJob areaJob).rjob? 0 (withJob areaJob).launch.job = some areaJob ∧ areaJob.progress = none ∧ areaJob.rolling = false) ∧
    (let j := RJob.start 0 0
     (withJob j).rjob? (withJob j).team.ten (withJob j).launch.job = some j ∧ j.progress = none ∧ j.hasArea = false) ∧
    (Ok .rpread ⟨0, 63, .lit (.ofNat 8 4), .reg 0, .reg 0, 0⟩ base ∧ Ok .rpread ⟨0, 63, .lit (.ofNat 8 4), .reg 0, .reg 0, 0⟩ (withJob areaJob)) := by
  repeat' apply And.intro
  all_goals decide
theorem test_wit_PairHalves :
    let i : Instr := .pairVaddI32 252 (.reg 248) ⟨.smov, 63, .sca 76⟩
    i.pair? = some (⟨.vaddI32, 252, .reg 248⟩, ⟨.smov, 63, .sca 76⟩) ∧ i.wf = true ∧ Here base ∧ 252 < base.team.vregs ∧ base.doneFault = none := by decide

/-! Strings: an indexed page at generic 0x11000, frame 0x15 of stack 0, whose record stands at 0x10F80. -/

def indexedEntry : Nat := 2 ^ 63 + 2 * 2 ^ 53 + 0x15 * 2 ^ 12 + 2 ^ 8 + 2 ^ 6
/-- A record of `n` bits at 0x11000, of a kind, format 1. -/
def record (n kind format : Nat) : State :=
  let s : State := { base with mem := Memory.wrN base.mem 0x13088 8 indexedEntry }
  poke (poke (poke (poke s 0xF80 8 0x11000) 0xF88 8 n) 0xF90 1 kind) 0xFBF 1 format
def sealF : Fields := ⟨0, 63, .litWord 0x10F80, .reg 0, .reg 0, 0⟩
def rec0 (s : State) : List Byte := recordBytes s (ram 0xF80)
theorem test_wit_Handles_seal :
    (Ok .sealStr sealF base ∧ place (base.access base.team 0x10F80 64 64 .read) = some (ram 0xF80) ∧ Drained base (ram 0xF80) 64 ∧ (∀ peer, (ram 0xF80).sp ≠ .remote peer) ∧
      (base.tenantOf? 0).isSome = true ∧ (base.liveTags base.team.ten).length < 2 ^ 24 ∧ part (rec0 base) 63 1 = 0) ∧
    part (rec0 (record 1 3 1)) 16 1 = 3 ∧ Reserved (rec0 (poke (record 1 0 1) 0xFBE 1 1)) ∧
    (LengthBad (rec0 (record 0 0 1)) ∧ ¬Reserved (rec0 (record 0 0 1))) := by
  refine ⟨⟨by decide, by decide +kernel, by unfold Drained AllDone Ordered; decide +kernel, nofun, by decide, by decide, by decide +kernel⟩, by decide +kernel, ⟨62, by decide +kernel⟩, ⟨.inl (by decide +kernel), fun ⟨k, hk, h⟩ => ?_⟩⟩
  have h64 : ∀ k, k < 64 → ((17 ≤ k ∧ k < 24) ∨ (48 ≤ k ∧ k < 63) ∨ (part (rec0 (record 0 0 1)) 16 1 ≠ 2 ∧ 24 ≤ k ∧ k < 48)) →
    (rec0 (record 0 0 1)).getD k 0 = 0 := by decide +kernel
  exact h (h64 k (by omega) hk)
theorem test_wit_Handles_seal_bits :
    (¬LengthBad (rec0 (record 1 0 1)) ∧ AddressBad (rec0 (poke (record 1 0 1) 0xF80 1 1))) ∧ ¬AddressBad (rec0 (record (2 ^ 15) 1 1)) ∧
    ((record 1 0 1).stringPages 0 0x11000 1 = some ([0x15000], 0) ∧ base.stringPages 0 0x11000 1 = none) ∧ ArraysOk (record 1 0 1) (rec0 (record 1 0 1)) ∧
    (LowestFree base 1 ∧ LowestFree (setTeams base fun x => { x with handles := [⟨1, 0, .tensor []⟩] }) 2 ∧
      TableFull (setTeams base fun x => { x with handles := (List.range 256).map fun k => ⟨k, 0, .tensor []⟩ })) ∧
    (base.dirRoom 0 1 = true ∧ ({ base with set := { base.set with dirArea := 0 } } : State).dirRoom 0 1 = false) := by
  unfold LengthBad AddressBad ArraysOk
  refine ⟨by decide +kernel, by decide +kernel, by decide +kernel, by decide +kernel, ⟨⟨by decide, by decide, by decide +kernel, fun j => by omega⟩,
    ⟨by decide, by decide, by decide +kernel, fun j h h2 => ⟨⟨1, 0, .tensor []⟩, by decide +kernel, by show (1 : Nat) = j; omega⟩⟩, fun j h1 h2 => ⟨⟨j, 0, .tensor []⟩,
      List.mem_map.2 ⟨j, List.mem_range.2 (by omega), rfl⟩, rfl⟩⟩, by decide +kernel⟩
/-- A tensor record of one dimension of one element. -/
def tensorOne : State := poke (poke (poke (poke (poke (poke (poke base 0xF80 8 0x10000) 0xF89 1 1) 0xF90 4 1) 0xF94 4 1) 0xF98 4 1) 0xF9C 4 1) 0xFBF 1 2
theorem test_wit_Handles_others :
    part (rec0 (record 1 0 2)) 63 1 = 2 ∧
    (let f : Fields := ⟨0, 63, .litWord 511, .reg 0, .reg 0, 0⟩
     Ok .unsealStr f base ∧ base.handle? 511 = none ∧ Ok .unsealStr f tiled ∧ tiled.handle? 511 = some ⟨255, 1, .tensor (List.replicate 64 0)⟩ ∧ Ok .ixstat f tiled) := by
  decide +kernel
/-- A directory of a string of `kind` at page 0x15 and the team's handle on it: entry 255, the last tag. -/
def dir7 (kind : Nat) : Dir := { id := 7, ten := 0, base := 0x11000, len := 9, kind, labels := 0x11040, values := 0x11080, nodes := 4, stack := 0, pages := [0x15000], built := true, sealedOnes := [4], parts := .empty }
def asking (kind : Nat) : State := { setTeams base fun x => { x with handles := [⟨255, 2 ^ 24 - 1, .bits 7⟩] } with dirs := [dir7 kind] }
def handle255 : Src := .litWord 0xFFFFFFFF
theorem names_dir7 (kind : Nat) : Names (asking kind) 0xFFFFFFFF (dir7 kind) := ⟨255, 2 ^ 24 - 1, rfl, rfl⟩
theorem test_wit_HandleStatus :
    (let f : Fields := ⟨0, 63, handle255, .reg 0, .reg 0, 0⟩
     let s : State := { asking 2 with throttled := [Config.lineBank (((dir7 2).loc (64 * 0)).a / 64)] }
     Ok .ixstat f s ∧ s.handle? (s.scalarSrc f.a).toNat = some ⟨255, 2 ^ 24 - 1, .bits (dir7 2).id⟩ ∧ s.dirs.find? (fun x => x.id == 7) = some (dir7 2) ∧
       (dir7 2).kind < 4 ∧ ∃ b ∈ s.throttled, ∃ k, k < ((dir7 2).len + 511) / 512 ∧ Config.lineBank (((dir7 2).loc (64 * k)).a / 64) = b) ∧
    (asking 1).throttled = [] := by
  refine ⟨⟨by decide, by decide, by decide, by decide, _, List.mem_singleton_self _, 0, by decide, rfl⟩, rfl⟩
theorem test_wit_Queries :
    (Issues (.exmin ⟨15, 254, handle255, .reg 252, .reg 250, 1⟩) ⟨15, 254, handle255, .reg 252, .reg 250, 1⟩ (asking 1) ∧
      queryOf (.exmin ⟨15, 254, handle255, .reg 252, .reg 250, 1⟩) = some (⟨15, 254, handle255, .reg 252, .reg 250, 1⟩, 0x289) ∧
      Names (asking 1) 0xFFFFFFFF (dir7 1) ∧ (asking 1).effLanes 15 = [] ∧ (asking 1).effLanes 0 ≠ []) ∧
    (∀ j g id, base.handle? 0 ≠ some ⟨j, g, .bits id⟩) ∧
    (let f : Fields := ⟨0, 254, handle255, .litWord (pad 4095), .lit 1, 0⟩
     Ok .tkmatch f (asking 2) ∧ Names (asking 2) 0xFFFFFFFF (dir7 2) ∧ path (pad 4095) = 3 ∧ ((asking 2).src32 f.c 0).toNat = 1 ∧
       Ok .tkmatch f (asking 1) ∧ (dir7 1).kind ≠ 2) ∧
    (let f : Fields := ⟨0, 255, .litWord (pad 0), .litWord 4096, .reg 0, 0⟩
     Ok .utfcut f base ∧ path (base.src64 f.a 0 + .ofNat 64 (4096 - min 3 4096)) = 3) ∧
    good (base.span base.team (pad 4093).toNat 3 1 .read) = true ∧ good ((asking 2).span base.team (pad 4095).toNat 1 1 .read) = true :=
  ⟨⟨by decide, rfl, names_dir7 1, by decide, by decide⟩, fun _ _ _ h => (by cases h), ⟨by decide, names_dir7 2, by decide⟩, by decide, by decide, by decide⟩

/-- Queries in flight on the string 101100100 of `dir7`, and one of a buffer. -/
def qlane (x y : Nat) (src : List Loc) (res : Option (Nat × Nat)) : QLane := { lane := 127, x, y, src, res }
def query1 (op dir : Nat) (l : QLane) : Query := { id := 5, grp := 0, sp := 0, pc := 0, op, wide := true, dir, dst := 0, lanes := [l], cut := false, ctl := false, region := false }
def inFlight1 (kind : Nat) (q : Query) : State := { asking kind with queries := [q] }
/-- TKMATCH's walk at the root with one byte, and at a child's position. -/
def walkAt (c : Option Nat) : QLane := { qlane 0 1 [] none with walk := some ⟨0, 0, c, 0xFFFFFFFF, 0, 1, [0x61]⟩ }
/-- A lane may ask now, as R115 and R125 have it. -/
def Asks (kind op : Nat) (dir : Nat) (x : QLane) : Prop :=
  let q := query1 op dir x
  let s := inFlight1 kind q
  s.queries.find? (fun y => y.id == q.id) = some q ∧ q.lanes[0]? = some x ∧ x.res = none ∧ s.mayAsk q x = true ∧ s.remote = []
theorem test_wit_QueryAnswers :
    (Asks 0 0x282 7 (qlane 9 0 [] none) ∧ (inFlight1 0 (query1 0x282 7 (qlane 9 0 [] none))).dirs.find? (fun y => y.id == 7) = some (dir7 0)) ∧
    (Asks 0 0x28B 0 (qlane 0 1 [padAt 0] none) ∧ Readable (inFlight1 0 (query1 0x28B 0 (qlane 0 1 [padAt 0] none))) [padAt 0]) ∧
    (Asks 2 0x28A 7 (qlane 0 1 [padAt 4095] none) ∧ Readable (inFlight1 2 (query1 0x28A 7 (qlane 0 1 [padAt 4095] none))) [padAt 4095]) ∧
    (Asks 2 0x28A 7 (walkAt none) ∧ (inFlight1 2 (query1 0x28A 7 (walkAt none))).tkReads (dir7 2) ⟨0, 0, none, 0xFFFFFFFF, 0, 1, [0x61]⟩ = .ok [] ∧
      Readable (inFlight1 2 (query1 0x28A 7 (walkAt none))) []) ∧
    (∀ (b : List Bool) n label, Walked b n label (([] : List Byte).take 0) []) ∧
    ((qlane 0 1 [⟨.flash, 2 ^ 21⟩] none).walk = none ∧ 1 ∉ (asking 2).staged) := by
  unfold Asks Readable
  refine ⟨by decide, by decide, by decide, ⟨by decide, rfl, nofun⟩, fun b n label => ⟨Nat.le_refl 0, fun j h => (Nat.not_lt_zero j h).elim, fun h => (Nat.not_lt_zero 0 h).elim⟩, by decide⟩
/-- The walk at the second child, whose label lies on a page that is not there, and on another tenant's. -/
def labelled (e : Nat) : State :=
  { inFlight1 2 (query1 0x28A 7 (walkAt (some 1))) with mem := Memory.wrN (Memory.wrN base.mem 0x13088 8 e) 0x15000 1 3 }
theorem test_wit_QueryAnswers_pages : (labelled 0).queries.find? (fun y => y.id == 5) = some (query1 0x28A 7 (walkAt (some 1))) ∧
    (query1 0x28A 7 (walkAt (some 1))).lanes[0]? = some (walkAt (some 1)) ∧ (walkAt (some 1)).res = none ∧
    (labelled 0).dirs.find? (fun y => y.id == 7) = some (dir7 2) ∧
    (∃ t p m e, (labelled 0).tkReads (dir7 2) ⟨0, 0, some 1, 0xFFFFFFFF, 0, 1, [0x61]⟩ = .wait t p m e) ∧
    (∃ e, (labelled (codeEntry 0x15 + 2 ^ 55)).tkReads (dir7 2) ⟨0, 0, some 1, 0xFFFFFFFF, 0, 1, [0x61]⟩ = .flt e) :=
  ⟨by decide, rfl, rfl, by decide, waits_of (by decide +kernel), fails_of (by decide +kernel)⟩
theorem test_wit_AnswersReturn :
    let q := query1 0x289 7 (qlane 0 0 [] (some (2 ^ 64 - 1, 0)))
    let s := inFlight1 1 q
    s.queries.find? (fun y => y.id == q.id) = some q ∧ (∀ x ∈ q.lanes, x.res ≠ none ∧ x.lane < 128) ∧ q.grp < s.groups.length ∧
      (q.lanes.map fun x => x.lane).Nodup ∧ 4096 * 0 < (dir7 1).len := by decide

/-! Flash: region 1023 of two units in stack 3, at the end of its addresses, and an install in flight. -/

def region1 : Region := { n := 1023, ten := 0, stack := 3, base := 2 ^ 42 - 2 * 2 ^ 21, units := [8, 9], budget := 2, consumed := 0, installs := 0, installing := false, retired := 0, lastCode := 0 }
def install1 : Install := { id := 6, grp := 0, team := 1, batch := 1, ten := 0, region := 1023, src := 2 ^ 47, record := ram 0xFF0, recordAt := 0x10FF0, issuedAt := 0, code := none, started := true, committed := false, news := [], bad := 0, tries := 0, data := [], foot := [] }
def flashed (r : Region) (x : Install) : State := { base with regions := [r], installs := [x] }
theorem test_wit_Installs_issue :
    (let f : Fields := ⟨0, 0, .lit 0, .litWord 1023, .litWord 0x10FF0, 0⟩
     let s (r : Region) : State := { base with regions := [r] }
     Ok .winstall f (s region1) ∧ path 0x10FF0 ∉ [3, 4, 5, 15] ∧ place ((s region1).access (s region1).team 0x10FF0 16 16 .engWrite) = some (ram 0xFF0) ∧
       RegionTest (s region1) 1023 none ∧ RegionTest (s { region1 with installing := true }) 1023 (some 5) ∧ RegionTest (s { region1 with budget := 1 }) 1023 (some 3) ∧
       RegionTest base 1023 (some 6)) ∧
    (Ok .winstall ⟨0, 0, .lit 0, .lit 0, .litWord 0xF000000000000000, 0⟩ base ∧ path 0xF000000000000000 ∈ [3, 4, 5, 15]) ∧
    (let f : Fields := ⟨0, 63, .litWord 1023, .lit (.ofNat 8 1), .reg 0, 0⟩
     Ok .wstat f base ∧ Ok .wstat f (flashed region1 install1) ∧ (flashed region1 install1).region? 1023 = some region1) := by
  refine ⟨⟨by decide, by decide, by decide +kernel, ⟨fun h => absurd rfl (h region1 rfl), fun r h _ => ?_⟩, ⟨fun h => absurd rfl (h _ rfl), fun r h _ => ?_⟩,
    ⟨fun h => absurd rfl (h _ rfl), fun r h _ => ?_⟩, ⟨fun _ => rfl, fun r h => ?_⟩⟩, by decide, by decide⟩
  all_goals cases h
  all_goals decide
theorem test_wit_Installs_units :
    (let x := { install1 with started := false }
     let s := flashed { region1 with installing := true } x
     s.installs.find? (fun y => y.id == x.id) = some x ∧ x.started = false ∧ x.code = none ∧ s.busyBefore x.grp x.id = false ∧
       s.footprintBlocked x.team x.id x.foot = false ∧ s.behindGuard x.grp x.id = false) ∧
    (let s := flashed { region1 with installing := true } install1
     s.installs.find? (fun y => y.id == install1.id) = some install1 ∧ s.region? install1.region = some { region1 with installing := true } ∧
       install1.started = true ∧ install1.code = none ∧ install1.news.length < region1.units.length ∧ install1.tries < 3 ∧
       3 ≤ { install1 with tries := 3 }.tries) ∧
    (let x := { install1 with news := [8, 9] }
     let s := flashed { region1 with installing := true } x
     s.installs.find? (fun y => y.id == x.id) = some x ∧ s.region? x.region = some { region1 with installing := true } ∧ x.news.length = region1.units.length ∧
       2700 < Map.get 0 ({ s with wear := [(9, 2701)] } : State).wear 9 ∧ ∀ u ∈ x.news, Map.get 0 s.wear u = 0) ∧
    (let x := { install1 with code := some 4, started := true }
     let s := flashed { region1 with installing := true } x
     s.installs.find? (fun y => y.id == x.id) = some x ∧ s.footprintBlocked x.team x.id x.foot = false ∧ s.behindGuard x.grp x.id = false ∧
       x.record.sp = .mem false false) := by
  repeat' apply And.intro
  all_goals decide

/-! The source of an install: 1 GiB at generic 2³⁰, frame 2¹⁸ of DRAM, or of flash. -/

def giantOf (fl : Nat) : Nat := 2 ^ 63 + 4 * 2 ^ 60 + 2 ^ 18 * 2 ^ 12 + fl
theorem giant_walk (s : State) (fl a : Nat) (hf : fl = 0 ∨ fl = 32) (h : a / 2 ^ 30 = 1) (hs : s.tenantOf? 0 = base.tenantOf? 0)
    (h1 : s.rdPte 0x10000 0 = ptrEntry 0x11) (h2 : s.rdPte 0x11000 1 = giantOf fl) : s.walk 0 a = .leaf (giantOf fl) := by
  have hr : (s.tenantOf? 0).map (·.root) = some 0x10000 := by rw [hs]; decide
  obtain ⟨t, ht, hr⟩ := Option.map_eq_some_iff.mp hr
  simp only [State.walk, ht, hr]
  rw [State.walkFrom]
  simp only [show a / 2 ^ (48 - 9 * (4 - 3)) % 512 = 0 by omega, h1]
  rw [if_neg (by decide), if_pos (by decide), if_pos (by decide), show 4096 * pteFrame (ptrEntry 0x11) = 0x11000 by decide, State.walkFrom]
  simp only [show a / 2 ^ (48 - 9 * (4 - 2)) % 512 = 1 by omega, h2]
  rcases hf with rfl | rfl
  all_goals
    rw [if_neg (by decide), if_neg (by decide), if_neg]
    rw [show s.replicasOk 0x11000 1 (giantOf _) = true from by rw [State.replicasOk, show (pteSize (giantOf _) % 2 == 0) = true by decide]; rfl]
    decide
def unitLines (fl : Nat) : List Loc := (List.range (Machine.unitBytes / 64)).map fun k => leafLoc (giantOf fl) (2 ^ 30 % 2 ^ 60 + 64 * k)
theorem giant_unit (s : State) (fl : Nat) (hf : fl = 0 ∨ fl = 32) (hs : s.tenantOf? 0 = base.tenantOf? 0) (h1 : s.rdPte 0x10000 0 = ptrEntry 0x11)
    (h2 : s.rdPte 0x11000 1 = giantOf fl) : s.unitSource 0 (2 ^ 30) = .ok (unitLines fl) :=
  unitSource_ok s 0 (2 ^ 30) _ (by decide) (by decide) (by decide) fun k hk => by
    rw [State.translate, giant_walk s fl _ hf (by unfold Machine.unitBytes at hk; omega) hs h1 h2]
    rcases hf with rfl | rfl <;> rfl
def install2 : Install := { install1 with src := 2 ^ 30 }
def burningAt (fl : Nat) (x : Install) (l : List Nat) : State :=
  { base with mem := Memory.wrN base.mem 0x11008 8 (giantOf fl), regions := [{ region1 with installing := true }], installs := [x], spares := [(3, l)] }
def spared (x : Install) (l : List Nat) : State := burningAt 0 x l
theorem burning_ptes (fl : Nat) (hf : fl = 0 ∨ fl = 32) :
    (burningAt fl install2 []).rdPte 0x10000 0 = ptrEntry 0x11 ∧ (burningAt fl install2 []).rdPte 0x11000 1 = giantOf fl := by
  rcases hf with rfl | rfl <;> decide +kernel
theorem test_wit_Installs_source (x : Install) (l : List Nat) : (spared x l).unitSource 0 (2 ^ 30) = .ok (unitLines 0) ∧
    (unitLines 0).length * 64 = unit ∧ ∀ p ∈ unitLines 0, Staged (spared x l) p := by
  refine ⟨giant_unit _ 0 (.inl rfl) rfl (burning_ptes 0 (.inl rfl)).1 (burning_ptes 0 (.inl rfl)).2, by rw [unitLines, List.length_map, List.length_range]; decide, fun p hp hq => ?_⟩
  obtain ⟨k, -, rfl⟩ := List.mem_map.mp hp
  exact absurd hq (by simp only [leafLoc]; rw [if_neg (by decide)]; nofun)
/-- The source lies in flash; its first granule, 512, is asked for. -/
def burnsFlash : State := { burningAt 32 install2 [7] with filling := [512] }
theorem first_line : leafLoc (giantOf 32) (2 ^ 30 % 2 ^ 60 + 64 * 0) ∈ unitLines 32 := List.mem_map.mpr ⟨0, List.mem_range.mpr (by decide), rfl⟩
theorem test_wit_Installs_unstaged : burnsFlash.unitSource 0 (2 ^ 30) = .ok (unitLines 32) ∧ ∃ l ∈ unitLines 32, ¬Staged burnsFlash l :=
  ⟨giant_unit _ 32 (.inr rfl) rfl (burning_ptes 32 (.inr rfl)).1 (burning_ptes 32 (.inr rfl)).2, _, first_line, by decide⟩
theorem test_wit_Storage_install : burnsFlash.installs = [install2] ∧ burnsFlash.region? install2.region = some { region1 with installing := true } ∧
    ∃ l ∈ burnsFlash.unitPlaces install2, l.sp = .flash ∧ l.a / unit = 512 := by
  refine ⟨rfl, rfl, _, ?_, (by decide : (leafLoc (giantOf 32) (2 ^ 30 % 2 ^ 60 + 64 * 0)).sp = .flash), by decide⟩
  have h := test_wit_Installs_unstaged.1
  have e : burnsFlash.unitPlaces install2 = unitLines 32 := by
    rw [State.unitPlaces, show install2.src + install2.news.length * Machine.unitBytes = 2 ^ 30 by decide, show install2.ten = 0 from rfl, h]
    rfl
  rw [e]; exact first_line
theorem test_wit_Installs_spares : (let s := spared install2 [7, 8]
    s.installs.find? (fun y => y.id == install2.id) = some install2 ∧ s.region? install2.region = some { region1 with installing := true } ∧
      install2.src + install2.news.length * Machine.unitBytes = 2 ^ 30 ∧ install2.ten = 0 ∧ Map.get [] s.spares region1.stack = [7, 8] ∧ 7 ∉ [8]) ∧
    Map.get [] (spared install2 []).spares region1.stack = [] := by decide +kernel
theorem test_wit_Installs_fault : (spared { install1 with src := 1 } []).unitSource 0 1 = .flt { code := 7 } := by
  rw [State.unitSource, if_pos (by decide)]
theorem test_wit_Installs_wait : ∃ t p m f, (spared install1 []).unitSource install1.ten (install1.src + install1.news.length * Machine.unitBytes) = .wait t p m f :=
  ⟨_, _, _, _, unitSource_wait _ _ _ (by decide) (by decide) (by decide) rfl⟩

/-- A state whose port 0 may write controls. -/
def ruled : State := { base with ctlsem := 1 }
theorem test_wit_Controls : Controls ruled 0 ∧ Reaches base 1 := by decide

/-- A load lane and a query lane that wait on granule 3, and a state that fills it. -/
def flashLane (res : Option Nat) : PLane := { lane := 31, loc := ⟨.flash, 4 * Machine.unitBytes - 8⟩, data := 0, cmp := 0, res }
def flashPend : Pend := { id := 4, grp := 0, sp := 0, pc := 8, acc := .load false, n := 8, lanes := [flashLane none], dst := .sca 63, acq := false, rel := false, scope := 0, region := false }
/-- In a state of one group nobody waits for a granule, but perhaps split 0. -/
theorem fetch_of (s : State) (g : Nat) (h : s.groups.length = 1) (h1 : s.granuleWait (0, 1) g = false) (p : Nat × Nat) (hp : p ≠ (0, 0)) :
    s.granuleWait p g = false := by
  obtain ⟨i, k⟩ := p
  by_cases hi : i = 0
  · subst hi
    have hk : k ≠ 0 := fun h => hp (by rw [h])
    simpa [State.granuleWait, State.fetchWaits, State.spAt, Group.sp, hk] using h1
  · have hg : s.grpAt i = .empty := by rw [State.grpAt, List.getD_eq_getElem?_getD, List.getElem?_eq_none (by omega)]; rfl
    simp [State.granuleWait, State.fetchWaits, State.spAt, hg, Group.sp, Group.empty, Split.empty]
theorem fetch_none (s : State) (g : Nat) (h : s.groups.length = 1) (h0 : s.granuleWait (0, 0) g = false) (h1 : s.granuleWait (0, 1) g = false)
    (i k : Nat) : s.granuleWait (i, k) g = false := by
  by_cases hp : (i, k) = (0, 0)
  · rw [hp]; exact h0
  · exact fetch_of s g h h1 _ hp
def filling3 : State := { base with filling := [3] }
theorem unread_of (s : State) (g : Nat) (h : s.pend = [] ∧ s.queries = [] ∧ s.jobs = []) (hg : s.groups.length = 1) (h0 : s.granuleWait (0, 0) g = false)
    (h1 : s.granuleWait (0, 1) g = false) (hp : s.peerWaits = []) (hf : s.flashReads = []) : Unread s g := by
  refine ⟨?_, ?_, fetch_none s g hg h0 h1, ?_, hp, hf⟩
  · rw [h.1]; exact fun _ h => (List.not_mem_nil h).elim
  · rw [h.2.1]; exact fun _ h => (List.not_mem_nil h).elim
  · rw [h.2.2]; exact fun _ h => (List.not_mem_nil h).elim
theorem noInstall_of (s : State) (g : Nat) (h : s.installs = []) : NoInstallIn s g := by
  intro i hi; rw [h] at hi; exact (List.not_mem_nil hi).elim
theorem noSubmission_of (s : State) (g : Nat) (h : s.ports = []) : NoSubmissionIn s g := by
  intro p hp hb
  have : s.port p = Port.empty := by rw [State.port, h]; rfl
  rw [this] at hb; cases hb
theorem unwanted3 (s : State) (h : s.pend = [] ∧ s.queries = [] ∧ s.jobs = []) (hg : s.groups.length = 1) (h0 : s.granuleWait (0, 0) 3 = false)
    (h1 : s.granuleWait (0, 1) 3 = false) (hp : s.peerWaits = []) (hf : s.flashReads = []) (hi : s.installs = []) (hs : s.ports = []) : Unwanted s 3 :=
  ⟨unread_of s 3 h hg h0 h1 hp hf, noInstall_of s 3 hi, noSubmission_of s 3 hs⟩
theorem test_wit_Storage_unread : 512 ∈ burnsFlash.filling ∧ Unread burnsFlash 512 ∧ NoSubmissionIn burnsFlash 512 :=
  ⟨by decide, unread_of _ _ ⟨rfl, rfl, rfl⟩ rfl (by decide +kernel) (by decide +kernel) rfl rfl, noSubmission_of _ _ rfl⟩
theorem test_wit_Storage_fill : (3 ∈ filling3.filling ∧ filling3.peerWaits = [] ∧ filling3.flashReads = [] ∧ Unwanted filling3 3) ∧
    (let s : State := { filling3 with pend := [flashPend] }
     Unwanted { s with pend := [] } 3 ∧ s.pend = [flashPend] ∧ ∃ x ∈ flashPend.lanes, x.res = none ∧ x.loc.sp = .flash ∧ x.loc.a / unit = 3) :=
  have h : Unwanted filling3 3 := unwanted3 _ ⟨rfl, rfl, rfl⟩ rfl (by decide +kernel) (by decide +kernel) rfl rfl rfl rfl
  ⟨⟨by decide, rfl, rfl, h⟩, h, rfl, _, List.mem_singleton_self _, by decide⟩
/-- Split 0 at an executable flash page, 0x11000, of granule 3, and inside an instruction that reads there. -/
def flashCode : State := { filling3 with mem := Memory.wrN base.mem 0x13088 8 (2 ^ 63 + 3 * 512 * 2 ^ 12 + 2 ^ 9 + 2 ^ 5) }
def fetching : State := flashCode.setSplit { flashCode.split with pc := 0x11000 }
def reading3 : State := filling3.setSplit { filling3.split with wait := .fill [3] }
theorem test_wit_Storage_fetch : ∀ s, s = fetching ∨ s = reading3 → 3 ∈ s.filling ∧ 0 < s.groups.length ∧ s.pend = [] ∧ s.queries = [] ∧ s.jobs = [] ∧
    s.peerWaits = [] ∧ s.flashReads = [] ∧ s.granuleWait (0, 0) 3 = true ∧ ∀ p, p.2 < 2 → p ≠ (0, 0) → s.granuleWait p 3 = false := by
  rintro s (rfl | rfl) <;>
  exact ⟨by decide, by decide, rfl, rfl, rfl, rfl, rfl, by decide +kernel, fun p _ => fetch_of _ 3 rfl (by decide +kernel) p⟩
/-- Port 1 reads the last bytes of granule 3 through a page of its tenant. -/
def portReads : State := { flashCode with flashReads := [(1, 0x11FF8, 8)] }
def flashTail : List Loc := (List.range 8).map fun k => ⟨.flash, 3 * unit + 4088 + k⟩
theorem test_wit_Storage_port : portReads.flashReads = [(1, 0x11FF8, 8)] ∧ portReads.peerWaits = [] ∧ portReads.boot.brstate = 5 ∧
    portReads.hostLocs (portReads.port 1).bar2ten ((portReads.port 1).bar2 0x11FF8) 8 .read = some flashTail ∧
    (∃ l ∈ flashTail, l.sp = .flash ∧ l.a / unit = 3) ∧ (∀ l ∈ flashTail, l.sp = .flash → l.a / unit = 3) ∧ Unwanted { portReads with flashReads := [] } 3 := by
  refine ⟨rfl, rfl, by decide, by decide +kernel, by decide, by decide, unwanted3 _ ⟨rfl, rfl, rfl⟩ rfl (by decide +kernel) (by decide +kernel) rfl rfl rfl rfl⟩
/-- Port 1's submission reads its descriptor in granule 3. -/
def portSubmits : State := { flashCode with ports := [(1, { Port.empty with up := true, subBusy := true, subaddr := 0x11000 })] }
theorem test_wit_Storage_submission : 3 ∈ portSubmits.filling ∧ Unread portSubmits 3 ∧ NoInstallIn portSubmits 3 ∧ (portSubmits.port 1).subBusy = true ∧
    (∃ l ∈ portSubmits.submissionMiss 1, l.sp = .flash ∧ l.a / unit = 3) ∧ (portSubmits.port (1 - 1)).subBusy = false :=
  ⟨by decide, unread_of _ _ ⟨rfl, rfl, rfl⟩ rfl (by decide +kernel) (by decide +kernel) rfl rfl, noInstall_of _ _ rfl, by decide, by decide +kernel, by decide⟩
theorem test_wit_Storage_nobody : NoInstallIn fetching 3 ∧ NoSubmissionIn fetching 3 ∧ NoInstallIn reading3 3 ∧ NoSubmissionIn reading3 3 :=
  ⟨noInstall_of _ _ rfl, noSubmission_of _ _ rfl, noInstall_of _ _ rfl, noSubmission_of _ _ rfl⟩
theorem test_wit_Storage_resize : 32 * 2 ^ 30 % unit = 0 ∧ 512 * 2 ^ 30 % unit = 0 ∧ (2 ^ 35 + 1) % unit ≠ 0 ∧
    (let s : State := { ruled with set := { ruled.set with stagingNew := some (2 ^ 35) } }
     s.set.stagingNew = some (2 ^ 35) ∧ ∀ r ∈ s.regions, r.installing = false) ∧
    (let s : State := { flashed { region1 with installing := true } install1 with set := { ruled.set with stagingNew := some (2 ^ 35) } }
     s.set.stagingNew = some (2 ^ 35) ∧ ∃ r ∈ s.regions, r.installing = true) := by decide
theorem test_wit_Storage_region : 1023 < 1024 ∧ 3 < 4 ∧ 2 ≠ 0 ∧ (2 ^ 42 - 2 * unit) % unit = 0 ∧ 2 ^ 40 * 3 ≤ 2 ^ 42 - 2 * unit ∧
    2 ^ 42 - 2 * unit + 2 * unit ≤ 2 ^ 40 * (3 + 1) ∧ 2 ^ 32 - 1 < 2 ^ 32 ∧ ruled.region? 1023 = none := by decide
theorem test_wit_Storage_lines : (let s : State := { base with fill := [(.dram, 7, 2)] }
    s.isPending .dram 8 = true ∧ s.isPending .dram 9 = false ∧ s.isPending .sram 7 = false) := by decide

theorem test_wit_ColumnEvents : (base.col 511).band ≤ 3 ∧ ({ base with columns := [(511, { Column.empty with band := 3 })] } : State).col 511 = { Column.empty with band := 3 } ∧
    Controls ruled 0 ∧ 511 < 512 ∧ 3 < 4 ∧ 1 ≤ 3 := by decide

/-! Pages: the code page at 0x10000, absent 0, and an indexed or a malformed leaf in its place. -/

def leafed (e : Nat) : State := { base with mem := Memory.wrN base.mem 0x13080 8 e }
def ixEntry : Nat := codeEntry 0x14 + 2 ^ 8 + 2 ^ 6 + 2 * 2 ^ 53
def tenant0 : Tenant := { n := 0, root := 0x10000, weight := 1, spent := [], tagCtr := 1, nextLaunch := 2, hostSeq := 0, imageArea := 0, cancelled := [], key := 0 }
theorem test_wit_PageEdits_walks : base.walk 0 0x10FFF = .leaf (codeEntry 0x14) ∧ base.walk 0 0xFFF = .absent ∧ (leafed (2 ^ 63 + 6 * 2 ^ 60)).walk 0 0x10000 = .malformed ∧
    (leafed ixEntry).walk 0 0x10FFF = .leaf ixEntry := by decide +kernel
theorem test_wit_PageEdits_edit : Commands base 1 ∧ base.tenantOf? 0 = some tenant0 ∧ base.tableAt 0x10FFF 4 4 0x10000 = some 0x13000 ∧
    base.tableAt 0x10FFF 4 1 0x10000 = some 0x10000 ∧
    (2 ^ 63 - 1) < 2 ^ 64 ∧ bitOf (2 ^ 63 - 1) 63 = false ∧ (2 ^ 64 - 1) / 2 ^ 60 % 8 = 7 ∧ codeEntry 0x14 / 2 ^ 60 % 8 % 2 = 0 ∧
    base.rdN ⟨.mem false false, 0x13000 + 8 * 16⟩ 8 = codeEntry 0x14 ∧ bitOf (codeEntry 0x14) 63 = true ∧ codeEntry 0x14 / 2 ^ 60 % 8 = 0 ∧
    leafOk (codeEntry 0x14) = true := by decide +kernel
/-- The indexed page holds the string of a directory; the edit takes the page away. -/
def shared : State := { leafed ixEntry with dirs := [{ dir7 0 with base := 0x10FC0 }] }
theorem test_wit_PageEdits_altered : Altered shared (after (.pageEdit ⟨0, 0⟩ 0x10FFF 4 0) shared) { dir7 0 with base := 0x10FC0 } ∧
    shared.tableAt 0x10FFF 4 4 0x10000 = some 0x13000 :=
  ⟨⟨0x10FC0, by decide, by decide, by decide +kernel⟩, by decide +kernel⟩
/-- An edit of page 16, whose old frame was 0x14; a store and a command under way to the last byte there. -/
def edit16 : Edit := ⟨0, 16, [(0, 0x14000, 0x15000)]⟩
def editing (ps : List Pend) (js : List Job) : State := { base with edits := [edit16], pend := ps, jobs := js }
def ramPend : Pend := { flashPend with lanes := [{ flashLane none with loc := ram 0xFFF }] }
def ramJob : Job := { job1 with els := [⟨[ram 0xFFF], 0, 8, .lit 0⟩] }
theorem test_wit_PageEdits_complete :
    (∀ ps js, (editing ps js).edits.find? (fun x => x.ten == 0 && x.page == 0x10FFF / 4096) = some edit16 ∧ (editing ps js).queries = [] ∧
      (editing ps js).installs = [] ∧ (editing ps js).lines = []) ∧
    (∃ p ∈ (editing [ramPend] []).pend, ∃ x ∈ p.lanes, x.res = none ∧ Old edit16 x.loc) ∧
    (∃ j ∈ (editing [] [ramJob]).jobs, j.stale = false ∧ ∃ l ∈ j.locs, Old edit16 l) ∧ ∀ e ∈ base.edits, ¬(e.ten = 0 ∧ e.page = 0x10FFF / 4096) := by
  unfold Old
  exact ⟨fun ps js => ⟨rfl, rfl, rfl, rfl⟩, by decide, by decide, by decide⟩

/-- A query reads its string in the frame an edit takes away. -/
def reading15 : State := { inFlight1 0 (query1 0x282 7 (qlane 9 0 [] none)) with edits := [⟨0, 16, [(0, 0x15000, 0x16000)]⟩] }
theorem test_wit_PageEdits_string : reading15.edits.find? (fun x => x.ten == 0 && x.page == 0x10FFF / 4096) = some ⟨0, 16, [(0, 0x15000, 0x16000)]⟩ ∧
    ∃ q ∈ reading15.queries, ∃ x ∈ q.lanes, x.res = none ∧ ¬Clear reading15 ⟨0, 16, [(0, 0x15000, 0x16000)]⟩ q x := by
  unfold Clear; decide +kernel
/-- The executing split waits for the host's answer about page 0. -/
def unanswered (deferred : Bool) : State :=
  { base.setSplit { base.split with wait := .answer 0 0 { code := 0x10 } deferred } with reports := [(0, 0)] }
theorem test_wit_PageEdits_answers : Commands base 0 ∧ (0, 0xFFF / 4096) ∉ base.reports ∧
    (∀ b, (0, 0xFFF / 4096) ∈ (unanswered b).reports ∧ (unanswered b).split.wait = .answer 0 0 { code := 0x10 } b ∧ (unanswered b).split.live = true ∧ Commands (unanswered b) 0 ∧ (unanswered b).peerWaits = [] ∧
      (unanswered b).dones = [] ∧ (unanswered b).joinWaits = [] ∧ (unanswered b).queries = [] ∧ (unanswered b).jobs = [] ∧ 0 < (unanswered b).groups.length ∧
      ((unanswered b).spAt (0, 1)).wait = .none ∧ ({ code := 0x10 } : Flt).code ≠ 0x30) := by decide
theorem test_wit_PageEdits_deliver (b : Bool) : ∀ p f d, ((unanswered b).spAt p).wait = .answer 0 0 f d → f.code ≠ 0x30 := by
  rintro ⟨g, k⟩ f d h
  by_cases hg : g = 0
  · subst hg
    by_cases hk : k = 0
    · subst hk
      obtain ⟨-, -, rfl, -⟩ := Wait.answer.injEq .. ▸ h
      decide
    · have : ((unanswered b).spAt (0, k)).wait = .none := by
        have : (k == 0) = false := by simpa using hk
        cases b <;> simp [State.spAt, State.grpAt, Group.sp, unanswered, hk] <;> rfl
      rw [this] at h; cases h
  · have : (unanswered b).groups.length = 1 := by cases b <;> decide
    have : (unanswered b).grpAt g = Group.empty := by
      simp only [State.grpAt, List.getD_eq_getElem?_getD]
      rw [List.getElem?_eq_none (by omega)]; rfl
    simp [State.spAt, this, Group.sp] at h
    split at h <;> cases h

theorem installWaits_of (s : State) (x : Install) {a n t p : Nat} {m : Bool} {f : Flt} (hn : x.news.length = n) (ha : x.src + n * Machine.unitBytes = a)
    (h : s.unitSource x.ten a = .wait t p m f) (hx : x.started = true) (hc : x.code = none) : s.installWaits x x.ten p = true := by
  simp only [State.installWaits, hn, ha, h, hx, hc]; simp
/-- A query's label, and the bytes of a command placed anew, lie on the page 0x11. -/
def lostJob : Job := { job1 with recipe := .fill 0x11000 1 0 0, kind := .fill, stale := true }
theorem test_wit_PageEdits_readers :
    (∃ m f, (labelled 0).queryNext (query1 0x28A 7 (walkAt (some 1))) (walkAt (some 1)) = .wait 0 0x11 m f) ∧ (walkAt (some 1)).res = none ∧
    lostJob.stale = true ∧ (working lostJob).jobReady lostJob = true ∧ ∃ m f, (working lostJob).replan lostJob = .wait 0 0x11 m f :=
  ⟨waits_at (by decide +kernel), rfl, rfl, by decide, waits_at (by decide +kernel)⟩
/-- A peer's read, and an install's source, wait on the page too. -/
def sourceless : Install := { install1 with src := 0 }
theorem test_wit_PageEdits_others :
    (let s : State := { unanswered false with peerWaits := [⟨255, 0, 0xFFF, .read [0], some 0⟩] }
     ∃ w ∈ s.peerWaits, w.ten = 0 ∧ w.page = some 0) ∧
    ({ unanswered false with installs := [sourceless] } : State).installWaits sourceless 0 0 = true :=
  ⟨⟨_, List.mem_singleton_self _, rfl, rfl⟩,
    installWaits_of _ sourceless (a := 0) (n := 0) rfl (by rw [Nat.zero_mul]; rfl) (unitSource_wait _ 0 0 (by decide) (by decide) (by decide) rfl) rfl rfl⟩

theorem test_wit_PagesMove_issue :
    (let f : Fields := ⟨0, 63, .litWord (2 ^ 48), .lit 0, .reg 0, 0⟩; Ok .pgmove f base ∧ (base.scalarSrc f.a).toNat / 2 ^ 48 ≠ 0) ∧
    (let f : Fields := ⟨0, 63, .litWord 0x10FFF, .litWord 1, .reg 0, 1⟩
     Ok .pgmove f base ∧ (base.scalarSrc f.a).toNat / 2 ^ 48 = 0 ∧ base.walk base.team.ten (base.scalarSrc f.a).toNat = .leaf (codeEntry 0x14) ∧
       codeEntry 0x14 / 2 ^ 55 % 32 = base.team.ten ∧ targetOf (base.scalarSrc f.b).toNat base.team.col = some (1, 1) ∧ base.hasRoom 1 1 1 = true ∧
       Movable (codeEntry 0x14) ∧ standsAt (codeEntry 0x14) ≠ (1, 1) ∧ ({ base with placed := [⟨0, 1, 0, 2 ^ 18⟩] } : State).hasRoom 1 1 1 = false) := by
  unfold Movable; decide +kernel
theorem test_wit_PagesMove_cases : targetOf 0x1FF 0 = some (1, 0x1FF) ∧ targetOf 0x20F 0 = some (2, 15) ∧ targetOf 0x210 0 = some (0, 0) ∧ targetOf 0x211 0 = none ∧
    targetOf 0x3FF 511 = some (1, 511) ∧ standsAt (codeEntry 0x14) = (0, 0) ∧ (codeEntry 0x14 / 2 ^ 60 % 8 ≤ 3 ∧ bitOf (codeEntry 0x14) 8 = false ∧
      bitOf (codeEntry 0x14) 7 = false ∧ bitOf (codeEntry 0x14) 5 = false) ∧ bitOf ixEntry 8 = true ∧
    (leafed (codeEntry 0x14 + 2 ^ 55)).walk 0 0x10000 = .leaf (codeEntry 0x14 + 2 ^ 55) ∧ (codeEntry 0x14 + 2 ^ 55) / 2 ^ 55 % 32 ≠ 0 := by decide +kernel
/-- The code page on its way to vault 511. -/
def moving (copying : Bool) : State := { base with migrations := [⟨0, 0x10000, 512 + 511, copying⟩] }
theorem test_wit_PagesMove_moves : (∀ b, (moving b).walk 0 0x10000 = .leaf (codeEntry 0x14) ∧ (moving b).walk 0 0x10FFF = .leaf (codeEntry 0x14)) ∧
    (moving false).migrations.find? (fun m => m.ten == 0 && m.va == 4096 * firstPage (codeEntry 0x14) 0x10FFF) = some ⟨0, 0x10000, 1023, false⟩ ∧
    base.migrations.find? (fun m => m.ten == 0 && m.va == 4096 * firstPage (codeEntry 0x14) 0x10FFF) = none ∧ (0, firstPage (codeEntry 0x14) 0x10FFF) ∉ base.pinned ∧
    (moving true).migrations.find? (fun m => m.ten == 0 && m.va == 0x10000 && m.copying) = some ⟨0, 0x10000, 1023, true⟩ ∧ targetOk 1023 = true ∧ (moving true).hasRoom 1 511 1 = true ∧
    codeEntry 0x14 < 2 ^ 64 ∧ 2 ^ 32 - 1 < 2 ^ 32 ∧ (moving true).tenantOf? 0 = some tenant0 ∧ (moving true).tableAt 0x10000 4 4 0x10000 = some 0x13000 ∧
    2 ^ 32 - 1 ≠ codeEntry 0x14 / 2 ^ 12 % 2 ^ 32 ∧ 0x13000 + 8 * (0x10000 / 2 ^ 12 % 512) + 8 ≤ 4096 * (2 ^ 32 - 1) ∧
    4096 * (0x12 + 1) ≤ 0x13000 + 8 * (0x10000 / 2 ^ 12 % 512) := by decide +kernel

/-! Requests and dispatch. -/

/-- Every split of the team waits at its yield check, for reasons `r`. -/
def yieldedFor (r : List Why) : State := setTeams (base.setSplit { base.split with wait := .yielded, resume := .none, named := none }) fun x => { x with requests := r }
def only1 (s : State) : Bool := s.teams.all fun y => y.uid != s.team.uid || y == s.team
theorem only_of {s : State} (h : s.team ∈ s.teams) (h' : only1 s = true) : Only s s.team :=
  ⟨h, fun y hy e => by have := List.all_eq_true.mp h' y hy; simp only [Bool.or_eq_true, bne_iff_ne, ne_eq, beq_iff_eq] at this; exact this.resolve_left (fun n => n e)⟩
theorem test_wit_Preemption_request : Only base base.team ∧ base.team.ended = false ∧ .command ∉ base.team.requests ∧ 0 < base.groups.length ∧
    (base.grpAt 0).team = base.team.uid ∧ (base.grpAt 1).team ≠ base.team.uid :=
  ⟨only_of (by decide) (by decide), by decide⟩
/-- Columns at the hottest band. -/
def hot (s : State) (from_ n : Nat) : State := { s with columns := (List.range n).map fun k => (from_ + k, { Column.empty with band := 3 }) }
/-- A reason that holds for each request, and states without one. -/
theorem test_wit_Preemption_reasons : Reason { base with biv := { base.biv with phase := 1 } } base.team .bivouac ∧ ¬Reason base base.team .bivouac ∧
    Reason { base with rjobs := [{ areaJob with progress := some ckpt1 }] } base.team .checkpoint ∧ ¬Reason { base with rjobs := [areaJob] } base.team .checkpoint ∧
    Reason (setLaunchOf base fun l => { l with cancelled := true }) base.team .cancel ∧ ¬Reason base base.team .cancel ∧
    (let s : State := { setTeams (hot base 0 64) fun x => { x with risen := true } with set := { base.set with floor := 861 } }
     Reason s s.team .migration ∧ Only s s.team ∧ s.team.ended = false ∧ .migration ∉ s.team.requests) ∧ ¬Reason base base.team .migration ∧ Reason base base.team .command ∧ Only base base.team ∧
    base.team.requests = [] := by
  unfold Reason
  refine ⟨rfl, by decide, ⟨_, rfl, by decide⟩, ?_, rfl, by decide, ⟨by decide +kernel, only_of (by decide) (by decide), by decide, by decide⟩, by decide +kernel, trivial, only_of (by decide) (by decide), rfl⟩
  rintro ⟨j, h, hj⟩; cases h; exact hj rfl
theorem test_wit_Preemption_save : ∀ r ∈ [[Why.cancel], [.checkpoint], [.bivouac], [.command]],
    Savable (yieldedFor r) (yieldedFor r).team ∧ (yieldedFor r).team.requests = r := by
  intro r hr
  refine ⟨⟨only_of ?_ ?_, ?_, ?_, ?_, ?_⟩, ?_⟩ <;> revert r <;> decide
/-- Another group's access to a register window of the team is on its way. -/
def landing (s : State) : State := { s with pend := [{ flashPend with grp := 1, lanes := [{ flashLane none with loc := ⟨.win, 0⟩ }] }] }
theorem test_wit_Preemption_windows : (yieldedFor [.command]).windowsQuiet 1 = true ∧ (landing (yieldedFor [.command])).windowsQuiet 1 = false ∧
    (landing (yieldedFor [.command])).teamStopped 1 = true ∧ (yieldedFor [.command]).team.uid = 1 := by decide +kernel
theorem test_wit_Preemption_image :
    (let s : State := { yieldedFor [.checkpoint] with rjobs := [{ areaJob with progress := some ckpt1 }] }
     .cancel ∉ s.team.requests ∧ .checkpoint ∈ s.team.requests ∧ s.rjob? s.team.ten (s.launchOf s.team.ten s.team.launch).job = some { areaJob with progress := some ckpt1 }) ∧
    (let s := yieldedFor [.command]
     .cancel ∉ s.team.requests ∧ .checkpoint ∉ s.team.requests ∧ .bivouac ∉ s.team.requests) := by decide

/-- A team to migrate, die 7 failed, and a tenant with an image area; one that a command sends to die 3; a command of another waits for bytes of the team. -/
theorem test_wit_Preemption_dies :
    (let s : State := { setTenants (yieldedFor [.migration]) fun x => { x with imageArea := 2 ^ 20 } with boot := { base.boot with fail := 128#29 } }
     s.team.dest = none ∧ (∃ d, d < 8 ∧ d ≠ s.team.col / 64 ∧ s.boot.fail.getLsbD d = false) ∧
       s.tenantOf? s.team.ten = some { tenant0 with imageArea := 2 ^ 20 } ∧ s.windowsQuiet 1 = true) ∧
    (let s := setTeams (yieldedFor [.command]) fun x => { x with dest := some 3 }
     s.team.dest = some 3 ∧ s.windowsQuiet 1 = true ∧ ∀ y, s.tenantOf? s.team.ten = some y → y.imageArea = 0) ∧
    (let j := copyJob ⟨.win, 0⟩ (padAt 0)
     j.locs.any ((yieldedFor [.checkpoint]).onTeam 1) = true) := by
  refine ⟨by decide, ⟨by decide, by decide, ?_⟩, by decide⟩
  intro y h; cases h; rfl
/-- A record of launch 1 queued on die 7; columns 448 to 510 are shut down, so that it takes 511 there. -/
def work1 : Work := .record (⟨0x10000, 0x8000, 0, 4, 0⟩ : TaskRec).toNat 1
def item1 (w : Work) (die passes : Nat) : Item := { id := 21, die, ten := 0, launch := 1, prio := 1, pushTime := 0, queuedAt := 0, aged := 0, passes, work := w }
def waiting (w : Work) : State := { hot base 448 63 with items := [item1 w 7 0] }
theorem test_wit_Dispatching_place : (waiting work1).placeOn (item1 work1 7 0) 7 = some 511 := by decide +kernel
theorem test_wit_Dispatching_none : (hot base 448 64).placeOn (item1 work1 7 0) 7 = none := by decide +kernel
theorem test_wit_Dispatching_record : let s := waiting work1
    s.biv.phase = 0 ∧ s.choice 7 tenant0.n = some (item1 work1 7 0, 511, []) ∧ s.tenantOf? tenant0.n = some tenant0 ∧ Map.get 0 tenant0.spent 7 < tenant0.weight ∧
      (item1 work1 7 0).work = .record (⟨0x10000, 0x8000, 0, 4, 0⟩ : TaskRec).toNat 1 ∧ 2 ≤ (s.freeSlots 511 2).length := by decide +kernel
/-- The base team's image, the team stopped. -/
def image1 : Image := { team := base.team, groups := base.groups, slotNos := [0], bankNos := [0], slots := [], accum := [], owners := [], scratch := [], jobs := [], ops := [], installs := [], records := [], size := 0 }
def parked : State := setTeams (waiting (.image image1)) fun x => { x with col := 512, stopped := true }
theorem test_wit_Dispatching_image : (let s := parked
    s.biv.phase = 0 ∧ s.choice 7 tenant0.n = some (item1 (.image image1) 7 0, 511, []) ∧ s.tenantOf? tenant0.n = some tenant0 ∧ Map.get 0 tenant0.spent 7 < tenant0.weight ∧
      (item1 (.image image1) 7 0).work = .image image1 ∧ (s.teamOf image1.team.uid).uid = image1.team.uid) ∧ Only parked (parked.teamOf image1.team.uid) :=
  ⟨by decide +kernel, only_of (s := parked) (by decide) (by decide)⟩
/-- The die's round is over: the one tenant that may dispatch has had its turn. -/
def spentRound : State := setTenants (waiting work1) fun x => { x with spent := [(7, 1)] }
theorem test_wit_Dispatching_round : spentRound.biv.phase = 0 ∧ spentRound.choice 7 0 = some (item1 work1 7 0, 511, []) ∧
    spentRound.tenantOf? 0 = some { tenant0 with spent := [(7, 1)] } ∧ ∀ y ∈ spentRound.tenants, y.weight ≤ Map.get 0 y.spent 7 := by decide +kernel

/-! Launch records: nine records on a die with no room for them, joins on the record at 0x10FE0, a submission. -/

def wide1 : Work := .record (⟨0x10000, 0, 0, 15 * 4 + 31 * 64, 0⟩ : TaskRec).toNat 0
def crowded (p : Nat) : State := { setLaunchOf base fun l => { l with width := 128 } with items := List.replicate 9 (item1 wide1 0 p), set := { base.set with depth := 8 } }
theorem test_wit_LaunchRecords_migration : ∀ p ∈ [0, 64], (crowded p).sequence 0 0 = item1 wide1 0 p :: List.replicate 8 (item1 wide1 0 p) ∧
    (crowded p).advertises 7 = true ∧ (crowded p).noRoom (item1 wide1 0 p) 0 = true ∧ (crowded p).set.depth < (List.replicate 8 (item1 wide1 0 p)).length + 1 := by decide +kernel
theorem test_wit_LaunchRecords_migrant :
    (((crowded 0).sequence 0 0).filter fun i => 64 ≤ i.passes) = [] ∧ ((crowded 0).sequence 0 0).getLast? = some (item1 wide1 0 0) ∧
    (((crowded 64).sequence 0 0).filter fun i => 64 ≤ i.passes).getLast? = some (item1 wide1 0 64) ∧ (base.sequence 0 0).length ≤ base.set.depth := by decide +kernel
/-- Its launch spans modules, and peer 255 may take its work. -/
def spanning (p : Nat) : State := { setLaunchOf (crowded p) fun l => { l with span := true } with routes := [255], pairs := [(0, 255, 31)] }
theorem test_wit_LaunchRecords_span : ∀ p ∈ [0, 64], (spanning p).sequence 0 0 = item1 wide1 0 p :: List.replicate 8 (item1 wide1 0 p) ∧
    (spanning p).noRoom (item1 wide1 0 p) 0 = true ∧ (spanning p).set.depth < (List.replicate 8 (item1 wide1 0 p)).length + 1 ∧
    ((spanning p).launchOf 0 1).span = true ∧ ((spanning p).launchOf 0 1).guest = none ∧ 255 ≠ (spanning p).set.devId ∧
    ((crowded p).launchOf 0 1).span = false := by decide +kernel
theorem test_wit_LaunchRecords_initial :
    (let s := setLaunchOf base fun l => { l with next := 0 }
     let l : Launch := { base.launch with next := 0 }
     s.launches[0]? = some l ∧ s.launchOf l.ten l.id = l ∧ l.cancelled = false ∧ l.next < l.nteams ∧ s.queueLen l.ten l.id + 64 < l.rqcap ∧
       1 ≤ l.groups ∧ l.groups ≤ 16 ∧ 8 ≤ l.vregs ∧ l.vregs ≤ 256 ∧ l.prio < 4) ∧
    (base.launches[0]? = some base.launch ∧ base.launch.nteams ≤ base.launch.next) ∧
    (let s := setLaunchOf base fun l => { l with rqcap := 64 }
     s.launches[0]? = some s.launch ∧ s.launch.rqcap ≤ s.queueLen 0 1 + 64) ∧
    (let s := setLaunchOf base fun l => { l with cancelled := true }
     s.launches[0]? = some s.launch ∧ s.launch.cancelled = true) := by decide

def join1 : JoinWait := { ten := 0, launch := 1, team := 0, addr := 0x10FE0, pushing := false, page := none, tjoin := false, who := none, uid := 5, counts := true, die := 0 }
def joining (n : Nat) : State := { poke base 0xFF0 4 n with joinWaits := [join1] }
theorem joins_now (s : State) (j : JoinWait) (h : s.joinWaits = [j]) (hj : j.page = none ∧ j.pushing = false ∧ j.tjoin = false ∧ j.who = none)
    (hg : ∀ g, g < s.groups.length → (s.grpAt g).team = j.uid → s.inFlight g = false) : JoinsNow s 0 j :=
  ⟨by rw [h]; rfl, hj.1, hj.2.1, hj.2.2.1, hj.2.2.2, hg⟩
theorem test_wit_LaunchRecords_join : ∀ n ∈ [0, 1, 2], Joins (joining n) 0 join1 (ram 0xFF0) := fun n hn =>
  ⟨joins_now _ _ rfl ⟨rfl, rfl, rfl, rfl⟩ (by revert n; decide +kernel), ⟨by decide, by decide, by decide, by decide⟩, by
    simp only [List.mem_cons, List.not_mem_nil, or_false] at hn; rcases hn with rfl | rfl | rfl <;> rfl⟩
/-- Joins whose PARENT is 0, past the addresses, misaligned, or on another tenant's page; and one whose team has a store under way. -/
def joinAt (a : Word) : State := { base with joinWaits := [{ join1 with addr := a }] }
def otherTenant : State := { leafed (codeEntry 0x14 + 2 ^ 55) with joinWaits := [join1] }
theorem test_wit_LaunchRecords_failing : (∀ a, JoinsNow (joinAt a) 0 { join1 with addr := a }) ∧
    (let j : JoinWait := { join1 with addr := 0x1000000000010FE8 }
     j.addr ≠ 0 ∧ path j.addr ≤ 1 ∧ parentAt j < 2 ^ 48 ∧ parentAt j % 32 ≠ 0) ∧
    (path 0x5000000000000000 ∈ [2, 3, 4, 5, 15] ∧ path 0xF000000000000000 ∈ [2, 3, 4, 5, 15] ∧ 6 ≤ path 0x6000000000000000 ∧ path 0xE000000000000000 < 15 ∧
      2 ^ 48 ≤ parentAt { join1 with addr := 0x1001000000000000 }) ∧
    (JoinsNow otherTenant 0 join1 ∧ ∃ f, otherTenant.devAccess 0 (0x10FE0 + 16) 4 = .flt f) ∧
    (let s : State := { stored with joinWaits := [{ join1 with uid := 1 }] }
     s.joinWaits[0]? = some { join1 with uid := 1 } ∧ join1.tjoin = false ∧ 0 < s.groups.length ∧ (s.grpAt 0).team = 1 ∧ s.inFlight 0 = true) :=
  ⟨fun _ => joins_now _ _ rfl ⟨rfl, rfl, rfl, rfl⟩ (fun _ _ _ => rfl), by decide, by decide,
    ⟨joins_now _ _ rfl ⟨rfl, rfl, rfl, rfl⟩ (fun _ _ _ => rfl), fails_of (by decide +kernel)⟩, by decide⟩
theorem test_wit_LaunchRecords_counts : (joining 0).rdN (ram 0xFF0) 4 = 0 ∧ (joining 1).rdN (ram 0xFF0) 4 = 1 ∧ (joining 2).rdN (ram 0xFF0) 4 = 2 ∧
    ((joining 1).launchOf 0 1).cancelled = false ∧ (joining 1).queueLen 0 1 < ((joining 1).launchOf 0 1).rqcap ∧
    (let s := setLaunchOf (joining 1) fun l => { l with cancelled := true }
     s.rdN (ram 0xFF0) 4 = 1 ∧ (s.launchOf 0 1).cancelled = true) := by decide +kernel
theorem test_wit_LaunchRecords_finish :
    (∃ y ∈ base.launches, y.ten = join1.ten ∧ y.id = join1.launch) ∧ base.launchOf join1.ten join1.launch = base.launch ∧ base.launch.guest = none ∧ base.arrivals = [] ∧ { join1 with counts := false }.counts = false ∧
    (let l' : Launch := { base.launch with completed := base.launch.completed + 1 }
     (base.setLaunch l').outstanding l' ≠ 0) ∧
    (let s := setTeams base fun x => { x with ended := true }
     let l' : Launch := { s.launch with completed := s.launch.completed + 1 }
     (s.launchOf 0 1).complete = false ∧ (s.setLaunch l').outstanding l' = 0 ∧ (s.launchOf 0 1).done = 0) ∧
    doneAddr 0x4000000000010FF8 = some 0x10FF8 ∧ place (base.devAccess 0 0x10FF8 8) = some (ram 0xFF8) ∧
    (setLaunchOf base fun l => { l with complete := true }).launch.complete = true := by decide +kernel
theorem test_wit_LaunchRecords_subgo : Reaches base 1 ∧ base.boot.brstate = 5 ∧
    (let s : State := { base with boot := { base.boot with brstate := 4 } }; Reaches s 1 ∧ s.boot.brstate ≠ 5) := by decide
def submitting (a : Word) : State := { described with ports := [(1, { described.port 1 with subBusy := true, subaddr := a })] }
theorem test_wit_LaunchRecords_accept : (let s := submitting 0x10F80
    (s.port 1).subBusy = true ∧ (s.port 1).subaddr.toNat / 2 ^ 60 ≤ 1 ∧ (s.port 1).subaddr.toNat % 2 ^ 60 / 2 ^ 48 = 0 ∧ (s.port 1).subaddr.toNat % 64 = 0 ∧
      (s.port 1).subten.toNat < 32 ∧ s.tenantOf? 0 = some tenant0 ∧ s.launches.length + 2 ≤ 2 ^ 32 ∧ s.items = []) ∧ ((submitting 1).port 1).subBusy = true ∧ ((submitting 1).port 1).subaddr.toNat % 64 ≠ 0 := by decide +kernel
theorem test_wit_LaunchRecords_descriptor : (submitting 0x10F80).virtRead? 0 0x10F80 128 = some (desc described) := by decide +kernel
theorem test_wit_LaunchRecords_bank : ((submitting 0x10F80).readBank 0 (dfield (desc described) 8 8)).isSome = true := by
  rw [show dfield (desc described) 8 8 = 0x10000 by decide +kernel, State.readBank, Option.isSome_map]
  exact page_walk _ (by decide +kernel) _ _ (by decide) (by decide)

/-! Fault reports: a record of the base group, a host queue at 0x10F00. -/

def frec1 : FRec := { ten := 0, launch := 1, team := 0, grp := some 0, gslot := 0, gid := 0, col := 0, flags := 0, pc := 0x10000, gen := 0, flt := { code := 1 } }
def posting (q : Word) : State := { setLaunchOf base fun l => { l with faultq := q } with posts := [frec1] }
def headed (head tail : Nat) : State := poke (poke (poke (posting 0x10F00) 0xF00 8 head) 0xF08 8 tail) 0xF10 4 16
theorem test_wit_FaultReports_post :
    (∀ q, (posting q).posts[0]? = some frec1 ∧ ∀ x ∈ (posting q).posts.take 0, ¬(x.ten = frec1.ten ∧ x.launch = frec1.launch)) ∧
    ((posting 0).launchOf 0 1).faultq = 0 ∧ (posting 0).tenantOf? 0 = some tenant0 ∧
    (posting 1).queueHeader 0 1 = none ∧ ((posting 1).launchOf 0 1).faultq = 1 ∧
    (headed 3 19).queueHeader 0 0x10F00 = some (3, 19, 16) ∧ 16 ≤ (19 + 2 ^ 64 - 3) % 2 ^ 64 ∧
    (headed (2 ^ 64 - 1) 14).queueHeader 0 0x10F00 = some (2 ^ 64 - 1, 14, 16) ∧ (14 + 2 ^ 64 - (2 ^ 64 - 1)) % 2 ^ 64 < 16 := by
  refine ⟨fun q => ⟨rfl, fun x h => by cases h⟩, ?_⟩
  decide +kernel

/-- The base group stopped with record 5, its fault code `c`; the group-control block names it. -/
def halted (c : Nat) (act pc0 : Word) : State :=
  { base.setGrp { base.grp with stopped := true, seq := some 5, s0 := { base.split with fault := some (0x10000, c) } } with gctl := { target := 2 ^ 32, gsel := 0, seq := 5, act, pc0, pc1 := 0, status := 0, port := 0 } }
theorem test_wit_FaultReports_control :
    Commands base base.gctl.port ∧
    (let s : State := { base with boot := { base.boot with brstate := 4 }, gctl := { base.gctl with port := 1 } }; Reaches s 1 ∧ s.gctl.port = 1 ∧ s.boot.brstate ≠ 5) ∧
    ({ base with gctl := { base.gctl with target := 2 ^ 33 } } : State).gctlGroup? = none ∧
    (let s := halted 1 2 0
     s.gctlGroup? = some 0 ∧ (s.grpAt 0).stopped = true ∧ (s.grpAt 0).seq = some s.gctl.seq.toNat ∧ PcOk s.gctl.pc0 ∧ 0 < s.groups.length) ∧
    ((halted 1 2 1).gctl.act.toNat % 4 = 2 ∧ ((halted 1 2 1).grpAt 0).s0.live = true ∧ ¬PcOk (halted 1 2 1).gctl.pc0) ∧
    (((halted 0x31 1 0).grpAt 0).s0.fault = some (0x10000, 0x31) ∧ (halted 0x31 1 0).gctl.act.toNat % 4 < 2) ∧
    ((halted 1 4 0).gctl.act &&& ~~~0x303#64 ≠ 0 ∧ (halted 1 0x303 0).gctl.act &&& ~~~0x303#64 = 0) ∧
    ((halted 1 3 0).gctl.act.toNat % 4 = 3 ∧ ((halted 1 3 0).grpAt 0).s1.live = false ∧ (halted 1 0 0).gctl.act.toNat % 4 = 0) ∧
    (({ base with gctl := { base.gctl with target := 2 ^ 32 } } : State).gctlGroup? = some 0 ∧ (base.grpAt 0).stopped = false) := by decide
/-- Action 1 on a split stopped for a request out of a BAR, and out of nothing; on one whose engine command waits for an answer. -/
def haltedAt (w r : Wait) : State := { (halted 1 1 0).setSplit { base.split with fault := none, wait := w, resume := r } with gctl := (halted 1 1 0).gctl }
theorem test_wit_FaultReports_resumed : ∀ p ∈ [(Wait.yielded, Wait.bar 0 1 0x10008), (.yielded, .none), (.fill [3], .none), (.bar 0 1 0x10008, .none), (.await 7 0x10008, .none), (.yielded, .await 7 0x10008),
    (.cwait 0 1 4 0x10008, .none), (.retry, .none), (.fetching 0 17 { code := 0x10 }, .none), (.peers 0 0 0 [], .none), (.nap 100, .none)],
    (let s := haltedAt p.1 p.2
     Commands s s.gctl.port ∧ s.gctlGroup? = some 0 ∧ (s.grpAt 0).stopped = true ∧ (s.grpAt 0).seq = some s.gctl.seq.toNat ∧ s.gctl.act.toNat % 4 = 1 ∧
       s.gctl.act &&& ~~~0x303#64 = 0 ∧ (s.grpAt 0).s0.live = true ∧ (s.grpAt 0).s0.fault = none ∧ (s.grpAt 0).s0.wait = p.1 ∧ (s.grpAt 0).s0.resume = p.2) := by decide

/-! Recovery: the job of the base state, its area at physical 0x100000, slots of 4 KiB. -/

/-- The base state, its team stopped, with the job as it stands. -/
def resting (j : RJob) : State := { setTeams (withJob j) fun x => { x with stopped := true } with ctlsem := 1 }
theorem test_wit_Recovery_area : Controls (resting areaJob) 0 ∧ IsJob (resting areaJob) 0 (.ofNat 64 0) areaJob ∧ 1024 ≤ 2 ^ 32 ∧ 1023 < 1024 ∧ 2 ^ 32 < 2 ^ 32 + 1 := by decide
theorem test_wit_Recovery_commit : (∀ n ∈ [0, 0x100000], ∀ area : Bool,
    (let j := { areaJob with progress := some ckpt1, slotSize := n, hasArea := area }
     let s := resting j
     IsJob s 0 (.ofNat 64 0) j ∧ j.progress = some ckpt1 ∧ ckpt1.committed = false ∧ AllStopped s 0 (.ofNat 64 0) ckpt1 ∧ ckpt1.asker = none ∧ j.hasArea = area)) ∧
    (let j := { areaJob with progress := some ckpt1 }
     IsJob (withJob j) 0 (.ofNat 64 0) j ∧ ¬AllStopped (withJob j) 0 (.ofNat 64 0) ckpt1) ∧ ckpt1.committed = false := by unfold AllStopped; decide
/-- With no launch of the job left, the slot holds the manifest's head alone. -/
def idle (j : RJob) : State := { resting j with launches := [] }
theorem test_wit_Recovery_fits : (let full := filled (idle areaJob) 0 (.ofNat 64 0) ckpt1
    max (full.slotBytes (.ofNat 64 0) 0).1.length ((full.allImages.map (·.size)).sum) + 64 ≤ 0x1000 ∧
      63 < max (full.slotBytes (.ofNat 64 0) 0).1.length ((full.allImages.map (·.size)).sum) + 64) ∧
    AllStopped (idle areaJob) 0 (.ofNat 64 0) ckpt1 := by unfold AllStopped; decide +kernel
/-- A checkpoint of a job of peer 9's, and one a peer must still answer. -/
def askedBy9 : Ckpt := { ckpt1 with asker := some 9 }
theorem test_wit_Recovery_peers : (let j := { areaJob with progress := some askedBy9, hasArea := false }
    IsJob (resting j) 0 (.ofNat 64 0) j ∧ askedBy9.committed = false ∧ AllStopped (resting j) 0 (.ofNat 64 0) askedBy9 ∧ askedBy9.asker = some 9 ∧ askedBy9.entry = false) ∧
    (let c := { ckpt1 with waiting := [9] }
     let j := { areaJob with progress := some c }
     IsJob (resting j) 0 (.ofNat 64 0) j ∧ c.committed = false ∧ ¬AllStopped (resting j) 0 (.ofNat 64 0) c) ∧
    (let c := { askedBy9 with committed := true }
     let j := { areaJob with progress := some c }
     IsJob (resting j) 0 (.ofNat 64 0) j ∧ j.progress = some c ∧ c.asker ≠ none ∧ c.entry = false) := by unfold AllStopped; decide
/-- The tenant has an image area; a job without an area is asked for a checkpoint. -/
theorem test_wit_Recovery_inArea : (let j := { areaJob with progress := some ckpt1, hasArea := false }
    let s := setTenants (resting j) fun x => { x with imageArea := 2 ^ 20 }
    IsJob s 0 (.ofNat 64 0) j ∧ AllStopped s 0 (.ofNat 64 0) ckpt1 ∧ ckpt1.asker = none ∧ ckpt1.committed = false ∧ j.hasArea = false ∧
      s.tenantOf? 0 = some { tenant0 with imageArea := 2 ^ 20 }) := by unfold AllStopped; decide
theorem test_wit_Recovery_seal : (let j := { areaJob with progress := some ckpt1 }
    IsJob (resting j) 0 (.ofNat 64 0) j ∧ j.progress = some ckpt1 ∧ ckpt1.committed = false) ∧
    (∀ e : Bool, let c := { ckpt1 with committed := true, entry := e }
     let j := { areaJob with progress := some c }
     IsJob (resting j) 0 (.ofNat 64 0) j ∧ j.progress = some c ∧ c.committed = true ∧ c.asker = none ∧ j.hasArea = true ∧
       (resting j).team ∈ (resting j).jobTeams 0 (.ofNat 64 0) ∧ (resting j).team.stopped = true ∧ (resting j).team.col < 512) := by decide
theorem test_wit_Recovery_only (j : RJob) : Only (resting j) (resting j).team :=
  only_of (List.mem_singleton.mpr rfl) (by rw [show only1 (resting j) = only1 (resting areaJob) from rfl]; decide)
def undone1 : Undo := ⟨2, 0x4000, 7⟩
def rollingJob : RJob := { areaJob with rolling := true, rpgen := 1, gen := 2, highest := 2, undo := [undone1], sealed := [ckpt1] }
/-- Generation 1 stands in the area, empty of teams. -/
def sealedArea : State :=
  let b := ckpt1.slotBytes 0 0
  ((idle rollingJob).putArea 0x100000 b.1).putArea (0x100000 + 0x1000 - 64) b.2
theorem test_wit_Recovery_contain : Controls (resting areaJob) 0 ∧ IsJob (resting areaJob) 0 (.ofNat 64 0) areaJob := by decide
/-- No generation is there to choose. -/
def gone : RJob := { rollingJob with rpgen := 0, rolling := false, progress := none }
theorem test_wit_Recovery_rollback :
    (IsJob (resting areaJob) 0 (.ofNat 64 0) areaJob ∧ areaJob.rolling = false ∧ ({ resting rollingJob with biv := ⟨1, false, false⟩ } : State).biv.phase ≠ 0) ∧
    (let s : State := { resting rollingJob with pend := [{ flashPend with acc := .store }] }
     IsJob s 0 (.ofNat 64 0) rollingJob ∧ ∃ p ∈ s.pend, (s.grpAt p.grp).team ∈ (s.jobTeams 0 (.ofNat 64 0)).map (·.uid) ∧ p.acc.writes = true ∧ p.open = true) ∧
    (let s : State := { resting rollingJob with jobs := [job1] }
     IsJob s 0 (.ofNat 64 0) rollingJob ∧ ∃ x ∈ s.jobs, x.team ∈ (s.jobTeams 0 (.ofNat 64 0)).map (·.uid) ∧ x.idle = false ∧ s.behindGuard x.grp x.id = false) ∧
    (let s := resting { rollingJob with rpgen := 0 }
     rollingJob.rolling = true ∧ s.biv.phase = 0 ∧
       (∀ x ∈ s.jobs, x.team ∈ (s.jobTeams 0 (.ofNat 64 0)).map (·.uid) → x.idle = true ∨ s.behindGuard x.grp x.id = true) ∧
       (∀ x ∈ s.installs, x.team ∈ (s.jobTeams 0 (.ofNat 64 0)).map (·.uid) → s.behindGuard x.grp x.id = true) ∧
       (∀ p ∈ s.pend, (s.grpAt p.grp).team ∈ (s.jobTeams 0 (.ofNat 64 0)).map (·.uid) → p.acc.writes = true → p.open = false) ∧
       s.team ∈ s.jobTeams 0 (.ofNat 64 0) ∧ 0 < s.groups.length ∧ (s.grpAt 0).team = s.team.uid ∧ (s.grpAt 0).ended = false ∧ s.team.uid < s.nextId ∧
       s.chooseGen gone = none) ∧
    (let s : State := { resting rollingJob with away := [(9, item1 work1 7 0)] }
     s.biv.phase = 0 ∧ ∃ p ∈ s.away, p.2.ten = 0 ∧ (s.launchOf 0 p.2.launch).job = .ofNat 64 0) := by decide
theorem test_wit_Recovery_chosen : sealedArea.chooseGen { rollingJob with rolling := false, progress := none } = some 1 ∧
    IsJob sealedArea 0 (.ofNat 64 0) rollingJob ∧ sealedArea.biv.phase = 0 ∧ sealedArea.jobs = [] ∧ sealedArea.pend = [] ∧ sealedArea.installs = [] ∧
    rollingJob.sealed.find? (fun x => x.gen == 1) = some ckpt1 ∧ rollingJob.undo = [] ++ undone1 :: [] ∧ 1 < undone1.gen ∧ undone1.old < 2 ^ 512 ∧
    sealedArea.away = [] := by decide +kernel

/-! Bivouac. -/

def napping (phase : Nat) (j : RJob) : State := { resting j with biv := ⟨phase, false, false⟩ }
theorem test_wit_Bivouac_enter : (Controls ruled 0 ∧ ruled.biv.phase = 0) ∧ (Controls (napping 1 areaJob) 0 ∧ (napping 1 areaJob).biv.phase ≠ 0) ∧
    State.reset.boot.brstate ≠ 5 ∧ base.boot.brstate = 5 := by decide
theorem test_wit_Bivouac_complete : base.biv.phase ≠ 1 ∧ (let s := napping 1 { areaJob with progress := some ckpt1 }
    s.biv.phase = 1 ∧ ∃ j ∈ s.rjobs, j.progress ≠ none) ∧ stored.pend ≠ [] ∧
    (∃ i ∈ (flashed region1 install1).installs, (flashed region1 install1).behindGuard i.grp i.id = false) ∧
    (∃ j ∈ (working job1).jobs, j.idle = false ∧ (working job1).behindGuard j.grp j.id = false) ∧
    (let s := napping 1 areaJob
     s.biv.phase = 1 ∧ (∀ j ∈ s.rjobs, j.progress = none) ∧ ∀ x ∈ s.teams, x.ended = true ∨ 512 ≤ x.col ∨ x.stopped = true) := by decide
theorem test_wit_Bivouac_settled : Settled (napping 1 areaJob) := ⟨by decide, by decide, by decide, by decide⟩
/-- A peer's access waits for a page when the module goes to sleep. -/
def waiting9 : PeerWait := { peer := 9, ten := 0, addr := 0, op := .read [0], page := some 5 }
theorem test_wit_Bivouac_peer : Settled { napping 1 areaJob with peerWaits := [waiting9] } ∧ (napping 1 areaJob).lines = [] ∧ base.away = [] :=
  ⟨⟨by decide, by decide, by decide, by decide⟩, by decide⟩
theorem test_wit_Bivouac_expiry : ∀ b : Bool, (let c := { ckpt1 with committed := b }
    let s := napping 1 { areaJob with progress := some c }
    s.biv.phase = 1 ∧ s.installs = [] ∧ IsJob s 0 0 { areaJob with progress := some c } ∧ c.committed = b ∧ areaJob.hasArea = true) := by decide
def ckpt2 : Ckpt := { ckpt1 with images := [image1], launches := [base.launch], entry := true, peers := [9] }
/-- The module asleep, its one job with a sealed entry checkpoint which peer 9 answered; and the firmware's image as it was checked. -/
def dreaming : State := { napping 2 { areaJob with sealed := [ckpt2] } with items := [item1 (.image image1) 7 0], boot := { base.boot with imageHash := sha256 base.boot.image } }
theorem test_wit_Bivouac_wake : (dreaming.biv.phase = 2 ∧ dreaming.boot.brstate = 5 ∧ (128 : BitVec 8) ≠ 0xFF ∧ ckpt2.entry = true ∧ 9 ∈ ckpt2.peers) ∧
    (∀ j ∈ dreaming.rjobs, j.rolling = false ∧ dreaming.rjob? j.ten j.id = some j) ∧ IsJob dreaming 0 (.ofNat 64 0) { areaJob with sealed := [ckpt2] } := by decide
theorem test_wit_Bivouac_hash : sha256 dreaming.boot.image = dreaming.boot.imageHash ∧ ∃ i ∈ dreaming.items, i.work = .image image1 :=
  ⟨by simp only [dreaming], _, List.mem_singleton.mpr rfl, rfl⟩
theorem test_wit_Bivouac_wakeOther : (napping 2 rollingJob).rjobs = [rollingJob] ∧ rollingJob.rolling = true ∧
    (let s : State := { State.reset with biv := ⟨2, true, true⟩ }
     s.biv.phase = 2 ∧ s.boot.brstate ≠ 5) ∧ (napping 2 areaJob).biv.phase = 2 ∧ (napping 2 areaJob).boot.brstate = 5 ∧ (0 : BitVec 8) ≠ 0xFF ∧ ¬(false = true) := by decide

/-! Links, peers, the host. -/

def linked (l : Link) (r : List RemTx) : State := { withLink base 127 l with remote := r }
def rem1 : RemTx := { peer := 3, addr := 0, op := .access (.read [0]), resent := true, who := .lanes 4 [31], grp := 0, sp := 0, pc := 0x10000, batch := 0 }
def rem2 : RemTx := { rem1 with peer := 2 }
theorem test_wit_Links :
    (Link.empty.active.getLsbD 7 = true ∧ (link base 127).training = false ∧ (link base 127).above.getLsbD 7 = false ∧ Carries base 127) ∧
    (let s := linked { Link.empty with active := 0x81, above := 0x80 } []
     (link s 127).active.getLsbD 7 = true ∧ (link s 127).above.getLsbD 7 = true ∧ ∃ k, k < 8 ∧ k ≠ 7 ∧ (link s 127).active.getLsbD k = true) ∧
    (let s := linked { Link.empty with active := 0x80, above := 0x80 } []
     (link s 127).active.getLsbD 7 = true ∧ (link s 127).above.getLsbD 7 = true ∧ ∀ k, k < 8 → k ≠ 7 → (link s 127).active.getLsbD k = false) ∧
    (∀ b ∈ [0x80#8, 0#8], (let s := linked { Link.empty with active := 0x7F, below := b } []
     (link s 127).training = false ∧ (link s 127).active.getLsbD 7 = false ∧ (link s 127).below = b)) ∧
    (let s (n : Nat) := linked { Link.empty with failed := n } []
     Carries (s 15) 127 ∧ Steady (s 15) 127 ∧ (link (s 15) 127).failed ≠ 16 ∧ Carries (s 16) 127 ∧ Steady (s 16) 127 ∧ (link (s 16) 127).failed = 16) ∧
    (link (linked { Link.empty with training := true } []) 127).training = true ∧
    (let s := linked { Link.empty with active := 0x81, above := 0x80 } []
     (link s 127).active &&& (link s 127).above ≠ 0 ∧ (link s 127).active &&& ~~~(link s 127).above ≠ 0) := by decide
/-- A flit of 240 zeros with its check; one without payload. -/
def flit1 (seq : Nat) : Flit := ⟨seq, 0, 0, List.replicate 240 0, Config.flitCheck (bytesOf 8 (Config.flitHeader seq 0 0) ++ List.replicate 240 0)⟩
theorem test_wit_Links_flits : (∀ n, flitOk (flit1 n)) ∧ ¬flitOk ⟨0, 0, 0, [], 0⟩ ∧ (flit1 5).seq ≠ (link base 127).seq :=
  ⟨fun _ => ⟨List.length_replicate, rfl⟩, (fun h => Nat.noConfusion h.1), by show (5 : Nat) ≠ 0; decide⟩
theorem route_one (s : State) (x : RemTx) (n : Nat) (h : s.upLinks x.peer = [n]) : s.routeOf x = some n := by
  simp [State.routeOf, h, Nat.mod_one]
theorem route_none (s : State) (x : RemTx) (h : s.upLinks x.peer = []) : s.routeOf x = none := by
  simp [State.routeOf, h]
/-- Link 127 leads to peer 3 and is the only one known, `n` bytes of the message at work already carried. -/
def toPeer (n : Nat) (r : List RemTx) (ps : List Pend) : State := { linked { Link.empty with known := true, peer := 3, carried := n } r with pend := ps }
theorem toPeer_links (n : Nat) (r : List RemTx) (ps : List Pend) (p : Nat) : (toPeer n r ps).upLinks p = (toPeer 0 [] []).upLinks p := by
  have h : ∀ k, ((toPeer n r ps).link k).reaches p = ((toPeer 0 [] []).link k).reaches p := by
    intro k
    show (Map.get Link.empty [(127, { Link.empty with known := true, peer := 3, carried := n })] k).reaches p =
      (Map.get Link.empty [(127, { Link.empty with known := true, peer := 3, carried := 0 })] k).reaches p
    by_cases hk : 127 = k <;> simp [Map.get, hk, Link.reaches]
  simp only [State.upLinks, h]
theorem test_wit_Fabric_none : Carries (toPeer 0 [rem2] []) 127 ∧ Steady (toPeer 0 [rem2] []) 127 ∧ ∀ x ∈ (toPeer 0 [rem2] []).remote, (toPeer 0 [rem2] []).routeOf x ≠ some 127 := by
  refine ⟨by decide, by decide, fun x hx => ?_⟩
  obtain rfl := List.mem_singleton.mp hx
  rw [route_none _ rem2 (by rw [toPeer_links]; decide +kernel)]; nofun
/-- A store's lane sent, then nobody's transaction: each the first over the link, its message complete in the next flit. -/
def sentStore : Pend := { flashPend with acc := .store, lanes := [{ flashLane none with sent := true }] }
theorem test_wit_Fabric_delivers (w : TxWho) : let x : RemTx := { rem1 with who := w }
    let s := toPeer (messageOf x) [rem2, x] [sentStore]
    Carries s 127 ∧ Steady s 127 ∧ s.remote = [rem2] ++ x :: [] ∧ s.routeOf x = some 127 ∧ (∀ y ∈ [rem2], s.routeOf y ≠ some 127) ∧
      messageOf x ≤ (link s 127).carried + 240 ∧ s.pend? 4 = some sentStore ∧ sentStore.acc = .store := by
  refine ⟨⟨by decide, rfl, (by decide : (0xFF : BitVec 8) ≠ 0)⟩, (by decide : (0xFF : BitVec 8) &&& 0 = 0), rfl, route_one _ _ _ ?_, fun y hy => ?_, Nat.le_add_right .., rfl, rfl⟩
  · rw [toPeer_links]; show (toPeer 0 [] []).upLinks 3 = [127]; decide +kernel
  · obtain rfl := List.mem_singleton.mp hy
    rw [route_none _ rem2 (by rw [toPeer_links]; decide +kernel)]; nofun
theorem test_wit_Fabric_beats : Carries base 127 ∧ Steady base 127 ∧ beatsOn (link base 127).active 7 ≠ 0 ∧ (flit1 0).payload.length = 240 :=
  ⟨by decide, by decide, by decide, List.length_replicate⟩
/-- No link leads anywhere; one does. -/
theorem test_wit_Fabric_resend : (∀ w, (let x : RemTx := { rem1 with who := w }
    let s : State := { base with remote := [x] }
    s.remote[0]? = some x ∧ x.resent = true ∧ ¬Linked s x.peer ∧ (s.grpAt x.grp).ended = false ∧ x.grp < s.groups.length)) ∧
    { rem1 with resent := false }.resent = false ∧ Linked (toPeer 0 [rem1] []) 3 := by
  refine ⟨fun w => ⟨rfl, rfl, fun ⟨n, _, h, _⟩ => ?_, rfl, Nat.zero_lt_one⟩, rfl, 127, by decide⟩
  have : link { base with remote := [{ rem1 with who := w }] } n = .empty := rfl
  rw [this] at h; cases h

/-- A store's lane 31 is lost on its way to peer 3, its lane 30 goes to peer 2; a load's lane is lost. -/
def givingUp (a : Acc) : State :=
  { base with remote := [rem1], pend := [{ flashPend with acc := a, lanes := [{ flashLane none with sent := true }, { flashLane none with lane := 30, sent := true }] }] }
theorem test_wit_Fabric_lanes : ∀ a ∈ [Acc.store, .load false], (let s := givingUp a
    s.remote[0]? = some rem1 ∧ rem1.resent = true ∧ rem1.who = .lanes 4 [31] ∧ (s.grpAt rem1.grp).ended = false ∧
      ∃ q, s.pend? 4 = some q ∧ q.acc = a ∧ ∃ y ∈ q.lanes, y.lane ∉ [31] ∧ y.res = none) := by
  intro a _
  exact ⟨rfl, rfl, rfl, rfl, _, rfl, rfl, { flashLane none with lane := 30, sent := true }, by simp, by decide, rfl⟩
theorem test_wit_Fabric_unlinked (a : Acc) : ¬Linked (givingUp a) 3 := by
  rintro ⟨n, _, h, _⟩
  have : link (givingUp a) n = .empty := rfl
  rw [this] at h; cases h

theorem test_wit_HostAccess_placed : ∀ u ∈ [Use.read, .write, .atomic], Placed base 0 0x10FFC 4 u [ram 0xFFC, ram 0xFFD, ram 0xFFE, ram 0xFFF] := by
  intro u hu
  refine ⟨rfl, fun k hk => ?_⟩
  revert u
  match k with
  | 0 => simp only [List.forall_mem_cons]; exact ⟨rfl, rfl, rfl, nofun⟩
  | 1 => simp only [List.forall_mem_cons]; exact ⟨rfl, rfl, rfl, nofun⟩
  | 2 => simp only [List.forall_mem_cons]; exact ⟨rfl, rfl, rfl, nofun⟩
  | 3 => simp only [List.forall_mem_cons]; exact ⟨rfl, rfl, rfl, nofun⟩
  | n + 4 => omega
theorem test_wit_HostAccess_outsider : ∀ u ∈ [Use.read, .write, .atomic], PeerPlaced base 0 0x10FFC [0, 1, 2, 3] u [ram 0xFFC, ram 0xFFD, ram 0xFFE, ram 0xFFF] := by
  intro u hu
  have h := test_wit_HostAccess_placed u hu
  refine ⟨rfl, fun _ hw => (List.not_mem_nil hw).elim, fun k hk => ?_⟩
  have hk : k < 4 := hk
  have e : [0, 1, 2, 3].getD k 0 = k := by
    rcases (by omega : k = 0 ∨ k = 1 ∨ k = 2 ∨ k = 3) with rfl | rfl | rfl | rfl <;> rfl
  rw [e]
  exact ⟨by omega, h.2 k hk⟩
theorem test_wit_HostAccess_peer : Hears base ∧ InDram [ram 0xFFC, ram 0xFFD, ram 0xFFE, ram 0xFFF] ∧ 15 < 16 ∧ 0x10FFC % 4 = 0 ∧ 0x10FFE % 4 ≠ 0 ∧
    Misplaced base 0 0x10FFD 4 .read ∧ Misplaced base 0 0x10FFD 4 .write ∧ 2 ^ 48 ≤ (2 ^ 48 - 1) + 1 ∧
    (∃ f, otherTenant.translate 0 0x10000 0x10000 .read false = .flt f) ∧ (∃ t p m f, base.translate 0 0x11000 0x11000 .read false = .wait t p m f) := by
  refine ⟨by decide, ⟨fun l h => ?_, by decide⟩, by decide, by decide, by decide, ⟨3, by decide, fun l h => ?_⟩, ⟨3, by decide, fun l h => ?_⟩, by decide,
    fails_of (by decide +kernel), _, _, _, _, rfl⟩
  · simp only [List.mem_cons, List.not_mem_nil, or_false] at h
    obtain rfl | rfl | rfl | rfl := h <;> exact ⟨_, _, rfl⟩
  · rw [show base.translate 0 (0x10FFD + 3) (0x10FFD + 3) .read false = .wait 0 0x11 false (accFlt 0x10 .read 0x11000) from rfl] at h
    cases h
  · rw [show base.translate 0 (0x10FFD + 3) (0x10FFD + 3) .write false = .wait 0 0x11 false (accFlt 0x10 .write 0x11000) from rfl] at h
    cases h
/-- The tenant's page is in flash, its granule staged or not. -/
theorem inFlash_place (g : List Nat) (h : g ∈ [[], [2]]) : ({ inFlash with staged := g } : State).translate 0 0x10FF8 0x10FF8 .read false = .ok ⟨.flash, 0x400FF8⟩ := by
  simp only [List.mem_cons, List.not_mem_nil, or_false] at h
  rcases h with rfl | rfl <;> exact passes_of (by decide +kernel)
theorem test_wit_HostAccess_staged : ∀ g ∈ [[], [2]], (let s : State := { inFlash with staged := g }
    PeerPlaced s 0 0x10FF8 [0] .read [⟨.flash, 0x400FF8⟩] ∧ Placed s 0 0x10FF8 1 .read [⟨.flash, 0x400FF8⟩] ∧ Hears s ∧
      (AllStaged s [⟨.flash, 0x400FF8⟩] ↔ g = [2])) := by
  intro g hg
  have e (k : Nat) (hk : k < 1) : k = 0 := by omega
  refine ⟨⟨rfl, fun _ hw => (List.not_mem_nil hw).elim, fun k hk => ?_⟩, ⟨rfl, fun k hk => ?_⟩, ⟨rfl, (by decide : (0 : Nat) ≠ 2)⟩, ?_⟩
  · obtain rfl := e k hk; exact ⟨by decide, inFlash_place g hg⟩
  · obtain rfl := e k hk; exact inFlash_place g hg
  · simp only [List.mem_cons, List.not_mem_nil, or_false] at hg
    rcases hg with rfl | rfl <;> simp [AllStaged, Staged]
/-- Two lines of port 0's, and one of a peer's. -/
def line1 (a : Nat) (port tell : Option Nat) : LineWrite := ⟨port, tell, [ram a], [0xFF]⟩
def lined : State := { base with lines := [line1 0xFC0 (some 0) none, line1 0xF80 (some 0) none, line1 0xF40 none (some 255)] }
theorem test_wit_HostAccess_lines : lined.lines[1]? = some (line1 0xF80 (some 0) none) ∧ (∃ v ∈ lined.lines.take 1, v.port ≠ none ∧ v.port = some 0) ∧
    lined.lines[2]? = some (line1 0xF40 none (some 255)) ∧ (∀ v ∈ lined.lines.take 2, (v.port = none ∨ v.port ≠ none) ∧ v.meets [ram 0xF40] = false) ∧
    (line1 0xF40 none (some 255)).bytes.length = (line1 0xF40 none (some 255)).locs.length := by decide +kernel
theorem test_wit_HostAccess_lines_dram : InDram (line1 0xF40 none (some 255)).locs :=
  ⟨fun l h => by obtain rfl := List.mem_singleton.mp h; exact ⟨_, _, rfl⟩, List.pairwise_singleton ..⟩
theorem test_wit_HostAccess_bar : Reaches base 1 ∧ 0x10FFC + 4 ≤ 2 ^ 36 ∧ (base.port 1).bar2base * 2 ^ 36 + 0x10FFC = 0x10FFC ∧ (base.port 1).bar2ten = 0 ∧
    base.boot.brstate = 5 := by decide
theorem test_wit_HostAccess_work : base.tenantOf? 0 ≠ none ∧ descBad (desc described) = false ∧ ∀ l ∈ base.launches, ¬(l.ten = 0 ∧ l.id = 2 ^ 32 - 1) := by
  decide +kernel
theorem test_wit_HostAccess_checkpoint : Hears (withJob areaJob) ∧ IsJob (withJob areaJob) 0 0 areaJob ∧ areaJob.rolling = false ∧ areaJob.progress = none ∧
    (withJob areaJob).away = [] ∧ (withJob areaJob).team ∈ (withJob areaJob).jobTeams 0 0 := by decide
/-- A read of each port's waits; before the module runs too. -/
def reading (st : Nat) (o : Nat) : State := { base with reads := [(1, o)], boot := { base.boot with brstate := st } }
theorem test_wit_HostAccess_bar0 : ∀ st ∈ [4, 5], ∀ o ∈ [0x40000, 0x50000, 0x50008, 0x40008, 0x30000 + 128 * 127 + 8, 0x20000 + 8 * 511],
    (reading st o).reads[0]? = some (1, o) ∧ ((reading st o).port 1).up = true ∧ (reading st o).biv.phase ≠ 2 ∧ ((reading st o).port 1).speed < 256 := by decide
theorem test_wit_HostAccess_controls : Controls ruled 0 ∧ settingOf .yieldLimit = some (2 ^ 16, 2 ^ 26, (·.yieldLimit)) ∧
    (2 ^ 16 ≤ (2 ^ 26 : Word).toNat ∧ (2 ^ 26 : Word).toNat ≤ 2 ^ 26) ∧ 2 ^ 26 < (2 ^ 26 + 1 : Word).toNat ∧ Reaches base 0 ∧ base.ctlsem ≠ 0 + 1 ∧
    ruled.tenantOf? 0 ≠ none ∧ ruled.tenantOf? 31 = none ∧ ¬early 0x50028 ∧ ¬early 0x51030 ∧ ¬early 0x51BD0 ∧ ¬early 0x40020 ∧ early 0x51BCF := by
  unfold early
  refine ⟨by decide, rfl, by decide, by decide, by decide, by decide, by decide, by decide⟩
theorem test_wit_HostAccess_register : ∀ o, CtlReg.yieldLimit ≠ .offset o := nofun

def booting (b : Boot) : State := { ruled with boot := b }
theorem test_wit_BringUp : (Reaches ruled 0 ∧ ruled.ctlsem = 0 + 1 ∧ ruled.boot.brstate ≠ 4 ∧ 2 ^ 23 - 1 < 2 ^ 23) ∧
    (let s := booting { Boot.empty with brstate := 4 }
     Reaches s 0 ∧ s.ctlsem = 0 + 1 ∧ s.boot.brstate = 4 ∧ s.biv.phase ≠ 2 ∧ s.biv.phase ≠ 3) ∧
    (let s := booting { Boot.empty with brstate := 6, signing := true }
     Reaches s 0 ∧ s.ctlsem = 0 + 1 ∧ 3 ≤ s.boot.brstate ∧ s.boot.brstate ≤ 6 ∧ s.boot.signing = true) := by decide
/-- An image of the right shape, one body byte, key and signature zeros. -/
def image : List Byte := bytesOf 4 0x4E445247 ++ bytesOf 4 9 ++ bytesOf 8 1 ++ List.replicate 48 0 ++ List.replicate 2565 0
theorem test_wit_BringUp_shape : 64 ≤ image.length ∧ leNat (image.take 4) = 0x4E445247 ∧ (∀ k, k < 64 → 48 ≤ k → image.getD k 0 = 0) ∧
    1 ≤ leNat ((image.drop 8).take 8) ∧ leNat ((image.drop 8).take 8) ≤ 8385980 ∧ image.length = 64 + leNat ((image.drop 8).take 8) + 2564 := by decide +kernel
theorem test_wit_BringUp_die : Only (withJob areaJob) (withJob areaJob).team ∧ (let s := withJob areaJob
    s.team.ended = false ∧ s.team.col < 512 ∧ s.team.col / 64 = 0 ∧ IsJob s s.team.ten (s.launchOf s.team.ten s.team.launch).job areaJob) :=
  ⟨only_of (by decide) (by decide), by decide⟩

/-! Words, steps, faults. -/

theorem test_wit_EncodingRoundTrip : (let i := Instr.smov ⟨0, 63, .litWord longWord, .reg 0, .reg 0, 0⟩; i.wf = true ∧ i.isWord = true) ∧
    (let i := Instr.pairNop ⟨.nop, 0, .reg 0⟩; i.wf = true ∧ i.isWord = true) ∧ reads [(0, .nop ⟨0, 0, .reg 0, .reg 0, .reg 0, 0⟩)] = true := by decide
theorem test_wit_EncodingWords : (let w : Word := 0x7FE0000000000000
    w.getLsbD 63 = false ∧ defined (opcOf w) = false) ∧ (0xC000000000000000 : Word).getLsbD 62 = true ∧ 0x2A ≤ halfOf 0x800000002A000000 true / 2 ^ 24 ∧
    halfOf 0x8000000000000001 true % 2 ^ 6 ≠ 0 ∧ halfOf 0x8000000080000000 false % 2 ^ 6 ≠ 0 := by decide
theorem test_wit_Nop : Ok .nop ⟨0, 0, .reg 0, .reg 0, .reg 0, 0⟩ base ∧ (let w : Word := 0x1F_FFFFFFFFFFFF
    w.getLsbD 63 = false ∧ opcOf w = 0 ∧ w ≠ 0) := by decide
theorem test_wit_StepRunsDecoded_options : base.options = [.issue 0 0] ∧ State.reset.options = [.event .powerOn] ∧
    ({ State.reset with boot := { Boot.empty with brstate := 2 } } : State).options = [] := by decide +kernel
theorem test_wit_StepRunsDecoded : ({ base with inputs := [.powerOn] } : State).inputs = .powerOn :: [] ∧ base.inputs = [] ∧ base.pick = some (.issue 0 0, base) ∧
    State.reset.inputs = [] ∧ State.reset.pick = some (.event .powerOn, State.reset) ∧
    ({ State.reset with boot := { Boot.empty with brstate := 2 } } : State).pick = none := by
  obtain ⟨h, h', h''⟩ := test_wit_StepRunsDecoded_options
  exact ⟨rfl, rfl, by rw [State.pick, h], rfl, by rw [State.pick, h'], by rw [State.pick, h'']⟩
theorem test_wit_StepRunsDecoded_fetch : (issuing base 0 0).fetch (base.teamOf (base.grpAt 0).team) (base.spAt (0, 0)).pc = .ok (0, 0, [ram 0]) ∧
    base.unstaged [ram 0] = false ∧ 0 < base.groups.length ∧ (base.grpAt 0).suspect = none ∧ decode 0 0 = .ok (.nop ⟨0, 0, .reg 0, .reg 0, .reg 0, 0⟩) :=
  ⟨rfl, by decide, by decide, by decide, rfl⟩
theorem test_wit_StepKeepsMemory : base.MemOk ∧ State.reset.MemOk := by decide +kernel

/-! Taking a fault: a word that is no instruction, a register above the count, an open region, a page not present. -/

def wordAt (w : Nat) : State := State.reset.withFetchWord 64 w
theorem test_wit_FaultTaking_word : (let s := wordAt 0xFFFFFFFFFFFFFFFF
    Here s ∧ s.curSplit < 2 ∧ s.grp.regionOpen = false ∧ 0 < s.groups.length ∧ (s.grpAt 0).suspect = none ∧ s.unstaged [ram 0] = false) ∧
    (match (issuing (wordAt 0xFFFFFFFFFFFFFFFF) 0 0).fetch (wordAt 0).team (wordAt 0xFFFFFFFFFFFFFFFF).split.pc with
      | .ok (w, v, ls) => w == 0xFFFFFFFFFFFFFFFF && ls == [ram 0] && (match decode w v with | .error e => e == .illegalInstruction | .ok _ => false)
      | _ => false) = true := by decide +kernel
theorem test_wit_FaultTaking_count : (let s := setLaunchOf base fun l => { l with vregs := 8 }
    let f : Fields := ⟨0, 8, .reg 0, .reg 0, .reg 0, 8⟩
    (Instr.vadd f).full?.isSome = true ∧ Here (setTeams s fun x => { x with vregs := 8 }) ∧
      (setTeams s fun x => { x with vregs := 8 }).countFault (.vadd f) f = some 0) := by decide
theorem test_wit_FaultTaking_region : ∀ n ∈ [0, 2, 3], (let s := base.setGrp { base.grp with regionOpen := true, idemRetry := n }
    Here s ∧ s.grp.regionOpen = true ∧ s.grp.idemRetry = n) := by decide
theorem test_wit_FaultTaking_wait : let s := base.setSplit { base.split with pc := 0x11000 }
    (issuing s 0 0).fetch (s.teamOf (s.grpAt 0).team) (s.spAt (0, 0)).pc = .wait 0 0x11 false (accFlt 0x10 .fetch 0x11000) ∧ (0, 0x11) ∉ s.reports ∧
      (0, 0x11) ∈ ({ s with reports := [(0, 0x11)] } : State).reports := ⟨rfl, by decide, by decide⟩
/-- A split may issue; its column has issued in this cycle; a stopped group's split is inside an instruction; time passes. -/
theorem test_wit_StepRunsDecoded_ready : Choice.issue 0 0 ∈ base.options ∧ base.issues ≠ [] ∧ ({ base with issued := [0] } : State).issues = [] ∧
    base.split.wait.waitsOnly = false ∧ base.away = [] ∧
    (let s := (base.setSplit { base.split with wait := .retry }).setGrp { base.grp with stopped := true, s0 := { base.split with wait := .retry } }
     (s.grpAt 0).stopped = true ∧ (s.spAt (0, 0)).midway = true ∧ (s.spAt (0, 0)).fault = none ∧ Choice.issue 0 0 ∈ s.options) := by decide +kernel
/-- Groups on two columns: each may issue. -/
def twoColumns : State := { base with
  teams := base.teams ++ [{ base.team with uid := 2, col := 511 }], groups := base.groups ++ [{ base.grp with team := 2 }] }
theorem test_wit_StepRunsDecoded_columns : Choice.issue 0 0 ∈ twoColumns.options ∧ Choice.issue 1 0 ∈ twoColumns.options ∧ columnOf twoColumns 0 = 0 ∧
    columnOf twoColumns 1 = 511 := by decide +kernel

/-- FIPS 180-4's example: the digest of "abc". -/
theorem test_sha256_abc : leNat (sha256 [0x61, 0x62, 0x63]).reverse = 0xba7816bf8f01cfea414140de5dae2223b00361a396177a9cb410ff61f20015ad := by decide +kernel

/-! More witnesses: the clauses of statements one by one, at the edges of their ranges. -/

/-- A privileged group, an address of the group-control block: the access waits for nothing under way. -/
theorem test_wit_MemoryIssue_ctl :
    let s : State := { base with set := { base.set with supervisor := some 0 } }
    let i : Instr := .sts ⟨0, 0, .litWord 0xF000000000010000, .lit 0, .lit (-1), 0x103⟩
    ∃ x, accessOf s i = some x ∧ Issues i x.f s ∧ Places s x (fun _ => ⟨.ctl, 0x10000⟩) ∧ AllDone s := by
  refine ⟨_, rfl, by decide, ?_, by unfold AllDone Ordered; decide⟩
  intro p hp; obtain rfl := List.mem_singleton.mp hp; rfl
/-- A barrier the group passed orders before its next access what is under way: the group's own store here. -/
def unordered : State := stored.setGrp { stored.grp with syncs := [{ grp := 0, upTo := stored.nextId, after := 0 }] }
theorem test_wit_Fence_clauses : Ok .fence ⟨0, 0, .reg 0, .reg 0, .reg 0, 0x380⟩ unordered ∧ Ok .fence ⟨0, 0, .reg 0, .reg 0, .reg 0, 0x100⟩ unordered ∧
    ¬Ordered unordered ∧ stored.busyBefore stored.cur stored.nextId = true ∧ Ordered stored ∧ AllDone base ∧
    (let s := stored.setSplit { stored.split with wait := .fence stored.nextId 4 false 0x10008 }
     (s.spAt (0, 0)).wait = .fence stored.nextId 4 false 0x10008 ∧ s.busyBefore 0 stored.nextId = true ∧ s.busyBefore 0 0 = false) := by
  unfold AllDone Ordered; decide

/-- The target is open, done, or later than the open batch modulo 2³²; what a batch's deferred error is covered by. -/
def owing30 : State := closed1.setGrp { closed1.grp with pend30 := [2, 1] }
def done30 : State := base.setGrp { base.grp with batchOpen := 2, pend30 := [2, 1] }
theorem test_wit_Batches_clauses :
    Reached base 0 0 ∧ targetIn base.grp (2 ^ 32 - 1) = 2 ^ 32 - 1 ∧ targetIn base.grp 5 = 0 ∧ ¬Reached closed1 0 1 ∧
    (Ok .await ⟨0, 0, .lit 1, .reg 0, .reg 0, 0⟩ done30 ∧ Reached done30 0 1 ∧ done30.grp.pend30 = [2] ++ 1 :: [] ∧ ¬Covers done30.grp 1 2 ∧ Covers done30.grp 1 1) ∧
    (Ok .atest ⟨0, 63, .lit 1, .reg 0, .reg 0, 0⟩ owing30 ∧ owing30.grp.pend30 = [2] ++ 1 :: [] ∧ ¬Covers owing30.grp 1 2 ∧ Covers owing30.grp 1 1) ∧
    (∀ b ∈ closed1.grp.pend30, ¬Covers closed1.grp 1 b) ∧
    (let s := closed1.setSplit { closed1.split with wait := .await 1 0x10008 }
     (s.spAt (0, 0)).wait = .await 1 0x10008 ∧ ∀ b ∈ (s.grpAt 0).pend30, ¬Covers (s.grpAt 0) 1 b) ∧
    (let s := base.setSplit { base.split with wait := .cwait (pad 4088) 1 4 0x10008 }
     (s.spAt (0, 0)).wait = .cwait (pad 4088) 1 4 0x10008 ∧ s.access (s.teamOf (s.grpAt 0).team) (pad 4088) 8 8 .read = .ok (padAt 4088) ∧
       far (padAt 4088) = false ∧ s.mayPoll 0 0 (pad 4088) (padAt 4088) 4 = true ∧ s.rdN (padAt 4088) 8 < 1 ∧ 0 ≤ s.rdN (padAt 4088) 8) := by
  unfold Reached Covers
  refine ⟨by decide, by decide, by decide, by decide, by decide, by decide, by decide, by decide, rfl, rfl, by decide⟩

/-- Slot 255 counts as an FP6 slot; the granule of a flash source is not staged; the second piece writes a byte of the first. -/
theorem test_wit_EngineStarts_clauses :
    (let s := (working loadJob).setCol 0 { (working loadJob).col 0 with fp6 := [255] }
     (∀ e ∈ loadJob.els, zeroTail s loadJob e = true) ∧ s.jobs.find? (fun x => x.id == loadJob.id) = some loadJob ∧ s.jobReady loadJob = true ∧
       (∀ e ∈ loadJob.els, zeroTail (working loadJob) loadJob e = false)) ∧
    (∃ g, g ∉ (working flashJob).staged ∧ ∃ e ∈ flashJob.els, ∃ l ls b w, e.src = .at ls b w ∧ l ∈ ls ∧ l.sp = .flash ∧ l.a / 2 ^ 21 = g ∧
      (l.sp.key, l.a / 64) ∉ flashJob.bad) ∧
    (∀ e ∈ byteJob.els, ∀ l ls b w, e.src = .at ls b w → l ∈ ls → l.sp ≠ .flash) := by
  refine ⟨by decide, ⟨1, by decide, _, List.mem_singleton.mpr rfl, ⟨.flash, 2 ^ 21⟩, _, _, _, rfl, List.mem_singleton.mpr rfl, rfl, by decide, by decide⟩, ?_⟩
  intro e he l ls b w h hl
  obtain rfl := List.mem_singleton.mp he
  cases h; obtain rfl := List.mem_singleton.mp hl; decide
theorem test_wit_EngineLands_clauses :
    (let j : Job := { job1 with st := .landing [bytePiece, bytePiece] }
     (working j).jobs.find? (fun x => x.id == j.id) = some j ∧ Behind [bytePiece, bytePiece] 1 bytePiece ∧ ¬Behind [bytePiece, bytePiece] 0 bytePiece ∧
       ¬Behind [bytePiece, pieceTo (padAt 0)] 1 (pieceTo (padAt 0))) ∧
    ((4 : Nat) < 5 ∧ bytePiece.counted = false ∧ bytePiece.count ≠ 0 ∧ InMemory (padAt 0) 8) ∧
    (∀ b ∈ peerPiece.wr, ∃ l, b.locs = [l] ∧ b.bit = 0 ∧ b.w = 8 ∧ b.v < 256 ∧ l.sp = .remote 255 ∧ l.a / 128 = 2 ^ 41 - 1) ∧
    (peerPiece.wr.Pairwise fun x y => ∀ l ∈ x.locs, ∀ m ∈ y.locs, l.overlaps 1 m 1 = false) := by
  refine ⟨by unfold Behind; decide, ⟨by decide, rfl, by decide, .inr ⟨0, rfl, by decide⟩⟩, ?_, List.pairwise_singleton ..⟩
  intro b hb; obtain rfl := List.mem_singleton.mp hb; exact ⟨_, rfl, rfl, rfl, by decide, rfl, by decide⟩

/-- Slots 1 and 2 are free, and an OLOAD behind a guard has a place in slot 1; a multiplication waits for tile 510. -/
def loading (s : State) : State := { s with jobs := [{ loadJob with kind := .oload 0 1 1 }] }
theorem test_wit_MatrixClaims_busy :
    (let f : Fields := ⟨0, 1, .lit 1, .lit 2, .reg 0, 0⟩
     let s := loading holding
     claimOf (.oclaim f) = some (f, 256, true) ∧ Issues (.oclaim f) f s ∧ rangeOk f s 256 ∧ freeOf f s true = [1, 2] ∧ Busy s true (freeOf f s true) ∧
       ∀ n, rangeIn f s n → holder (s.col (colOf s)) true n = 0 ∨ holder (s.col (colOf s)) true n = mine s) ∧
    (let f : Fields := ⟨0, 1, .lit 61, .lit 1, .reg 0, 0⟩
     let s := holding.setCol 0 { holding.col 0 with ops := [⟨4, 0, 1, .zero 488 1⟩] }
     claimOf (.aclaim f) = some (f, 64, false) ∧ Issues (.aclaim f) f s ∧ rangeOk f s 64 ∧ freeOf f s false = [61] ∧ Busy s false (freeOf f s false) ∧
       ∀ n, rangeIn f s n → holder (s.col (colOf s)) false n = 0 ∨ holder (s.col (colOf s)) false n = mine s) := by
  refine ⟨⟨rfl, by decide, by unfold rangeOk; decide, by decide, by unfold Busy; decide, fun n hn => ?_⟩,
    ⟨rfl, by decide, by unfold rangeOk; decide, by decide, by unfold Busy; decide, fun n hn => ?_⟩⟩
  · have h1 : 1 ≤ n := hn.1
    have h2 : n < 1 + 2 := hn.2
    rcases (by omega : n = 1 ∨ n = 2) with rfl | rfl <;> exact .inl rfl
  · have h1 : 61 ≤ n := hn.1
    have h2 : n < 61 + 1 := hn.2
    obtain rfl : n = 61 := by omega
    exact .inl rfl
/-- A drain of tiles 510 and 511 behind an operation on tile 511, and behind none. -/
theorem test_wit_MatrixTransfers_drain :
    (let f : Fields := ⟨0, 254, .litWord 510, .litWord (15 + 1 * 256), .reg 0, 1⟩
     Ok .adrain f zeroing ∧ zeroing.drainCheck 1 510 15 1 = .inr false ∧ AdrainOk f zeroing ∧ DrainWaits zeroing 1 510 ∧ ¬DrainWaits holding 1 510) ∧
    (let f : Fields := ⟨0, 0, .litWord (pad 4032), .litWord (511 + 15 * 2 ^ 16 + 1 * 2 ^ 24), .lit 0, 0x1E0⟩
     let s := shut base
     Ok .astore f s ∧ guardFalse s f = true ∧ AstoreOk f s ∧ s.drainCheck 0 511 15 1 = .inr true) := by
  refine ⟨⟨by decide, rfl, by simp only [AdrainOk]; decide, ?_, ?_⟩, by decide, by decide, by simp only [AstoreOk]; decide, rfl⟩
  · exact .inl ⟨zeroOp, by decide, 511, by decide, by decide⟩
  · unfold DrainWaits Ordered; decide
/-- A queued drain and a queued claim that are next in their order; a quarter of a fenced sub-array, which the first healthy one runs. -/
def drainOp : MxOp := ⟨5, 0, 1, .drain 1 false 510 15 1 254 32 [0, 31]⟩
def claimOp : MxOp := ⟨6, 0, 1, .claim [1] [61] (some 63)⟩
def queued1 (o : MxOp) : State := holding.setCol 0 { holding.col 0 with ops := [o] }
def fenced3 : State := multiplying.setCol 0 { multiplying.col 0 with fenced := 15 }
theorem test_wit_SubArrays_queued :
    ((queued1 drainOp).columnOfOp? 5 = some (0, drainOp) ∧ (queued1 drainOp).opReady 0 drainOp = true ∧ ((queued1 drainOp).teamOf 1).ended = false ∧
      0 < (queued1 drainOp).groups.length ∧ (32 : Nat) ∈ [16, 32, 64, 128] ∧ (∀ l ∈ [0, 31], l < 32) ∧ [0, 31].Nodup) ∧
    ((queued1 claimOp).columnOfOp? 6 = some (0, claimOp) ∧ (queued1 claimOp).opReady 0 claimOp = true) ∧
    (fenced3.columnOfOp? 3 = some (0, quarterOp) ∧ fenced3.opReady 0 quarterOp = true ∧ (fenced3.col 0).runsOn 3 = 3 ∧ 3 ∉ (fenced3.col 0).proving ∧
      (fenced3.col 0).fenced.getLsbD 3 = true) := by decide

/-- A graph cancelled before, a launch that is peer 255's, a job whose work a peer holds. -/
def withGraph (cs : List (Nat × Nat)) : State := setTenants (setLaunchOf base fun l => { l with graph := 5 }) fun t => { t with cancelled := cs }
def guesting : State := setLaunchOf base fun l => { l with guest := some (255, 2 ^ 32 - 1) }
def areaAway : State := { sentAway with rjobs := [areaJob] }
theorem test_wit_LevelCounts_cancels :
    (Ok .lcancel ⟨0, 63, .lit 0, .reg 0, .reg 0, 1⟩ (withGraph [(1, 5)]) ∧ ((withGraph [(1, 5)]).launches.filter (isUnder (withGraph [(1, 5)]) 1 5)) ≠ [] ∧
      (∀ ten ∈ (withGraph [(1, 5)]).tenants, ten.cancelled.contains (1, 5) = true)) ∧
    (Ok .lcancel ⟨0, 63, .lit 0, .reg 0, .reg 0, 1⟩ (withGraph []) ∧ (∀ ten ∈ (withGraph []).tenants, ten.cancelled.contains (1, 5) = false) ∧
      (withGraph []).away = [] ∧ (∀ l ∈ (withGraph []).launches, l.guest = none)) ∧
    (Ok .lcancel ⟨0, 63, .lit 0, .reg 0, .reg 0, 0⟩ guesting ∧ (∀ l ∈ guesting.launches, l.guest = some (255, 2 ^ 32 - 1) ∧ l.cancelled = false ∧
      l ∈ guesting.launches.filter (isUnder guesting 0 (2 ^ 32 - 1)) ∧ (guesting.launches.filter (isUnder guesting 0 (2 ^ 32 - 1))).head? = some l ∧ guesting.launchOf l.ten l.id = l)) ∧
    (let ls := sentAway.launches.filter (isUnder sentAway 0 1)
     ∀ l ∈ sentAway.launches, l ∈ ls ∧ ls.head? = some l ∧ l.cancelled = false ∧ sentAway.launchOf l.ten l.id = l) := by decide
theorem test_wit_RecoveryPoints_away :
    Ok .ckpt ⟨0, 63, .reg 0, .reg 0, .reg 0, 0⟩ areaAway ∧ areaAway.rjob? 0 0 = some areaJob ∧ areaJob.progress = none ∧ areaJob.hasArea = true ∧
      areaJob.rolling = false ∧ areaAway.team.ten = 0 ∧ areaAway.launch.job = 0 ∧ (∃ p ∈ areaAway.away, p.2.ten = 0 ∧ (areaAway.launchOf 0 p.2.launch).job = 0) ∧
      (withJob areaJob).away = [] ∧ (∀ y ∈ (withJob areaJob).teams, ∀ x ∈ (withJob areaJob).teams, y.uid = x.uid → y = x) := by decide
theorem test_wit_TrapsAndSettings_values :
    let s : State := { base with set := { base.set with supervisor := some 0 } }
    s.set.supervisor = some s.team.ten ∧ Ok .ssets ⟨0, 0, .lit (.ofNat 8 1), .lit 1, .reg 0, 0⟩ s ∧ Ok .ssets ⟨0, 0, .lit (.ofNat 8 1), .lit 2, .reg 0, 0⟩ s ∧
      Ok .ssets ⟨0, 0, .lit (.ofNat 8 2), .lit 3, .reg 0, 0⟩ s ∧ Ok .ssets ⟨0, 0, .lit (.ofNat 8 2), .lit 4, .reg 0, 0⟩ s ∧
      Ok .ssets ⟨0, 0, .lit (.ofNat 8 0), .litWord 0xFFFFFFFFFFC0, .reg 0, 0⟩ s ∧ (0xFFFFFFFFFFC0 : Word).toNat / 2 ^ 48 = 0 ∧ (0xFFFFFFFFFFC0 : Word).toNat % 64 = 0 ∧
      Ok .ssets ⟨0, 0, .lit (.ofNat 8 0), .lit 1, .reg 0, 0⟩ s ∧ (s.scalarSrc (.lit 1)).toNat % 64 ≠ 0 := by decide

/-- A record of one element passes the tensor checks; one of rank 5 fails the second. -/
def plainBytes (r : List Byte) : Bool := (List.range 64).all fun k => !decide ((11 ≤ k ∧ k < 16) ∨ (52 ≤ k ∧ k < 63)) || r.getD k 0 == 0
theorem tensor_first {r : List Byte} (h : plainBytes r = true) (a : part r 8 1 = 0) (c : part r 10 1 = 0) :
    ¬(part r 8 1 / 16 ≠ 0 ∨ part r 10 1 / 2 ≠ 0 ∨ ∃ k, ((11 ≤ k ∧ k < 16) ∨ (52 ≤ k ∧ k < 63)) ∧ r.getD k 0 ≠ 0) := by
  rintro (h1 | h1 | ⟨k, hk, hn⟩)
  · omega
  · omega
  · have := List.all_eq_true.mp h k (List.mem_range.mpr (by omega))
    simp only [hk, decide_true, Bool.not_true, Bool.false_or, beq_iff_eq] at this
    exact hn this
theorem tensor_ok {r : List Byte} (h : plainBytes r = true) (a : part r 8 1 = 0) (b : part r 9 1 = 1) (c : part r 10 1 = 0) (d : part r 0 8 = 0x10000)
    (g : ∀ k, k < 4 → dimOf r k = 1 ∧ strideOf r k = 0) (l : lastByte r = 0x10007) : FirstBad (tensorChecks r) 0 := by
  refine ⟨fun x => (tensor_first h a c x).elim, fun _ => ⟨fun x => ?_, fun _ => ⟨fun ⟨k, hk, x⟩ => ?_, fun _ => ⟨fun x => ?_, fun _ => ⟨fun x => ?_, fun _ => rfl⟩⟩⟩⟩⟩
  · omega
  · have := g k hk; omega
  · rcases x with x | ⟨_, x | ⟨k, hk, x⟩⟩
    · exact absurd (g 0 (by decide)).2 x
    · rw [d, a] at x; exact absurd x (by decide)
    · rw [(g k hk).2] at x; exact absurd (Nat.zero_mod _) x
  · unfold ReachBad at x; simp only [d, l] at x; omega
theorem test_wit_Sealing_tensor : part (rec0 tensorOne) 63 1 = 2 ∧ FirstBad (tensorChecks (rec0 tensorOne)) 0 :=
  ⟨by decide +kernel, tensor_ok (by decide +kernel) (by decide +kernel) (by decide +kernel) (by decide +kernel) (by decide +kernel)
    (by decide +kernel) (by decide +kernel)⟩
theorem test_wit_Sealing_rank : FirstBad (tensorChecks (rec0 (poke tensorOne 0xF89 1 5))) 17 := by
  have b : part (rec0 (poke tensorOne 0xF89 1 5)) 9 1 = 5 := by decide +kernel
  exact ⟨fun x => (tensor_first (by decide +kernel) (by decide +kernel) (by decide +kernel) x).elim,
    fun _ => ⟨fun _ => rfl, fun x => (x (.inr (by rw [b]; decide))).elim⟩⟩
/-- A lane with bytes at a peer asks; nothing orders an install's start later. -/
theorem test_wit_QueryAnswers_peers :
    let x := qlane 0 1 [⟨.remote 255, 2 ^ 48 - 1⟩] none
    let q := query1 0x28B 0 x
    (inFlight1 0 q).queries.find? (fun y => y.id == q.id) = some q ∧ q.lanes[0]? = some x ∧ AsksPeers (inFlight1 0 q) q x ∧ NoneAway (inFlight1 0 q) q 0 ∧
      OrderedFor (flashed region1 install1) 0 6 := by
  refine ⟨by decide, rfl, ⟨rfl, rfl, rfl, ⟨_, List.mem_singleton_self _, rfl⟩, ?_, by decide⟩,
    fun t h => (List.not_mem_nil (show t ∈ ([] : List RemTx) from h)).elim, fun y h => (List.not_mem_nil (show y ∈ ([] : List Sync) from h)).elim⟩
  intro l h hl; obtain rfl := List.mem_singleton.mp h; cases hl

/-- A fetch waits for the answer, and a CWAITGE that its page has gone from, its team asked to stop or not. -/
def unfetched : State := { base.setSplit { base.split with wait := .fetching 0 0 { code := 0x10 } } with reports := [(0, 0)] }
def unanswered2 (r : List Why) : State :=
  { setTeams (base.setSplit { base.split with wait := .answer 0 0 { code := 0x10 } false, resume := .cwait 0 1 4 0x10008 }) fun x => { x with requests := r } with reports := [(0, 0)] }
theorem test_wit_PageEdits_waits :
    (unfetched.spAt (0, 0)).wait = .fetching 0 0 { code := 0x10 } ∧ (unfetched.spAt (0, 0)).live = true ∧ (0, 0) ∈ unfetched.reports ∧ Commands unfetched 0 ∧
    (∀ r ∈ [[], [Why.command]], ((unanswered2 r).spAt (0, 0)).wait = .answer 0 0 { code := 0x10 } false ∧ ((unanswered2 r).spAt (0, 0)).resume = .cwait 0 1 4 0x10008 ∧
      (unanswered2 r).queries = [] ∧ (unanswered2 r).jobs = []) ∧ ((unanswered2 [.command]).teamOf 1).requests ≠ [] ∧ ((unanswered2 []).teamOf 1).requests = [] := by decide

/-- Two items of one tenant: the sequence takes the earlier push first; with every column shut down none is taken. -/
def later1 : Item := { item1 work1 7 0 with id := 20, pushTime := 1 }
theorem test_wit_Dispatching_sequence :
    (let s : State := { base with items := [later1, item1 work1 7 0] }
     InSequence s 7 0 [item1 work1 7 0, later1]) ∧ looked [{ later1 with passes := 64 }, later1] = [{ later1 with passes := 64 }] ∧
    (looked ((List.range 12).map fun k => { later1 with id := k })).length = 9 := by
  refine ⟨⟨List.Perm.swap .., by simp [later1, item1]⟩, by decide, by decide⟩
theorem test_wit_Dispatching_nowhere : ({ hot base 448 64 with items := [item1 work1 7 0] } : State).choice 7 0 = none := by decide +kernel

/-- The other split of a stopped group is inside an instruction it has issued; it stands in a wait of none. -/
def midway (w : Wait) : State := let s := (posting 0).setGrp { (posting 0).grp with stopped := true, s0 := { base.split with fault := some (0x10000, 1) } }
  s.setSpAt (0, 1) { s.spAt (0, 1) with live := true, wait := w }
theorem test_wit_FaultReports_stop : (∀ w ∈ [Wait.drain, .fill [3], .retry, .fence 1 5 true 0x10008, .answer 0 0 { code := 0x10 } false],
      (midway w).posts[0]? = some frec1 ∧ ¬StopWhole (midway w) frec1) ∧ StopWhole (midway .none) frec1 ∧ StopWhole (posting 0) frec1 := by
  refine ⟨fun w hw => ⟨by revert w; decide, fun h => ?_⟩, fun g hg => ?_, fun g hg => ?_⟩
  · have h1 := (h 0 rfl rfl).2
    refine h1 ⟨rfl, rfl, ?_⟩
    simp only [List.mem_cons, List.not_mem_nil, or_false] at hw
    rcases hw with rfl | rfl | rfl | rfl | rfl
    · exact .inl rfl
    · exact .inr (.inr (.inr (.inl ⟨_, rfl⟩)))
    · exact .inr (.inl rfl)
    · exact .inr (.inr (.inl ⟨_, _, _, _, rfl⟩))
    · exact .inr (.inr (.inr (.inr ⟨_, _, _, _, rfl⟩)))
  · cases hg; intro _
    refine ⟨fun ⟨_, x, _⟩ => (by cases x), fun ⟨_, _, x⟩ => ?_⟩
    rcases x with x | x | ⟨_, _, _, _, x⟩ | ⟨_, x⟩ | ⟨_, _, _, _, x⟩ <;> cases x
  · cases hg; exact fun x => by cases x

/-! Rollback: a good generation stands in the job's area; a peer's work, a peer that holds work. -/
theorem good1_checks : sealedArea.genGood rollingJob 1 0 = true := by decide +kernel
theorem good1_entries : recAt (areaBytes sealedArea (rollingJob.area + 0) 64) 16 4 + recAt (areaBytes sealedArea (rollingJob.area + 0) 64) 20 4 = 0 := by decide +kernel
theorem good_of {s : State} {j : RJob} {g m : Nat} (h : s.genGood j g m = true)
    (n : recAt (areaBytes s (j.area + m) 64) 16 4 + recAt (areaBytes s (j.area + m) 64) 20 4 = 0) : GoodGeneration s j g m := by
  simp only [State.genGood, Bool.and_eq_true, beq_iff_eq] at h
  obtain ⟨⟨⟨⟨⟨⟨a, b⟩, c⟩, d⟩, e⟩, f⟩, _⟩ := h
  exact ⟨a, b, c, d, e, f, fun k hk => absurd (Nat.lt_of_lt_of_eq hk n) (Nat.not_lt_zero _)⟩
theorem good1 : GoodGeneration sealedArea rollingJob 1 0 := good_of good1_checks good1_entries
theorem goodGeneration_congr {s : State} {j k : RJob} {g m : Nat} (a : j.area = k.area) (z : j.slotSize = k.slotSize) (h : GoodGeneration s j g m) :
    GoodGeneration s k g m := by
  unfold GoodGeneration at h ⊢; rw [← a, ← z]; exact h
theorem test_wit_Rollbacks_chosen : GoodLast sealedArea rollingJob ∧ rollingJob.norb = false ∧
    (let j := { rollingJob with rpgen := 0, rpprev := 1, rpprevman := 0 }
     ¬GoodLast sealedArea j ∧ GoodBefore sealedArea j) ∧
    (let j := { rollingJob with rpgen := 0, rpprev := 0 }
     ¬GoodLast sealedArea j ∧ ¬GoodBefore sealedArea j) :=
  ⟨⟨Nat.one_ne_zero, good1⟩, rfl, ⟨fun h => h.1 rfl, Nat.one_ne_zero, goodGeneration_congr (j := rollingJob) rfl rfl good1⟩, fun h => h.1 rfl, fun h => h.1 rfl⟩
/-- A peer's job here, to be contained for it; its work also waits in the sequence. -/
def peerJob : RJob := { areaJob with container := some 255 }
def contained : State := { setTeams guesting (fun x => { x with stopped := true }) with rjobs := [peerJob], ctlsem := 1, items := [item1 work1 7 0] }
theorem test_wit_Rollbacks_peers :
    (let s : State := { areaAway with ctlsem := 1 }
     Controls s 0 ∧ IsJob s 0 (.ofNat 64 0) areaJob ∧ HoldsWork s 0 (.ofNat 64 0) 255 ∧ s.teams ≠ []) ∧
    (IsJob contained 0 (.ofNat 64 0) peerJob ∧ peerJob.container = some 255 ∧ contained.biv.phase = 0 ∧
      WorksFor contained 255 0 (.ofNat 64 0) contained.team ∧ Only contained contained.team ∧
      (∃ g, g < contained.groups.length ∧ (contained.grpAt g).team = contained.team.uid ∧ (contained.grpAt g).ended = false)) ∧
    (∀ mine, CommandsDone contained mine) ∧
    (let s : State := { contained with jobs := [job1] }
     WorksFor s 255 0 (.ofNat 64 0) s.team ∧ ¬CommandsDone s (fun u => ∃ x, WorksFor s 255 0 (.ofNat 64 0) x ∧ x.uid = u)) ∧
    (let j := { rollingJob with containing := [9] }
     IsJob (resting j) 0 (.ofNat 64 0) j ∧ j.container = none ∧ j.containing ≠ []) := by
  refine ⟨⟨by decide, by decide, ⟨_, List.mem_singleton.mpr rfl, by decide⟩, by decide⟩, ⟨by decide, rfl, rfl, by unfold WorksFor; decide, only_of (by decide) (by decide),
    0, by decide⟩, fun m => ⟨?_, ?_, ?_⟩, ⟨by unfold WorksFor; decide, fun h => ?_⟩, by decide⟩
  · exact fun x h => (List.not_mem_nil (show x ∈ ([] : List Job) from h)).elim
  · exact fun x h => (List.not_mem_nil (show x ∈ ([] : List Install) from h)).elim
  · exact fun x h => (List.not_mem_nil (show x ∈ ([] : List Pend) from h)).elim
  · have := h.1 job1 (List.mem_singleton.mpr rfl) ⟨_, (by unfold WorksFor; decide : WorksFor { contained with jobs := [job1] } 255 0 (.ofNat 64 0) contained.team), by decide⟩
    exact absurd this (by decide)
/-- A module that sleeps with a job to roll back; and one that is about to, its job's entry checkpoint sealed. -/
def rollingAsleep (w : List (Nat × Item)) : State := { napping 2 rollingJob with away := w, boot := { base.boot with imageHash := sha256 base.boot.image } }
theorem test_wit_Bivouac_rolling : (let s := rollingAsleep []
    s.biv.phase = 2 ∧ s.boot.brstate = 5 ∧ s.rjobs = [rollingJob] ∧ rollingJob.rolling = true ∧ rollingJob.containing = [] ∧ ∀ p, ¬HoldsWork s rollingJob.ten rollingJob.id p) ∧
    (let s := rollingAsleep [(9, item1 work1 7 0)]
     s.biv.phase = 2 ∧ s.boot.brstate = 5 ∧ HoldsWork s rollingJob.ten rollingJob.id 9) ∧
    (∀ w, sha256 (rollingAsleep w).boot.image = (rollingAsleep w).boot.imageHash) := by
  refine ⟨⟨rfl, by decide, rfl, rfl, rfl, fun p ⟨q, h, _⟩ => (List.not_mem_nil (show q ∈ ([] : List (Nat × Item)) from h)).elim⟩,
    ⟨rfl, by decide, _, List.mem_singleton.mpr rfl, by decide⟩, fun w => by simp only [rollingAsleep]⟩
theorem test_wit_Bivouac_sealed : (let s := napping 1 { areaJob with sealed := [ckpt2] }
    s.biv.phase = 1 ∧ (∀ j ∈ s.rjobs, j.progress = none) ∧ (∀ x ∈ s.teams, x.ended = true ∨ 512 ≤ x.col ∨ x.stopped = true) ∧
      s.rjob? s.team.ten (s.launchOf s.team.ten s.team.launch).job = some { areaJob with sealed := [ckpt2] } ∧ ckpt2.entry = true ∧
      ckpt2.images.find? (fun y => y.team.uid == s.team.uid) = some image1) ∧ Settled (napping 1 { areaJob with sealed := [ckpt2] }) :=
  ⟨by decide, ⟨by decide, by decide, by decide, by decide⟩⟩

/-! Arrivals, cancels and containment from peers; an LCANCEL's message that is given up; the floor's bounds. -/

/-- An image with a tensor handle and a string handle, whose string stands in the indexed page here. -/
def carriedDir : Dir := { id := 5, ten := 9, base := 0x11000, len := 8, kind := 0, labels := 0, values := 0, nodes := 0, stack := 3, pages := [], built := true, sealedOnes := [], parts := .empty }
def carriedImage : Image := { image1 with
  team := { base.team with handles := [⟨0, 1, .tensor []⟩, ⟨1, 2, .bits 5⟩] }, dirs := [carriedDir] }
theorem test_wit_Outsiders_arrival : (let s := record 1 0 1
    Hears s ∧ s.tenantOf? 0 ≠ none ∧ s.launches.length < 2 ^ 31 ∧ (∀ l ∈ s.launches, ¬(l.ten = 0 ∧ l.guest = some (255, 2 ^ 32 - 1))) ∧
      (∃ h ∈ carriedImage.team.handles, ∃ r, h.kind = .tensor r) ∧
      (∃ h ∈ carriedImage.team.handles, ∃ n d, h.kind = .bits n ∧ carriedImage.dirs.find? (fun y => y.id == n) = some d ∧
        (s.stringPages 0 d.base ((d.len + 7) / 8)).isSome = true)) ∧ DescriptorOk (desc described) := by
  refine ⟨⟨by decide +kernel, by decide +kernel, by decide +kernel, by decide +kernel, ⟨_, List.mem_cons_self .., _, rfl⟩,
    ⟨_, List.mem_cons_of_mem _ (List.mem_cons_self ..), 5, carriedDir, rfl, by decide, by decide +kernel⟩⟩, test_wit_Spawns_desc.1⟩
theorem test_wit_Outsiders_cancels :
    (Hears guesting ∧ ∀ l ∈ guesting.launches, guesting.launches.find? (fun l => l.ten == 0 && l.guest == some (255, 2 ^ 32 - 1)) = some l ∧ guesting.launchOf 0 l.id = l) ∧
    (Hears sentAway ∧ (∃ l ∈ sentAway.launches, l.ten = 0 ∧ l.id = 1) ∧ (255 ≠ 9 ∧ ∃ q ∈ sentAway.away, q.1 = 255 ∧ q.2.ten = 0 ∧ q.2.launch = 1)) ∧
    (∀ p, ¬(p ≠ 255 ∧ ∃ q ∈ sentAway.away, q.1 = p ∧ q.2.ten = 0 ∧ q.2.launch = 1)) := by
  refine ⟨by decide, by decide, fun p ⟨hp, q, hq, e, _⟩ => ?_⟩
  obtain rfl := List.mem_singleton.mp hq
  exact hp e.symm
theorem test_wit_Outsiders_contain : Hears contained ∧ IsJob contained 0 0 peerJob ∧ WorksFor contained 255 0 0 contained.team ∧ Only contained contained.team :=
  ⟨by decide, by decide, by unfold WorksFor; decide, only_of (by decide) (by decide)⟩
/-- An LCANCEL's messages to two peers, no link leading to either. -/
def cancelTo (p : Nat) (w : TxWho) : RemTx := { rem1 with peer := p, op := .cancel 0 1, who := w }
def cancelling : State := { base with remote := [cancelTo 3 .told, cancelTo 2 .told] }
theorem test_wit_Fabric_told : cancelling.remote[0]? = some (cancelTo 3 .told) ∧ (cancelTo 3 .told).resent = true ∧ ¬Linked cancelling 3 ∧
    cancels (cancelTo 3 .told) ∧ (cancelling.grpAt 0).ended = false ∧ (∃ y ∈ cancelling.remote, y ≠ cancelTo 3 .told) ∧
    ({ base with remote := [cancelTo 3 (.relay 9 1)] } : State).remote[0]? = some (cancelTo 3 (.relay 9 1)) := by
  refine ⟨rfl, rfl, fun ⟨n, _, h, _⟩ => ?_, ⟨0, 1, rfl⟩, rfl, ⟨cancelTo 2 .told, List.mem_cons_of_mem _ (List.mem_singleton_self _), fun h => ?_⟩, rfl⟩
  · have : link cancelling n = .empty := rfl
    rw [this] at h; cases h
  · exact absurd (congrArg RemTx.peer h) (by decide)
theorem test_wit_Ports_floor : Controls ruled 0 ∧ settingOf .refreshFloor = some (500, 950, (·.floor)) ∧ (500 ≤ (950 : Word).toNat ∧ (950 : Word).toNat ≤ 950) ∧
    950 < (951 : Word).toNat := ⟨by decide, rfl, by decide, by decide⟩

end Sys2Proof.Tests
end

section
/-!
PROOFS. Issue: an instruction that passes its checks has its own effect, and one scalar result is a write to the executing group
alone.
-/
namespace Sys2Proof.Machine
open Claims

variable {s : State} {i : Instr} {f : Fields}

/-! ## Closing the region at issue (R301) -/

theorem State.grp_closeRegion (h : Here s) : s.closeRegion.grp = { s.grp with regionOpen := false } :=
  s.grp_setGrp _ h

theorem State.split_closeRegion (h : Here s) : s.closeRegion.split = s.split := by
  rw [State.split, State.grp_closeRegion h]; rfl

theorem State.team_closeRegion (h : Here s) : s.closeRegion.team = s.team := by
  rw [State.team, State.grp_closeRegion h]; rfl

theorem State.launch_closeRegion (h : Here s) : s.closeRegion.launch = s.launch := by
  rw [State.launch, State.team_closeRegion h]; rfl

theorem State.batchDone_closeRegion (h : Here s) : s.closeRegion.batchDone s.cur = s.batchDone s.cur := by
  have hg : s.closeRegion.grpAt s.cur = { s.grp with regionOpen := false } := State.grp_closeRegion h
  simp only [State.batchDone, State.openWork, hg]
  rfl

theorem State.doneFault_closeRegion (h : Here s) : s.closeRegion.doneFault = s.doneFault := by
  simp only [State.doneFault, State.grp_closeRegion h, show s.closeRegion.cur = s.cur from rfl, State.batchDone_closeRegion h]

theorem State.eff_closeRegion (h : Here s) (msk : Nat) : s.closeRegion.eff msk = s.eff msk := by
  simp only [State.eff, State.rdM, State.split_closeRegion h, State.grp_closeRegion h]

/-- A special register reads the same whether the region is open or closed. -/
theorem State.special_closeRegion (h : Here s) (n : Nat) : s.closeRegion.special n = s.special n := by
  simp only [State.special, State.mqstat, State.grp_closeRegion h, State.team_closeRegion h, State.launch_closeRegion h,
    show s.closeRegion.cur = s.cur from rfl, State.batchDone_closeRegion h]
  rfl

theorem State.scalarSrc_closeRegion (h : Here s) (x : Src) : s.closeRegion.scalarSrc x = s.scalarSrc x := by
  cases x with
  | reg n => simp only [State.scalarSrc, State.src64, State.grp_closeRegion h]; rfl
  | sca n => simp only [State.scalarSrc, State.src64, State.sca, State.rdS, State.grp_closeRegion h, State.special_closeRegion h]; rfl
  | cst k => simp only [State.scalarSrc, State.src64, State.launch_closeRegion h]
  | lit v => rfl
  | litWord w => rfl

/-! ## Issue (R44, R132, R355) -/

theorem State.anyLane_iff : s.anyLane i f.msk.toNat = true ↔ Effective i f s := by
  unfold State.anyLane Effective
  split <;> simp

theorem State.anyLane_closeRegion (h : Here s) (msk : Nat) : s.closeRegion.anyLane i msk = s.anyLane i msk := by
  simp only [State.anyLane, State.split_closeRegion h, State.eff_closeRegion h]

theorem State.anyLane_closed (h : Here s) (msk : Nat) : (closed i s).anyLane i msk = s.anyLane i msk := by
  unfold closed
  split
  · exact State.anyLane_closeRegion h msk
  · rfl

theorem State.doneFault_closed (h : Here s) : (closed i s).doneFault = s.doneFault := by
  unfold closed
  split
  · exact State.doneFault_closeRegion h
  · rfl

/-- An instruction that issues has its own effect, on the state with the region closed where it closes one. -/
theorem State.issue_of_issues (k : State → State) (h : Issues i f s) : s.issue i f k = .next (k (closed i s)) := by
  obtain ⟨here, hc, hd⟩ := h
  have hnone : (if (closed i s).anyLane i f.msk.toNat && (readsDone f.a || readsDone f.b || readsDone f.c) then
      (closed i s).doneFault else none) = none := by
    rw [State.anyLane_closed here, State.doneFault_closed here]
    split
    · next hx =>
      obtain ⟨hlane, hread⟩ := Bool.and_eq_true_iff.mp hx
      exact hd hread (State.anyLane_iff.mp hlane)
    · rfl
  simp only [State.issue, hc, show (if i.closes = true then s.closeRegion else s) = closed i s from rfl, hnone]

/-! ## What a write to the executing group alone leaves -/

theorem outside_setGrp (s : State) (g : Group) : Outside s (s.setGrp g) where
  rest := rfl
  count := s.groups_length_setGrp g
  others _ hj := s.grpAt_setGrpAt_ne g hj
  bytes l hl := by
    obtain ⟨sp, a⟩ := l
    cases sp with
    | win =>
      obtain hl | hl := hl
      · exact absurd rfl hl
      · show (s.setGrp g).rdWin a = s.rdWin a
        unfold State.rdWin
        dsimp only at hl
        split
        · omega
        · omega
        · rfl
        · rfl
    | _ => rfl

theorem State.setGrp_grp (h : Here s) : s.setGrp s.grp = s := by
  have hget : s.grp = s.groups[s.cur] := by simp [State.grp, State.grpAt, List.getElem?_eq_getElem h]
  rw [hget, State.setGrp, State.setGrpAt, List.set_getElem_self]

/-- A register result and the next instruction are one write to the executing group. -/
theorem State.retS_closed (h : Here s) (r : BitVec 8) (v : Word) : (closed i s).retS i r v =
    s.setGrp ((({ s.grp with regionOpen := !i.closes && s.grp.regionOpen } : Group).wrS r.toNat v).setSp s.curSplit
      { s.split with pc := s.split.pc + BitVec.ofNat 64 (8 * i.words), wait := .none, since := s.tick + 1 }) := by
  have hs (g : Group) : (s.setGrp g).retS i r v = s.setGrp ((g.wrS r.toNat v).setSp s.curSplit
      { g.sp s.curSplit with pc := (g.sp s.curSplit).pc + .ofNat 64 (8 * i.words), wait := .none, since := s.tick + 1 }) := by
    have hg : (s.setGrp g).grp = g := s.grp_setGrp g h
    have hw : ((s.setGrp g).wrS r.toNat v) = s.setGrp (g.wrS r.toNat v) := by rw [State.wrS, hg, State.setGrp_setGrp]
    have hw' : (s.setGrp (g.wrS r.toNat v)).grp = g.wrS r.toNat v := s.grp_setGrp _ h
    rw [State.retS, hw, State.retire, State.goto, State.setSplit, State.split, hw', State.setGrp_setGrp]
    rfl
  unfold closed
  cases i.closes with
  | true => exact hs _
  | false =>
    rw [if_neg Bool.false_ne_true]
    exact (congrArg (·.retS i r v) (State.setGrp_grp h).symm).trans (hs s.grp)

/-- An instruction that issues and returns `v` gives register `r` the value, and does nothing else. -/
theorem scaResult_retS (h : Here s) (r : BitVec 8) (v : Word) : ScaResult i s ((closed i s).retS i r v) r.toNat v := by
  rw [State.retS_closed h]
  have hg := fun g => s.grp_setGrp g h
  have hsp := fun g => show (s.setGrp g).split = g.sp s.curSplit by rw [State.split, hg]; rfl
  exact {
    scalars := fun k => by rw [State.rdS, hg, Group.rdS_setSp, Group.rdS_wrS]; rfl
    vectors := fun k l _ => by rw [hg, Group.rdV_setSp]; rfl
    masks := fun k => by rw [State.rdM, hg, hsp, Group.sp_setSp, Group.masks_setSp]; rfl
    moved := ⟨by rw [hsp, Group.sp_setSp], by rw [State.partner, hg]; exact Group.sp_setSp_other ..⟩
    kept := by
      rw [GroupKept, hg]
      cases i.closes <;> (unfold Group.setSp; split <;> rfl)
    outside := outside_setGrp s _ }

end Sys2Proof.Machine
end

section
/-!
PROOFS. DRAM: translation and wide reads depend on its bytes alone, and what a wide write leaves; images and places in them.
-/
namespace Sys2Proof.Machine
open Claims

/-! ## Translation reads DRAM and the roots of the tables alone (R95) -/

theorem State.rdB_mem_congr {s t : State} (hm : t.mem = s.mem) (hf : t.fill = s.fill) (ix dur : Bool) (c : Nat) :
    t.rdB ⟨.mem ix dur, c⟩ = s.rdB ⟨.mem ix dur, c⟩ := by
  have hp : t.isPending .dram (c / 64) = s.isPending .dram (c / 64) := by rw [State.isPending_eq, hf, State.isPending_eq]
  show (if t.isPending .dram (c / 64) then 0 else Memory.rd t.mem c) = if s.isPending .dram (c / 64) then 0 else Memory.rd s.mem c
  rw [hp, hm]

theorem State.rdN_mem_congr {s t : State} (hm : t.mem = s.mem) (hf : t.fill = s.fill) (ix dur : Bool) (c n : Nat) :
    t.rdN ⟨.mem ix dur, c⟩ n = s.rdN ⟨.mem ix dur, c⟩ n := by
  induction n generalizing c with
  | zero => rfl
  | succ n ih => simp only [State.rdN, Loc.plus, State.rdB_mem_congr hm hf, ih]

theorem State.walkFrom_congr {s t : State} (hm : t.mem = s.mem) (hf : t.fill = s.fill) (va fuel tbl : Nat) :
    t.walkFrom va fuel tbl = s.walkFrom va fuel tbl := by
  have hp : t.rdPte = s.rdPte := funext fun _ => funext fun _ => State.rdN_mem_congr hm hf _ _ _ _
  induction fuel generalizing tbl with
  | zero => rfl
  | succ n ih =>
    unfold State.walkFrom State.replicasOk
    rw [hp, funext ih]

theorem State.walk_congr {s t : State} (hm : t.mem = s.mem) (hf : t.fill = s.fill) (ht : t.tenants = s.tenants) (ten va : Nat) :
    t.walk ten va = s.walk ten va := by
  unfold State.walk State.tenantOf?
  rw [ht]
  split
  · exact State.walkFrom_congr hm hf ..
  · rfl

/-! ## Bytes of DRAM written one after another (R16, R101) -/

/-- A write in DRAM changes the memory and the fill-pending lines, nothing else. -/
theorem State.wrB_mem_others (s : State) (ix dur : Bool) (a : Nat) (b : Byte) :
    ∃ m f, s.wrB ⟨.mem ix dur, a⟩ b = { s with mem := m, fill := f } := by
  simp only [State.wrB]
  split
  · exact ⟨_, _, rfl⟩
  · exact ⟨_, s.fill, rfl⟩

theorem State.wrN_mem_others (s : State) (ix dur : Bool) (a n v : Nat) :
    ∃ m f, s.wrN ⟨.mem ix dur, a⟩ n v = { s with mem := m, fill := f } := by
  induction n generalizing s a v with
  | zero => exact ⟨s.mem, s.fill, rfl⟩
  | succ n ih =>
    obtain ⟨m, f, hb⟩ := s.wrB_mem_others ix dur a (.ofNat 8 v)
    obtain ⟨m', f', hr⟩ := ih (s.wrB ⟨.mem ix dur, a⟩ (.ofNat 8 v)) (a + 1) (v / 256)
    exact ⟨m', f', by rw [State.wrN, Loc.plus, hr, hb]⟩

theorem State.copyBytes_others (s : State) (src dst n : Nat) : ∃ m f, s.copyBytes src dst n = { s with mem := m, fill := f } := by
  induction n generalizing s with
  | zero => exact ⟨s.mem, s.fill, rfl⟩
  | succ n ih =>
    obtain ⟨m, f, hb⟩ := s.wrB_mem_others false false (dst + n) (s.rdB ⟨.mem false false, src + n⟩)
    obtain ⟨m', f', hr⟩ := ih (s.wrB ⟨.mem false false, dst + n⟩ (s.rdB ⟨.mem false false, src + n⟩))
    exact ⟨m', f', by rw [State.copyBytes, hr, hb]⟩

/-- A wide write changes no byte outside its own. -/
theorem State.rdB_wrN_frame (s : State) (ix dur jx jur : Bool) (a n v c : Nat) (h : c < a ∨ a + n ≤ c) :
    (s.wrN ⟨.mem ix dur, a⟩ n v).rdB ⟨.mem jx jur, c⟩ = s.rdB ⟨.mem jx jur, c⟩ := by
  induction n generalizing s a v with
  | zero => rfl
  | succ n ih =>
    simp only [State.wrN, Loc.plus]
    rw [ih _ _ _ (by omega), State.rdB_wrB_mem, if_neg (by omega)]

/-- A wide read of the place of a wide write gives the value written. -/
theorem State.rdN_wrN (s : State) (ix dur : Bool) (a n v : Nat) :
    (s.wrN ⟨.mem ix dur, a⟩ n v).rdN ⟨.mem ix dur, a⟩ n = v % 256 ^ n := by
  induction n generalizing s a v with
  | zero => exact (Nat.mod_one v).symm
  | succ n ih =>
    have hlow : ((BitVec.ofNat 8 v).toNat : Nat) = v % 256 := BitVec.toNat_ofNat ..
    simp only [State.rdN, State.wrN, Loc.plus]
    rw [State.rdB_wrN_frame _ _ _ _ _ _ _ _ _ (by omega), State.rdB_wrB_mem, if_pos rfl, ih, hlow, ← Nat.mod_mul, ← Nat.pow_succ']

/-- Bytes copied to a place that does not meet theirs stand there, every other byte is as it was. -/
theorem State.rdB_copyBytes (s : State) (jx jur : Bool) (src dst n c : Nat) (h : src + n ≤ dst ∨ dst + n ≤ src) :
    (s.copyBytes src dst n).rdB ⟨.mem jx jur, c⟩ =
      if dst ≤ c ∧ c < dst + n then s.rdB ⟨.mem jx jur, src + (c - dst)⟩ else s.rdB ⟨.mem jx jur, c⟩ := by
  induction n generalizing s with
  | zero => rw [if_neg (by omega)]; rfl
  | succ n ih =>
    rw [State.copyBytes, ih _ (by omega)]
    by_cases hin : dst ≤ c ∧ c < dst + n
    · rw [if_pos hin, if_pos (by omega), State.rdB_wrB_mem, if_neg (by omega)]
    · rw [if_neg hin, State.rdB_wrB_mem]
      by_cases hlast : c = dst + n
      · subst hlast
        rw [if_pos rfl, if_pos (by omega), Nat.add_sub_cancel_left]
        rfl
      · rw [if_neg hlast, if_neg (by omega)]

/-! ## Places under way, in images too (R75) -/

theorem Item.image?_mapImage (k : Image → Image) (i : Item) : (i.mapImage k).image? = i.image?.map k := by
  cases h : i.work <;> simp only [Item.mapImage, Item.image?, h, Option.map]

theorem filterMap_image?_mapImage (k : Image → Image) (l : List Item) :
    (l.map (Item.mapImage k)).filterMap Item.image? = (l.filterMap Item.image?).map k := by
  rw [List.filterMap_map, List.map_filterMap]
  exact congrFun (congrArg _ (funext (Item.image?_mapImage k))) l

theorem Ckpt.allImages_mapImages (k : Image → Image) (c : Ckpt) : (c.mapImages k).allImages = c.allImages.map k := by
  simp only [Ckpt.allImages, Ckpt.mapImages, filterMap_image?_mapImage, List.map_append]

/-- Mapping the images maps each of them. -/
theorem State.images_mapImages (s : State) (k : Image → Image) : (s.mapImages k).images = s.images.map k := by
  have haway : (s.away.map fun p => (p.1, p.2.mapImage k)).map (·.2) = (s.away.map (·.2)).map (Item.mapImage k) := by
    simp only [List.map_map, Function.comp_def]
  have hjob (j : RJob) : ((j.progress.map (Ckpt.mapImages k)).toList ++ j.sealed.map (Ckpt.mapImages k)).flatMap Ckpt.allImages =
      ((j.progress.toList ++ j.sealed).flatMap Ckpt.allImages).map k := by
    have hl : (j.progress.map (Ckpt.mapImages k)).toList ++ j.sealed.map (Ckpt.mapImages k) = (j.progress.toList ++ j.sealed).map (Ckpt.mapImages k) := by
      cases j.progress <;> rfl
    rw [hl, List.flatMap_map, List.map_flatMap]
    simp only [Ckpt.allImages_mapImages]
  unfold State.images State.mapImages
  dsimp only
  rw [haway, ← List.map_append, filterMap_image?_mapImage, List.flatMap_map, funext hjob, List.map_append, List.map_flatMap]

theorem State.mapLocs_images_installs (s : State) (k : Loc → Loc) :
    (s.mapLocs k).images.map (fun i => i.installs) = s.images.map fun i => i.installs.map (Install.mapLoc k) := by
  rw [State.mapLocs, State.images_mapImages, List.map_map]
  rfl

end Sys2Proof.Machine
end

section
/-!
PROOFS. PGMOVE (R74, R76): the model's words for a page, its target and its place are those of the statement, and what PGMOVE
answers case by case.
-/
namespace Sys2Proof.Machine
open Claims

variable {s : State} {a t : Word} {e : Nat}

/-! ## The words of R74 and R76 -/

theorem moveTarget_eq (n col : Nat) : moveTarget n col = targetOf n col := by
  unfold moveTarget targetOf
  rcases Nat.lt_or_ge n 0x200 with h | h
  · rw [if_pos h, if_pos (show n ≤ 0x1FF by omega)]
  · rw [if_neg (show ¬n < 0x200 by omega), if_neg (show ¬n ≤ 0x1FF by omega), decide_eq_true h, Bool.true_and]
    simp only [decide_eq_true_eq]

theorem moveEligible_iff (e : Nat) : moveEligible e = true ↔ Movable e := by
  simp only [moveEligible, Bool.and_eq_true, decide_eq_true_eq, Bool.not_eq_true', and_assoc]
  rfl

theorem standsAt_eq_iff (e : Nat) (g : Nat × Nat) : standsAt e = g ↔ (ptePlc e == g.1 && pteTgt e == g.2) = true := by
  rw [Bool.and_eq_true, beq_iff_eq, beq_iff_eq]
  exact Prod.ext_iff

/-! ## What PGMOVE answers (R76) -/

theorem State.pgmove_beyond (pin : Bool) (h : a.toNat / 2 ^ 48 ≠ 0) : s.pgmove pin a t = (5, s) :=
  if_pos (bne_iff_ne.mpr h)

theorem State.pgmove_noLeaf (pin : Bool) (h : s.walk s.team.ten a.toNat = .absent ∨ s.walk s.team.ten a.toNat = .malformed) :
    s.pgmove pin a t = (5, s) := by
  rcases h with h | h <;> simp only [State.pgmove, h, ite_self]

section Within
variable (pin : Bool) (ha : a.toNat / 2 ^ 48 = 0) (hw : s.walk s.team.ten a.toNat = .leaf e)
include ha hw

theorem State.pgmove_foreign (ht : e / 2 ^ 55 % 32 ≠ s.team.ten) : s.pgmove pin a t = (5, s) := by
  have ht : (pteTen e != s.team.ten) = true := bne_iff_ne.mpr ht
  simp only [State.pgmove, ha, hw, ht, bne_self_eq_false, Bool.false_eq_true, if_false, if_true]

variable (ht : e / 2 ^ 55 % 32 = s.team.ten)
include ht

theorem State.pgmove_noTarget (hg : targetOf t.toNat s.team.col = none) : s.pgmove pin a t = (4, s) := by
  have ht : (pteTen e != s.team.ten) = false := bne_eq_false_iff_eq.mpr ht
  simp only [State.pgmove, ha, hw, ht, bne_self_eq_false, Bool.false_eq_true, if_false, moveTarget_eq, hg]

variable {g : Nat × Nat} (hg : targetOf t.toNat s.team.col = some g)
include hg

theorem State.pgmove_fixed (hm : ¬Movable e) : s.pgmove pin a t = (2, s) := by
  have ht : (pteTen e != s.team.ten) = false := bne_eq_false_iff_eq.mpr ht
  have hm : moveEligible e = false := Bool.eq_false_iff.mpr fun h => hm ((moveEligible_iff e).mp h)
  simp only [State.pgmove, ha, hw, ht, bne_self_eq_false, Bool.false_eq_true, if_false, moveTarget_eq, hg, hm, Bool.not_false, if_true]

variable (hm : Movable e)
include hm

/-- A page that may move, for a target: where it stands, the room and the part's word for a frame are looked at in turn. -/
theorem State.pgmove_movable : s.pgmove pin a t =
    if standsAt e = g then (1, { s with
      pinned := pinnedBy s (firstPage e a.toNat) pin
      migrations := if pin then movesBut s (firstPage e a.toNat) else s.migrations })
    else if s.hasRoom g.1 g.2 (pageUnits (e / 2 ^ 60 % 8)) = false then (3, s)
    else if s.fresh.1.getLsbD 0 then (3, { s with freeCtr := s.freeCtr + 1 })
    else (0, { s with
      freeCtr := s.freeCtr + 1, pinned := pinnedBy s (firstPage e a.toNat) pin
      migrations := movesBut s (firstPage e a.toNat) ++ [⟨s.team.ten, 4096 * firstPage e a.toNat, g.1 * 512 + g.2, false⟩] }) := by
  have ht : (pteTen e != s.team.ten) = false := bne_eq_false_iff_eq.mpr ht
  have hm : moveEligible e = true := (moveEligible_iff e).mpr hm
  have hmodel : s.pgmove pin a t = if ptePlc e == g.1 && pteTgt e == g.2 then
        (1, (if pin then s.dropMigration s.team.ten (4096 * firstPage e a.toNat) else s).setPin s.team.ten (firstPage e a.toNat) pin)
      else if !s.hasRoom g.1 g.2 (pageUnits (e / 2 ^ 60 % 8)) then (3, s)
      else if s.fresh.1.getLsbD 0 then (3, s.fresh.2)
      else (0, { (s.fresh.2.dropMigration s.team.ten (4096 * firstPage e a.toNat)).setPin s.team.ten (firstPage e a.toNat) pin with
        migrations := movesBut s (firstPage e a.toNat) ++ [⟨s.team.ten, 4096 * firstPage e a.toNat, g.1 * 512 + g.2, false⟩] }) := by
    simp only [State.pgmove, ha, hw, ht, bne_self_eq_false, Bool.false_eq_true, if_false, moveTarget_eq, hg, hm, Bool.not_true]
    rfl
  rw [hmodel]
  refine ite_congr (propext (standsAt_eq_iff e g).symm) (fun _ => ?_) fun _ =>
    ite_congr (Bool.not_eq_true' _) (fun _ => rfl) fun _ => ite_congr rfl (fun _ => rfl) fun _ => ?_
  · cases pin <;> rfl
  · cases pin <;> simp only [State.setPin, State.fresh, State.dropMigration, pinnedBy, if_true, Bool.false_eq_true, if_false,
      List.nil_append, List.singleton_append]

end Within

/-! ## The instruction -/

theorem State.walk_closeRegion (ten va : Nat) : s.closeRegion.walk ten va = s.walk ten va :=
  State.walk_congr (s := s) (t := s.closeRegion) rfl rfl rfl ten va

theorem State.dropMigration_closeRegion (ten va : Nat) : s.closeRegion.dropMigration ten va = (s.dropMigration ten va).closeRegion := rfl
theorem State.setPin_closeRegion (ten page : Nat) (pin : Bool) : s.closeRegion.setPin ten page pin = (s.setPin ten page pin).closeRegion := rfl

/-- PGMOVE does the same whether the region is open or closed. -/
theorem State.pgmove_closeRegion (h : Here s) (pin : Bool) (a t : Word) :
    s.closeRegion.pgmove pin a t = ((s.pgmove pin a t).1, (s.pgmove pin a t).2.closeRegion) := by
  have hroom : s.closeRegion.hasRoom = s.hasRoom := rfl
  have hfresh : s.closeRegion.fresh = (s.fresh.1, s.fresh.2.closeRegion) := rfl
  unfold State.pgmove
  dsimp only
  rw [State.team_closeRegion h, State.walk_closeRegion, hroom, hfresh]
  by_cases ha : (a.toNat / 2 ^ 48 != 0) = true
  · rw [if_pos ha, if_pos ha]
  rw [if_neg ha, if_neg ha]
  cases s.walk s.team.ten a.toNat with
  | absent => rfl
  | malformed => rfl
  | leaf e =>
    dsimp only
    by_cases ht : (pteTen e != s.team.ten) = true
    · rw [if_pos ht, if_pos ht]
    rw [if_neg ht, if_neg ht]
    cases moveTarget t.toNat s.team.col with
    | none => rfl
    | some g =>
      simp only [State.dropMigration_closeRegion, State.setPin_closeRegion]
      generalize (s.fresh.2.dropMigration s.team.ten (4096 * pageBase e a.toNat)).setPin s.team.ten (pageBase e a.toNat) pin = x
      by_cases hm : (!moveEligible e) = true
      · rw [if_pos hm, if_pos hm]
      rw [if_neg hm, if_neg hm]
      by_cases hst : (ptePlc e == g.1 && pteTgt e == g.2) = true
      · rw [if_pos hst, if_pos hst]
        cases pin <;> rfl
      rw [if_neg hst, if_neg hst]
      by_cases hr : (!s.hasRoom g.1 g.2 (pageUnits (pteSize e))) = true
      · rw [if_pos hr, if_pos hr]
      rw [if_neg hr, if_neg hr]
      by_cases hfree : s.fresh.1.getLsbD 0 = true
      · rw [if_pos hfree, if_pos hfree]
      rw [if_neg hfree, if_neg hfree]
      rfl

/-- What PGMOVE answers is the result of its instruction. -/
theorem exec_pgmove {f : Fields} (h : Issues (.pgmove f) f s) {n : Nat} {s' : State}
    (hp : s.pgmove (f.mod.getLsbD 0) (s.scalarSrc f.a) (s.scalarSrc f.b) = (n, s')) (here : Here s') :
    ∃ t, exec (.pgmove f) s = .next t ∧ ScaResult (.pgmove f) s' t f.dst.toNat (.ofNat 64 n) := by
  refine ⟨_, ?_, scaResult_retS here f.dst (.ofNat 64 n)⟩
  show execPgmove f s = _
  unfold execPgmove
  rw [State.issue_of_issues _ h]
  show Host.Outcome.next (let (v, s) := s.closeRegion.pgmove (f.mod.getLsbD 0) (s.closeRegion.scalarSrc f.a) (s.closeRegion.scalarSrc f.b)
    s.retS (.pgmove f) f.dst (.ofNat 64 v)) = _
  rw [State.scalarSrc_closeRegion h.1, State.scalarSrc_closeRegion h.1, State.pgmove_closeRegion h.1, hp]
  rfl

end Sys2Proof.Machine
end

section
/-!
PROOFS. The start and the switch of a page move (R74, R75, R97).
-/
namespace Sys2Proof.Machine
open Claims

variable {s : State} {ten va e : Nat}

/-! ## A move begins (R74) -/

/-- A target a move names has room for the page. -/
def State.mayMoveTo (s : State) (e t : Nat) : Bool := targetOk t && s.hasRoom (t / 512) (t % 512) (pageUnits (e / 2 ^ 60 % 8))

section Start
variable (target : Nat) (hw : s.walk ten va = .leaf e) (hm : Movable e) (ht : e / 2 ^ 55 % 32 = ten)
include hw hm ht

/-- A page that may move begins the move PGMOVE asked for, or one by policy unless it is pinned. -/
theorem State.pageMigrationStart_eq : execPageMigrationStart ten va target s = .next
    (match s.migrations.find? fun m => m.ten == ten && m.va == 4096 * firstPage e va with
      | some m => if s.mayMoveTo e m.target then { s with migrations := s.migrations.map fun x => if x = m then { x with copying := true } else x } else s
      | none => if s.pinned.contains (ten, firstPage e va) || !s.mayMoveTo e target then s
        else { s with migrations := s.migrations ++ [⟨ten, 4096 * firstPage e va, target, true⟩] }) := by
  have hok : (!moveEligible e || pteTen e != ten) = false := by
    rw [(moveEligible_iff e).mpr hm, bne_eq_false_iff_eq.mpr (show pteTen e = ten from ht)]; rfl
  simp only [execPageMigrationStart, hw, hok, Bool.false_eq_true, if_false]
  rfl

theorem State.pageMigrationStart_asked {m : Migration} (hq : s.migrations.find? (fun m => m.ten == ten && m.va == 4096 * firstPage e va) = some m) :
    execPageMigrationStart ten va target s = .next (if s.mayMoveTo e m.target
      then { s with migrations := s.migrations.map fun x => if x = m then { x with copying := true } else x } else s) := by
  rw [State.pageMigrationStart_eq target hw hm ht, hq]

theorem State.pageMigrationStart_policy (hq : s.migrations.find? (fun m => m.ten == ten && m.va == 4096 * firstPage e va) = none) :
    execPageMigrationStart ten va target s = .next (if (ten, firstPage e va) ∈ s.pinned ∨ s.mayMoveTo e target = false then s
      else { s with migrations := s.migrations ++ [⟨ten, 4096 * firstPage e va, target, true⟩] }) := by
  rw [State.pageMigrationStart_eq target hw hm ht, hq]
  refine congrArg _ (ite_congr (propext ?_) (fun _ => rfl) fun _ => rfl)
  rw [Bool.or_eq_true, List.contains_iff_mem, Bool.not_eq_true']

end Start

/-! ## The entry of a page moved (R75, R96) -/

/-- The entry that names the new frame: placement and NI as the target has them, all else as it was. -/
def movedEntry (e frame target : Nat) : Nat :=
  e - e / 2 ^ 12 % 2 ^ 32 * 2 ^ 12 - e / 2 ^ 44 % 2 ^ 11 * 2 ^ 44 - e / 2 ^ 6 % 2 * 2 ^ 6 + frame % 2 ^ 32 * 2 ^ 12 +
    target % 512 * 2 ^ 44 + target / 512 * 2 ^ 53 + (if target / 512 = 2 then 2 ^ 6 else 0)

theorem movedEntry_eq (e frame target : Nat) (hf : frame < 2 ^ 32) : movedEntry e frame target =
    e % 2 ^ 6 + (if target / 512 = 2 then 1 else 0) * 2 ^ 6 + e / 2 ^ 7 % 2 ^ 5 * 2 ^ 7 + frame * 2 ^ 12 + target * 2 ^ 44 +
      e / 2 ^ 55 * 2 ^ 55 := by
  unfold movedEntry
  split <;> omega

theorem targetOk_lt (t : Nat) (h : targetOk t = true) : t < 2 ^ 11 := by
  simp only [targetOk, Bool.or_eq_true, Bool.and_eq_true, beq_iff_eq, decide_eq_true_eq] at h
  omega

theorem movedEntry_lt (e frame target : Nat) (he : e < 2 ^ 64) (hf : frame < 2 ^ 32) (ht : target < 2 ^ 11) : movedEntry e frame target < 2 ^ 64 := by
  rw [movedEntry_eq e frame target hf]
  split <;> omega

/-- The fields of the new entry. -/
theorem movedEntry_fields (e frame target : Nat) (hf : frame < 2 ^ 32) (ht : target < 2 ^ 11) :
    let e' := movedEntry e frame target
    e' / 2 ^ 12 % 2 ^ 32 = frame ∧ e' / 2 ^ 44 % 2 ^ 11 = target ∧ bitOf e' 6 = decide (target / 512 = 2) ∧
      e' % 2 ^ 6 = e % 2 ^ 6 ∧ e' / 2 ^ 7 % 2 ^ 5 = e / 2 ^ 7 % 2 ^ 5 ∧ e' / 2 ^ 55 = e / 2 ^ 55 := by
  intro e'
  have he : e' = _ := movedEntry_eq e frame target hf
  have hbit : bitOf e' 6 = decide (target / 512 = 2) := by
    unfold bitOf
    by_cases h2 : target / 512 = 2
    · rw [if_pos h2] at he; simp only [h2, decide_true, decide_eq_true_eq]; omega
    · rw [if_neg h2] at he; simp only [h2, decide_false, decide_eq_false_iff_not]; omega
  have hni : (if target / 512 = 2 then 1 else 0) < 2 := by split <;> omega
  generalize (if target / 512 = 2 then 1 else 0) = ni at he hni
  exact ⟨by omega, by omega, hbit, by omega, by omega, by omega⟩

/-! ## What the switch is made of -/

/-- An entry without replicas is written alone. -/
theorem State.putPte_single (s : State) (tbl idx e : Nat) (h : pteSize e % 2 = 0) :
    s.putPte tbl idx e = s.wrN ⟨.mem false false, tbl + 8 * idx⟩ 8 e := by
  simp [State.putPte, h]

theorem Loc.moved_frame (old new : Nat) : Loc.moved (4096 * old) (4096 * new) 4096 = Claims.moved old new := by
  funext l
  unfold Loc.moved Claims.moved
  have hin : l.within (0, 4096 * old, 4096 * old + 4096) = true ↔ l.sp.key = 0 ∧ 4096 * old ≤ l.a ∧ l.a < 4096 * old + 4096 := by
    simp only [Loc.within, Bool.and_eq_true, beq_iff_eq, decide_eq_true_eq, and_assoc]
  exact ite_congr (propext hin) (fun _ => rfl) fun _ => rfl

/-- A leaf counted or given up changes the frames in use alone. -/
theorem State.countLeaf_others (s : State) (ten e : Nat) (add : Bool) : ∃ p, s.countLeaf ten e add = { s with placed := p } := by
  unfold State.countLeaf
  dsimp only
  split
  · exact ⟨s.placed, rfl⟩
  · exact ⟨_, rfl⟩

/-! ## The switch of a page of 4 KiB (R75, R97) -/

/-- The bytes of frame `old` copied to frame `new`, and entry `e'` put in the table that names it. -/
def State.frameCopied (s : State) (old new tbl idx e' : Nat) : State :=
  (s.copyBytes (4096 * old) (4096 * new) 4096).wrN ⟨.mem false false, tbl + 8 * idx⟩ 8 e'

/-- What the switch leaves of a state whose frame has been copied. -/
def State.frameSwitched (s : State) (ten va e e' old new : Nat) : State :=
  (((s.dropMigration ten va).countLeaf ten e false).countLeaf ten e' true).mapLocs (Claims.moved old new)

section Switch
variable {s : State} {ten va frame e : Nat} {m : Migration} {x : Tenant} {tbl : Nat}

/-- A switch to a frame of a target with room copies the frame, and goes on from there. -/
theorem pageMigrationSwitch_eq (hw : s.walk ten va = .leaf e)
    (hq : s.migrations.find? (fun m => m.ten == ten && m.va == va && m.copying) = some m) (ht : targetOk m.target = true)
    (hr : s.hasRoom (m.target / 512) (m.target % 512) 1 = true) (hm : Movable e) (hsize : e / 2 ^ 60 % 8 = 0) (hf : frame < 2 ^ 32)
    (hx : s.tenantOf? ten = some x) (htbl : s.tableAt va 4 4 x.root = some tbl) :
    execPageMigrationSwitch ten va frame s = .next ((s.frameCopied (e / 2 ^ 12 % 2 ^ 32) frame tbl (va / 2 ^ 12 % 512)
      (movedEntry e frame m.target)).frameSwitched ten va e (movedEntry e frame m.target) (e / 2 ^ 12 % 2 ^ 32) frame) := by
  have hs : pteSize e = 0 := hsize
  have hs' : pteSize (movedEntry e frame m.target) % 2 = 0 := by
    obtain ⟨-, -, -, -, -, htop⟩ := movedEntry_fields e frame m.target hf (targetOk_lt _ ht)
    show movedEntry e frame m.target / 2 ^ 60 % 8 % 2 = 0
    omega
  have hgo : (frame % pageUnits 0 != 0 || decide (2 ^ 32 ≤ frame) || !moveEligible e || !targetOk m.target ||
      !s.hasRoom (m.target / 512) (m.target % 512) (pageUnits 0)) = false := by
    rw [(moveEligible_iff e).mpr hm, ht, show pageUnits 0 = 1 from rfl, hr, Nat.mod_one, decide_eq_false (by omega)]
    rfl
  simp only [execPageMigrationSwitch, hw, hq, hs]
  rw [← movedEntry]
  simp only [hgo, hx, htbl, Option.bind_some, show pageLevel 0 = 4 from rfl, Bool.false_eq_true, if_false, State.putPte_single _ _ _ _ hs',
    show 4096 * pageUnits 0 = 4096 from rfl, Loc.moved_frame]
  rfl

end Switch

theorem State.frameCopied_others (s : State) (old new tbl idx e' : Nat) :
    ∃ m f, s.frameCopied old new tbl idx e' = { s with mem := m, fill := f } := by
  obtain ⟨m, f, hc⟩ := s.copyBytes_others (4096 * old) (4096 * new) 4096
  obtain ⟨m', f', hw⟩ := (s.copyBytes (4096 * old) (4096 * new) 4096).wrN_mem_others false false (tbl + 8 * idx) 8 e'
  exact ⟨m', f', by rw [State.frameCopied, hw, hc]⟩

theorem State.frameSwitched_eq (s : State) (ten va e e' old new : Nat) :
    ∃ p, s.frameSwitched ten va e e' old new = ({ s.dropMigration ten va with placed := p } : State).mapLocs (Claims.moved old new) := by
  obtain ⟨p, h⟩ := (s.dropMigration ten va).countLeaf_others ten e false
  obtain ⟨p', h'⟩ := ((s.dropMigration ten va).countLeaf ten e false).countLeaf_others ten e' true
  exact ⟨p', by rw [State.frameSwitched, h', h]⟩

/-- The new frame holds the old one's bytes; the entry aside, no byte outside it has changed. -/
theorem State.frameCopied_rdB (s : State) (old new tbl idx e' a : Nat) (hne : new ≠ old) (hl : a < tbl + 8 * idx ∨ tbl + 8 * idx + 8 ≤ a) :
    (s.frameCopied old new tbl idx e').rdB ⟨.mem false false, a⟩ = if 4096 * new ≤ a ∧ a < 4096 * (new + 1)
      then s.rdB ⟨.mem false false, 4096 * old + (a - 4096 * new)⟩ else s.rdB ⟨.mem false false, a⟩ := by
  rw [State.frameCopied, State.rdB_wrN_frame _ _ _ _ _ _ _ _ _ hl, State.rdB_copyBytes _ _ _ _ _ _ _ (by omega), Nat.mul_succ]

/-- The entry reads as it was put. -/
theorem State.frameCopied_rdN (s : State) (old new tbl idx e' : Nat) (he : e' < 2 ^ 64) :
    (s.frameCopied old new tbl idx e').rdN ⟨.mem false false, tbl + 8 * idx⟩ 8 = e' := by
  rw [State.frameCopied, State.rdN_wrN]
  exact Nat.mod_eq_of_lt he

/-! ## The statement -/

/-- Settles O39: PGMOVE answers case by case, a move begins where there is room, and the switch copies the frame, rewrites its
entry and sends what is under way to the new frame. -/
theorem pagesMove : Obligations.PagesMove := by
  refine ⟨?_, ?_, ?_⟩
  · intro f s h a tells
    have here := h.1
    have tell {n s'} (hp : s.pgmove (f.mod.getLsbD 0) (s.scalarSrc f.a) (s.scalarSrc f.b) = (n, s')) (here : Here s') : tells s' n :=
      exec_pgmove h hp here
    refine ⟨fun hbad => ?_, fun e ha hw => ⟨fun ht => tell (State.pgmove_foreign _ ha hw ht) here,
      fun ht hg => tell (State.pgmove_noTarget _ ha hw ht hg) here, fun g ht hg => ⟨fun hm => tell (State.pgmove_fixed _ ha hw ht hg hm) here, ?_⟩⟩⟩
    · rcases hbad with hbad | hbad
      · exact tell (State.pgmove_beyond _ hbad) here
      · exact tell (State.pgmove_noLeaf _ hbad) here
    · have movable (hm : Movable e) := State.pgmove_movable (f.mod.getLsbD 0) ha hw ht hg hm
      refine ⟨fun hm hst => ?there, fun hm hst hroom => ?noRoom, fun hm hst hroom => ?room⟩
      case there => exact tell ((movable hm).trans (if_pos hst)) here
      case noRoom => exact tell ((movable hm).trans (by rw [if_neg hst, if_pos hroom])) here
      case room =>
        have hroom : ¬s.hasRoom g.1 g.2 (pageUnits (e / 2 ^ 60 % 8)) = false := by rw [hroom]; decide
        by_cases hfree : s.fresh.1.getLsbD 0 = true
        · exact .inl (tell ((movable hm).trans (by rw [if_neg hst, if_neg hroom, if_pos hfree])) here)
        · exact .inr (tell ((movable hm).trans (by rw [if_neg hst, if_neg hroom, if_neg hfree])) here)
  · intro s ten va target e hw hm ht room
    exact ⟨fun m hq => State.pageMigrationStart_asked target hw hm ht hq, fun hq => State.pageMigrationStart_policy target hw hm ht hq⟩
  · intro s ten va frame e m x tbl hw hq hok hr hm hsize he hf hx htbl idx old l hne hout
    have htgt := targetOk_lt _ hok
    have hplace : l.a = tbl + 8 * idx := rfl
    obtain ⟨p, ht⟩ := (s.frameCopied old frame tbl idx (movedEntry e frame m.target)).frameSwitched_eq ten va e (movedEntry e frame m.target) old frame
    have hbyte := s.frameCopied_rdB old frame tbl idx (movedEntry e frame m.target)
    have hentry := s.frameCopied_rdN old frame tbl idx _ (movedEntry_lt e frame m.target he hf htgt)
    obtain ⟨mem, fill, hc⟩ := s.frameCopied_others old frame tbl idx (movedEntry e frame m.target)
    have hexec := (pageMigrationSwitch_eq hw hq hok hr hm hsize hf hx htbl).trans (congrArg Host.Outcome.next ht)
    rw [hc] at hexec hbyte hentry
    refine ⟨_, hexec, fun k hk => ?_, ?_, fun a ha hla => ?_,
      rfl, rfl, rfl, rfl, rfl, State.mapLocs_images_installs _ _, rfl⟩
    · refine (hbyte (4096 * frame + k) hne (by omega)).trans ?_
      rw [if_pos (by omega), Nat.add_sub_cancel_left]
    · have hfields := movedEntry_fields e frame m.target hf htgt
      rw [← hentry] at hfields
      exact hfields
    · exact (hbyte a hne hla).trans (if_neg (by omega))

end Sys2Proof.Machine
end
